-- ==== Sys2Proof/Word.lean ====
section
/-! DEFINITION. The word types of the F816 and the sparse maps that hold its large pieces of state. -/

namespace Sys2Proof

/-- One byte (R2). -/
abbrev Byte := BitVec 8
/-- A scalar register or 64-bit port (R45). -/
abbrev Word := BitVec 64
/-- A vector register or 1,024-bit port (R45). -/
abbrev Vec := BitVec 1024

/-- A map with a default: the listed keys rise strictly; what an unlisted key reads as is given by
the reader of the map. -/
abbrev SMap (α : Type) := List (Nat × α)

/-- Bytes by address, in the canonical form of `Memory.wf`: an unlisted address reads as zero. -/
abbrev Memory := SMap Byte

end Sys2Proof
end

