-- ==== Sys2Proof/Config.lean ====
section
/-! DEFINITION. What an implementation fixes and the manual leaves open: opaque constants, so that no
proof can see a value of them. Each is named in the assumption log. -/

namespace Sys2Proof.Config

/-- The n-th free latency, in cycles beyond the first (R286, R313, R367, R380, R422, R423 give unloaded
bounds only). Log entry 8. -/
opaque latency : Nat → Nat

/-- The n-th free choice between two permitted outcomes (R87, R271, R277, R293). Log entry 7. -/
opaque choice : Nat → Bool

/-- The n-th free value (an unstated content of an answer). Log entry 7. -/
opaque value : Nat → Nat

/-- SHAKE256 of a byte string, 64 bytes out: named by R415 and not defined by the manual. Log entry 9. -/
opaque shake256 : List (BitVec 8) → BitVec 512

/-- The SPDM 1.3 message bytes that answer a request (R416): the manual gives their place, not their bytes. They depend on the request, the
identity key, the certificate that binds it, and what is fresh in the exchange. Log entry 10. -/
opaque spdmBody : Nat → Option Nat → Nat → Nat → List (BitVec 8)

/-- A temperature reading by sample number (R407 TEMP). Log entry 11. -/
opaque temperature : Nat → BitVec 16

/-- A power reading of a die by sample number (R421). Log entry 11. -/
opaque power : Nat → BitVec 16

/-- The IDCODE of the module's test access port (R421). Log entry 18. -/
opaque idCode : BitVec 32

end Sys2Proof.Config
end

