-- ==== Sys2Proof/Syntax.lean ====
section
/-! DEFINITION. The instructions and steps of the F816 (spec/opcode_table.json), with the moves that carry them. -/

namespace Sys2Proof

/-- The three strands of a tile (R9). -/
inductive StrandId where
  | feed | compute | drain
  deriving DecidableEq, Repr

/-- The two integer units (R154). -/
inductive IxUnit where
  | ix0 | ix1
  deriving DecidableEq, Repr

/-- The two channels of the copy engine (R264). -/
inductive Channel where
  | cpi | cpo
  deriving DecidableEq, Repr

/-- The guard field G of a move slot, without its reserved value (R40). -/
inductive Guard where
  | always | g1 | ng1 | g2 | ng2 | g3 | ng3
  deriving DecidableEq, Repr

/-- The socket result ports of R45, other than the go ports. -/
inductive ResPort where
  | sysRes | brRes | semRes | mbRes | ix0Res | ix0Hi | ix1Res | ix1Hi | lsRes | lsVres | cpiStat | cpoStat
  | wqRes | nxRres | nxSres | fxRes | tkRes | vxRes | vxSres | sfRes | sfSres | cvRes | cvSres | mxRes | accRes | accSres
  deriving DecidableEq, Repr

/-- The source of a move (R43, R44, R45); a literal source carries the literals of its bundle. -/
inductive Src where
  | x (n : Fin 64) | v (n : Fin 32) | q (n : Fin 16) | g (n : Fin 3) | port (p : ResPort)
  | h (n : Fin 16) | w (n : Fin 8) | go (c : Channel)
  | imm (v : BitVec 9) | litA (v : BitVec 24) | litB (v : BitVec 24) | litAB (v : BitVec 48) | zero
  deriving DecidableEq, Repr

/-- The guard and source of a move (R40). -/
structure Mv where
  g : Guard
  s : Src
  deriving DecidableEq, Repr

/-- A translation that the driver holds valid: a virtual page, its size (2 MiB or 1 GiB) and its physical base (R71). -/
structure Xlate where
  va : Nat
  size : Nat
  pa : Nat
  deriving DecidableEq, Repr

/-- A firmware image as the boot code sees it: whether its signature verifies under the key that comes with it, its security version, its
digest and the hash of that key (R415). -/
structure FwImage where
  sigOk : Bool
  version : Nat
  digest : BitVec 512
  key : BitVec 512
  deriving DecidableEq, Repr

/-- What the error code finds in an atom (R347). -/
inductive AtomError where
  | clean | corrected | uncorrectable
  deriving DecidableEq, Repr

/-- The trigger ports of sys (R122). -/
inductive SysOp where
  | csrr | csrw | waitLd | waitSt | waitCp | trap | brk | ending
  deriving DecidableEq, Repr

/-- The trigger ports of br (R122). -/
inductive BrOp where
  | jmp | call | ret | loop | lexit | mdset | mdrd | mdjmp
  deriving DecidableEq, Repr

/-- The trigger ports of sem (R122). -/
inductive SemOp where
  | post | add | wait | take | takek | rd
  deriving DecidableEq, Repr

/-- The trigger ports of mb (R122). -/
inductive MbOp where
  | wait | pop | cnt
  deriving DecidableEq, Repr

/-- The trigger ports of ix (R154). -/
inductive IxOp where
  | add | sub | and | or | xor | andn | shl | shr | sra | min | max | minu | maxu | mov | sxt | zxt
  | clz | popc | sel | ceq | cne | clt | cle | cltu | cleu | ctst | mul | mulu | mac | div | divu
  deriving DecidableEq, Repr

/-- The trigger ports of ls (R159, R200). -/
inductive LsOp where
  | ld8 | ld8u | ld16 | ld16u | ld32 | ld32u | ld64 | st8 | st16 | st32 | st64 | vld | vst | aadd
  | aswp | acas | amin | amax | aminu | amaxu | aand | aor | axor | aacc | rcfg | racq | rpub
  | rget | rrel | rst | vg16 | vg32 | vg64 | vs16 | vs32 | vs64 | vscaddI32 | vscaddI64 | vscaddF32
  | vscaddF64
  deriving DecidableEq, Repr

/-- The trigger ports of st (R173). -/
inductive StOp where
  | opening | closing
  deriving DecidableEq, Repr

/-- The trigger ports of vx (R184). -/
inductive VxOp where
  | add | sub | mul | fma | fnma | div | sqrt | min | max | abs | neg | and | or | xor | andn | shl
  | shr | sra | clz | ctz | popc | ceq | cne | clt | cle | sel | mskof | radd | rmax | rmin | perm
  | bcast | rot | ext | iota | rnd | bin | hist | rank | stat | sclr
  deriving DecidableEq, Repr

/-- The trigger ports of sf (R204). -/
inductive SfOp where
  | exp2 | log2 | gate | rclr | racc | rcnt | rmax | rsum | rssq | rmean | rvar | stat | sclr
  deriving DecidableEq, Repr

/-- The trigger ports of cv (R216). -/
inductive CvOp where
  | cvt | qnt | dqt | stat | sclr
  deriving DecidableEq, Repr

/-- The trigger ports of mx (R225, R226). -/
inductive MxOp where
  | f64 | f32 | f16 | bf16 | i8 | mx8 | mx6 | mx4 | e4e4 | e4e5 | e5e4 | e5e5 | mdset
  deriving DecidableEq, Repr

/-- The trigger ports of acc (R249). -/
inductive AccOp where
  | clr | resF32 | resBf16 | resF64 | resI32 | cmpz | emit | absorb | rsave | rload | stat | sclr
  deriving DecidableEq, Repr

/-- The trigger ports of cp (R264). -/
inductive CpOp where
  | query | cancel
  deriving DecidableEq, Repr

/-- The trigger ports of nx (R280). -/
inductive NxOp where
  | sub | unsub | rhdr | gcfg | rld | rst | rvst | hrel | hacq | aadd | aswp | acas | amin | amax
  | aminu | amaxu | aand | aor | axor | mcast | xsend | bar | wake | msg
  deriving DecidableEq, Repr

/-- The trigger ports of tk (R318). -/
inductive TkOp where
  | launch | done | est | xlt
  deriving DecidableEq, Repr

/-- The trigger ports of wq (R356). -/
inductive WqOp where
  | commit | post | hsel | cancel
  deriving DecidableEq, Repr

/-- The trigger ports of fx (R371). -/
inductive FxOp where
  | st | vst | faa | cas | fence | coll | cstat | share | stat
  deriving DecidableEq, Repr

/-- A trigger port: writing it starts the operation (R47, R48). -/
inductive Trig where
  | sys (o : SysOp)
  | br (o : BrOp)
  | sem (o : SemOp)
  | mb (o : MbOp)
  | ix (u : IxUnit) (o : IxOp)
  | ls (o : LsOp)
  | st (k : Fin 4) (o : StOp)
  | vx (o : VxOp)
  | sf (o : SfOp)
  | cv (o : CvOp)
  | mx (o : MxOp)
  | acc (o : AccOp)
  | cp (c : Channel) (o : CpOp)
  | nx (o : NxOp)
  | tk (o : TkOp)
  | wq (o : WqOp)
  | fx (o : FxOp)
  deriving DecidableEq, Repr

/-- The instructions and steps of the F816, one constructor per row of the opcode table. A row that a
bundle names carries its guard and source. A step of another agent has no encoding: its operands (which tile,
which task, the value written) are plain data of the state, `State.args`. -/
inductive Instr where
  /-- R16. A strand issues its next bundle whole once its sources, trigger checks, tail room and semaphore condition all pass. -/
  | bundleIssue (w : BitVec 256)
  /-- R39. The POP bit of a head consumes exactly one entry at the end of the bundle. -/
  | headerPop (q : Fin 16)
  /-- R36. The bundle issues only when the named semaphore is at least 1. -/
  | headerSemWait (n : BitVec 6)
  /-- R36. The bundle posts the named semaphore by one. -/
  | headerSemPost (n : BitVec 6)
  /-- R36. The bundle waits until the named semaphore is at least 1 and then decrements it. -/
  | headerSemTake (n : BitVec 6)
  /-- R37. A nop bundle with REP n issues and then idles the strand for n cycles. -/
  | repIdle (n : BitVec 4)
  /-- R49. A move writes a value into scalar register xN. -/
  | moveToX (m : Mv) (n : Fin 64)
  /-- R49. A move sets guard gN to whether the value is non-zero. -/
  | moveToG (m : Mv) (n : Fin 3)
  /-- R49. A move of the compute strand writes vector register vN. -/
  | moveToV (m : Mv) (n : Fin 32)
  /-- R49. A move places a value in an inter-strand queue tail. -/
  | moveToQ (m : Mv) (n : Fin 8)
  /-- R123: sys.csrr. Copies the named CSR into sys.res. -/
  | sysCsrr (m : Mv)
  /-- R123: sys.csrw. Writes sys.v into the named CSR. -/
  | sysCsrw (m : Mv)
  /-- R125: sys.wait.ld. The bundle issues only when LDCNT is at most n. -/
  | sysWaitLd (m : Mv)
  /-- R125: sys.wait.st. The bundle issues only when STCNT is at most n. -/
  | sysWaitSt (m : Mv)
  /-- R125: sys.wait.cp. The bundle issues only when CPCNT is at most n. -/
  | sysWaitCp (m : Mv)
  /-- R127: sys.trap. The bundle issues whole and the strand stops with a TRAP fault carrying the code. -/
  | sysTrap (m : Mv)
  /-- R128: sys.brk. The bundle does not issue; the strand enters debug halt or raises BREAK. -/
  | sysBrk (m : Mv)
  /-- R126: sys.end. Marks the strand's last bundle; the strand issues nothing more. -/
  | sysEnd (m : Mv)
  /-- R129: br.jmp. Branches to the bundle index in the operand. -/
  | brJmp (m : Mv)
  /-- R129: br.call. Pushes the return index and branches to the operand. -/
  | brCall (m : Mv)
  /-- R129: br.ret. Pops the return stack and branches to it. -/
  | brRet (m : Mv)
  /-- R130: br.loop. Starts a hardware loop over the following bundles up to END with count br.n. -/
  | brLoop (m : Mv)
  /-- R130: br.lexit. Ends the inner loop and continues after its END. -/
  | brLexit (m : Mv)
  /-- R132: br.mdset. Sets the strand's metadata counter. -/
  | brMdset (m : Mv)
  /-- R132: br.mdrd. Reads the metadata word at MDC into br.res and advances MDC. -/
  | brMdrd (m : Mv)
  /-- R132: br.mdjmp. Jumps to the bundle index held in a metadata word. -/
  | brMdjmp (m : Mv)
  /-- R133: sem.post. Posts the named tile semaphore by one. -/
  | semPost (m : Mv)
  /-- R133: sem.add. Adds sem.k to the named semaphore. -/
  | semAdd (m : Mv)
  /-- R133: sem.wait. Issues only when the named semaphore is at least 1. -/
  | semWait (m : Mv)
  /-- R133: sem.take. Waits for a count of at least 1 and decrements it. -/
  | semTake (m : Mv)
  /-- R133: sem.takek. Waits for a count of at least k and subtracts k. -/
  | semTakek (m : Mv)
  /-- R133: sem.rd. Delivers the semaphore count to sem.res. -/
  | semRd (m : Mv)
  /-- R137: mb.wait. Issues only when the mailbox holds at least n messages. -/
  | mbWait (m : Mv)
  /-- R137: mb.pop. Pops the mailbox head into mb.res. -/
  | mbPop (m : Mv)
  /-- R137: mb.cnt. Delivers the mailbox occupancy to mb.res. -/
  | mbCnt (m : Mv)
  /-- R155: ix0.add. Delivers a + t. -/
  | ixAdd (u : IxUnit) (m : Mv)
  /-- R155: ix0.sub. Delivers a - t. -/
  | ixSub (u : IxUnit) (m : Mv)
  /-- R155: ix0.and. Delivers a and t. -/
  | ixAnd (u : IxUnit) (m : Mv)
  /-- R155: ix0.or. Delivers a or t. -/
  | ixOr (u : IxUnit) (m : Mv)
  /-- R155: ix0.xor. Delivers a xor t. -/
  | ixXor (u : IxUnit) (m : Mv)
  /-- R155: ix0.andn. Delivers a and not t. -/
  | ixAndn (u : IxUnit) (m : Mv)
  /-- R155: ix0.shl. Delivers a shifted left by t[5:0]. -/
  | ixShl (u : IxUnit) (m : Mv)
  /-- R155: ix0.shr. Delivers a shifted right with zeros. -/
  | ixShr (u : IxUnit) (m : Mv)
  /-- R155: ix0.sra. Delivers a shifted right with sign copies. -/
  | ixSra (u : IxUnit) (m : Mv)
  /-- R155: ix0.min. Delivers the signed minimum of a and t. -/
  | ixMin (u : IxUnit) (m : Mv)
  /-- R155: ix0.max. Delivers the signed maximum of a and t. -/
  | ixMax (u : IxUnit) (m : Mv)
  /-- R155: ix0.minu. Delivers the unsigned minimum. -/
  | ixMinu (u : IxUnit) (m : Mv)
  /-- R155: ix0.maxu. Delivers the unsigned maximum. -/
  | ixMaxu (u : IxUnit) (m : Mv)
  /-- R155: ix0.mov. Delivers t. -/
  | ixMov (u : IxUnit) (m : Mv)
  /-- R155: ix0.sxt. Sign-extends a from bit t[5:0]. -/
  | ixSxt (u : IxUnit) (m : Mv)
  /-- R155: ix0.zxt. Zero-extends a from bit t[5:0]. -/
  | ixZxt (u : IxUnit) (m : Mv)
  /-- R155: ix0.clz. Counts leading zeros of t. -/
  | ixClz (u : IxUnit) (m : Mv)
  /-- R155: ix0.popc. Counts one bits of t. -/
  | ixPopc (u : IxUnit) (m : Mv)
  /-- R155: ix0.sel. Delivers a when t is non-zero, otherwise c. -/
  | ixSel (u : IxUnit) (m : Mv)
  /-- R157: ix0.ceq. Compares a = t, writing res and the selected guard. -/
  | ixCeq (u : IxUnit) (m : Mv)
  /-- R157: ix0.cne. Compares a != t, writing res and the selected guard. -/
  | ixCne (u : IxUnit) (m : Mv)
  /-- R157: ix0.clt. Signed compare a < t. -/
  | ixClt (u : IxUnit) (m : Mv)
  /-- R157: ix0.cle. Signed compare a <= t. -/
  | ixCle (u : IxUnit) (m : Mv)
  /-- R157: ix0.cltu. Unsigned compare a < t. -/
  | ixCltu (u : IxUnit) (m : Mv)
  /-- R157: ix0.cleu. Unsigned compare a <= t. -/
  | ixCleu (u : IxUnit) (m : Mv)
  /-- R157: ix0.ctst. Tests whether a and t is non-zero. -/
  | ixCtst (u : IxUnit) (m : Mv)
  /-- R155: ix0.mul. Signed 128-bit product into res and hi. -/
  | ixMul (u : IxUnit) (m : Mv)
  /-- R155: ix0.mulu. Unsigned 128-bit product into res and hi. -/
  | ixMulu (u : IxUnit) (m : Mv)
  /-- R155: ix0.mac. Delivers a + c x t. -/
  | ixMac (u : IxUnit) (m : Mv)
  /-- R156: ix0.div. Signed quotient and remainder. -/
  | ixDiv (u : IxUnit) (m : Mv)
  /-- R156: ix0.divu. Unsigned quotient and remainder. -/
  | ixDivu (u : IxUnit) (m : Mv)
  /-- R162: ls.ld8. Loads one byte sign-extended. -/
  | lsLd8 (m : Mv)
  /-- R162: ls.ld8u. Loads one byte zero-extended. -/
  | lsLd8u (m : Mv)
  /-- R162: ls.ld16. Loads two bytes sign-extended. -/
  | lsLd16 (m : Mv)
  /-- R162: ls.ld16u. Loads two bytes zero-extended. -/
  | lsLd16u (m : Mv)
  /-- R162: ls.ld32. Loads four bytes sign-extended. -/
  | lsLd32 (m : Mv)
  /-- R162: ls.ld32u. Loads four bytes zero-extended. -/
  | lsLd32u (m : Mv)
  /-- R162: ls.ld64. Loads eight bytes. -/
  | lsLd64 (m : Mv)
  /-- R162: ls.st8. Stores one byte of ls.d. -/
  | lsSt8 (m : Mv)
  /-- R162: ls.st16. Stores two bytes of ls.d. -/
  | lsSt16 (m : Mv)
  /-- R162: ls.st32. Stores four bytes of ls.d. -/
  | lsSt32 (m : Mv)
  /-- R162: ls.st64. Stores eight bytes of ls.d. -/
  | lsSt64 (m : Mv)
  /-- R162: ls.vld. Loads 128 bytes into ls.vres. -/
  | lsVld (m : Mv)
  /-- R162: ls.vst. Stores ls.vd as 128 bytes. -/
  | lsVst (m : Mv)
  /-- R164: ls.aadd. Atomic add returning the old value. -/
  | lsAadd (m : Mv)
  /-- R164: ls.aswp. Atomic swap returning the old value. -/
  | lsAswp (m : Mv)
  /-- R164: ls.acas. Atomic compare-and-swap returning the old value. -/
  | lsAcas (m : Mv)
  /-- R164: ls.amin. Atomic signed minimum. -/
  | lsAmin (m : Mv)
  /-- R164: ls.amax. Atomic signed maximum. -/
  | lsAmax (m : Mv)
  /-- R164: ls.aminu. Atomic unsigned minimum. -/
  | lsAminu (m : Mv)
  /-- R164: ls.amaxu. Atomic unsigned maximum. -/
  | lsAmaxu (m : Mv)
  /-- R164: ls.aand. Atomic and. -/
  | lsAand (m : Mv)
  /-- R164: ls.aor. Atomic or. -/
  | lsAor (m : Mv)
  /-- R164: ls.axor. Atomic xor. -/
  | lsAxor (m : Mv)
  /-- R165: ls.aacc. Adds ls.d into memory as INT32, INT64, FP32 or FP64 with no result. -/
  | lsAacc (m : Mv)
  /-- R169: ls.rcfg. Configures a ring from ls.rdesc. -/
  | lsRcfg (m : Mv)
  /-- R170: ls.racq. Acquires a free producer slot of a ring. -/
  | lsRacq (m : Mv)
  /-- R170: ls.rpub. Publishes a producer slot to consumers. -/
  | lsRpub (m : Mv)
  /-- R170: ls.rget. Takes a published consumer slot of a ring. -/
  | lsRget (m : Mv)
  /-- R170: ls.rrel. Releases a consumer slot back to producers. -/
  | lsRrel (m : Mv)
  /-- R170: ls.rst. Delivers the ring status word. -/
  | lsRst (m : Mv)
  /-- R201: ls.vg16. Gathers 16-bit elements by an index vector. -/
  | lsVg16 (m : Mv)
  /-- R201: ls.vg32. Gathers 32-bit elements. -/
  | lsVg32 (m : Mv)
  /-- R201: ls.vg64. Gathers 64-bit elements. -/
  | lsVg64 (m : Mv)
  /-- R201: ls.vs16. Scatters 16-bit elements. -/
  | lsVs16 (m : Mv)
  /-- R201: ls.vs32. Scatters 32-bit elements. -/
  | lsVs32 (m : Mv)
  /-- R201: ls.vs64. Scatters 64-bit elements. -/
  | lsVs64 (m : Mv)
  /-- R201: ls.vscadd.i32. Scatter-adds INT32 elements in lane order. -/
  | lsVscaddI32 (m : Mv)
  /-- R201: ls.vscadd.i64. Scatter-adds INT64 elements. -/
  | lsVscaddI64 (m : Mv)
  /-- R201: ls.vscadd.f32. Scatter-adds FP32 elements in RNE. -/
  | lsVscaddF32 (m : Mv)
  /-- R201: ls.vscadd.f64. Scatter-adds FP64 elements in RNE. -/
  | lsVscaddF64 (m : Mv)
  /-- R176: st0.open. Opens a stream generator with its selector, base, dimensions and configuration. -/
  | stOpen (k : Fin 4) (m : Mv)
  /-- R179: st0.close. Discards a stream's entries and fetches and makes it idle. -/
  | stClose (k : Fin 4) (m : Mv)
  /-- R189: vx.add. Lane-wise addition. -/
  | vxAdd (m : Mv)
  /-- R189: vx.sub. Lane-wise subtraction. -/
  | vxSub (m : Mv)
  /-- R189: vx.mul. Lane-wise multiplication. -/
  | vxMul (m : Mv)
  /-- R189: vx.fma. Lane-wise fused multiply-add. -/
  | vxFma (m : Mv)
  /-- R189: vx.fnma. Lane-wise fused negated multiply-add. -/
  | vxFnma (m : Mv)
  /-- R191: vx.div. Lane-wise correctly rounded division. -/
  | vxDiv (m : Mv)
  /-- R191: vx.sqrt. Lane-wise correctly rounded square root. -/
  | vxSqrt (m : Mv)
  /-- R189: vx.min. Lane-wise minimum. -/
  | vxMin (m : Mv)
  /-- R189: vx.max. Lane-wise maximum. -/
  | vxMax (m : Mv)
  /-- R189: vx.abs. Lane-wise absolute value. -/
  | vxAbs (m : Mv)
  /-- R189: vx.neg. Lane-wise negation. -/
  | vxNeg (m : Mv)
  /-- R192: vx.and. Lane-wise and. -/
  | vxAnd (m : Mv)
  /-- R192: vx.or. Lane-wise or. -/
  | vxOr (m : Mv)
  /-- R192: vx.xor. Lane-wise xor. -/
  | vxXor (m : Mv)
  /-- R192: vx.andn. Lane-wise and-not. -/
  | vxAndn (m : Mv)
  /-- R192: vx.shl. Lane-wise shift left. -/
  | vxShl (m : Mv)
  /-- R192: vx.shr. Lane-wise logical shift right. -/
  | vxShr (m : Mv)
  /-- R192: vx.sra. Lane-wise arithmetic shift right. -/
  | vxSra (m : Mv)
  /-- R192: vx.clz. Lane-wise leading zero count. -/
  | vxClz (m : Mv)
  /-- R192: vx.ctz. Lane-wise trailing zero count. -/
  | vxCtz (m : Mv)
  /-- R192: vx.popc. Lane-wise population count. -/
  | vxPopc (m : Mv)
  /-- R193: vx.ceq. Lane-wise equal compare. -/
  | vxCeq (m : Mv)
  /-- R193: vx.cne. Lane-wise not-equal compare. -/
  | vxCne (m : Mv)
  /-- R193: vx.clt. Lane-wise less-than compare. -/
  | vxClt (m : Mv)
  /-- R193: vx.cle. Lane-wise less-or-equal compare. -/
  | vxCle (m : Mv)
  /-- R194: vx.sel. Selects A or T per lane by vx.m. -/
  | vxSel (m : Mv)
  /-- R194: vx.mskof. Delivers a mask of non-zero lanes to vx.sres. -/
  | vxMskof (m : Mv)
  /-- R195: vx.radd. Reduces enabled lanes by addition in fixed tree order. -/
  | vxRadd (m : Mv)
  /-- R195: vx.rmax. Reduces enabled lanes to their maximum. -/
  | vxRmax (m : Mv)
  /-- R195: vx.rmin. Reduces enabled lanes to their minimum. -/
  | vxRmin (m : Mv)
  /-- R196: vx.perm. Permutes lanes of vx.a by index lanes. -/
  | vxPerm (m : Mv)
  /-- R196: vx.bcast. Broadcasts one lane of vx.a. -/
  | vxBcast (m : Mv)
  /-- R196: vx.rot. Rotates the lanes of vx.a. -/
  | vxRot (m : Mv)
  /-- R196: vx.ext. Extracts one lane of vx.a to vx.sres. -/
  | vxExt (m : Mv)
  /-- R196: vx.iota. Fills lanes with t + i. -/
  | vxIota (m : Mv)
  /-- R197: vx.rnd. Delivers counter-based random words per lane. -/
  | vxRnd (m : Mv)
  /-- R198: vx.bin. Sorts coordinates into cell numbers. -/
  | vxBin (m : Mv)
  /-- R199: vx.hist. Counts lanes per cell number. -/
  | vxHist (m : Mv)
  /-- R199: vx.rank. Ranks each lane among earlier lanes of the same cell. -/
  | vxRank (m : Mv)
  /-- R188: vx.stat. Delivers the vx status word. -/
  | vxStat (m : Mv)
  /-- R188: vx.sclr. Clears the vx sticky flags. -/
  | vxSclr (m : Mv)
  /-- R208: sf.exp2. Lane-wise correctly rounded 2^x. -/
  | sfExp2 (m : Mv)
  /-- R208: sf.log2. Lane-wise correctly rounded log2 x. -/
  | sfLog2 (m : Mv)
  /-- R209: sf.gate. Lane-wise fused gate a x b / (1 + 2^(-k b)) rounded once. -/
  | sfGate (m : Mv)
  /-- R210: sf.rclr. Clears a row-statistics set. -/
  | sfRclr (m : Mv)
  /-- R211: sf.racc. Adds enabled lanes into a row-statistics set. -/
  | sfRacc (m : Mv)
  /-- R213: sf.rcnt. Reads the set's count. -/
  | sfRcnt (m : Mv)
  /-- R213: sf.rmax. Reads the set's maximum as FP32. -/
  | sfRmax (m : Mv)
  /-- R213: sf.rsum. Resolves the set's sum to FP32. -/
  | sfRsum (m : Mv)
  /-- R213: sf.rssq. Resolves the set's sum of squares to FP32. -/
  | sfRssq (m : Mv)
  /-- R213: sf.rmean. Delivers the set's mean as FP32. -/
  | sfRmean (m : Mv)
  /-- R214: sf.rvar. Delivers the set's population variance through RowVar. -/
  | sfRvar (m : Mv)
  /-- R207: sf.stat. Delivers the sf status word. -/
  | sfStat (m : Mv)
  /-- R207: sf.sclr. Clears the sf sticky flags. -/
  | sfSclr (m : Mv)
  /-- R221: cv.cvt. Converts lanes between scalar formats into a chosen part of the word. -/
  | cvCvt (m : Mv)
  /-- R222: cv.qnt. Quantises blocks into MXINT elements and E8M0 scales. -/
  | cvQnt (m : Mv)
  /-- R223: cv.dqt. Expands MXINT blocks into floating-point lanes. -/
  | cvDqt (m : Mv)
  /-- R219: cv.stat. Delivers the cv status word. -/
  | cvStat (m : Mv)
  /-- R219: cv.sclr. Clears the cv sticky flags. -/
  | cvSclr (m : Mv)
  /-- R225: mx.f64. Starts an FP64 matrix operation into an accumulator. -/
  | mxF64 (m : Mv)
  /-- R225: mx.f32. Starts an FP32 matrix operation. -/
  | mxF32 (m : Mv)
  /-- R225: mx.f16. Starts an FP16 matrix operation. -/
  | mxF16 (m : Mv)
  /-- R225: mx.bf16. Starts a BF16 matrix operation. -/
  | mxBf16 (m : Mv)
  /-- R225: mx.i8. Starts an 8-bit integer matrix operation. -/
  | mxI8 (m : Mv)
  /-- R225: mx.mx8. Starts an MXINT8 matrix operation. -/
  | mxMx8 (m : Mv)
  /-- R225: mx.mx6. Starts an MXINT6 matrix operation. -/
  | mxMx6 (m : Mv)
  /-- R225: mx.mx4. Starts an MXINT4 matrix operation. -/
  | mxMx4 (m : Mv)
  /-- R225: mx.e4e4. Starts an E4M3 by E4M3 matrix operation. -/
  | mxE4e4 (m : Mv)
  /-- R225: mx.e4e5. Starts an E4M3 by E5M2 matrix operation. -/
  | mxE4e5 (m : Mv)
  /-- R225: mx.e5e4. Starts an E5M2 by E4M3 matrix operation. -/
  | mxE5e4 (m : Mv)
  /-- R225: mx.e5e5. Starts an E5M2 by E5M2 matrix operation. -/
  | mxE5e5 (m : Mv)
  /-- R242: mx.mdset. Sets the matrix metadata pointer MXMDC. -/
  | mxMdset (m : Mv)
  /-- R253: acc.clr. Clears all entries of an accumulator. -/
  | accClr (m : Mv)
  /-- R254: acc.res.f32. Resolves a run of entries to FP32 lanes. -/
  | accResF32 (m : Mv)
  /-- R254: acc.res.bf16. Resolves a run of entries to BF16 lanes. -/
  | accResBf16 (m : Mv)
  /-- R254: acc.res.f64. Resolves a run of entries to FP64 lanes. -/
  | accResF64 (m : Mv)
  /-- R254: acc.res.i32. Resolves a run of entries to INT32 lanes. -/
  | accResI32 (m : Mv)
  /-- R255: acc.cmpz. Reports the sign class of each entry without rounding. -/
  | accCmpz (m : Mv)
  /-- R257: acc.emit. Delivers eight entries as exact mantissa-exponent pairs. -/
  | accEmit (m : Mv)
  /-- R258: acc.absorb. Adds eight pairs into a run of entries through Align. -/
  | accAbsorb (m : Mv)
  /-- R259: acc.rsave. Writes the raw images of one accumulator row to SPM. -/
  | accRsave (m : Mv)
  /-- R259: acc.rload. Loads raw entry images of one row from SPM. -/
  | accRload (m : Mv)
  /-- R261: acc.stat. Delivers the acc status word. -/
  | accStat (m : Mv)
  /-- R261: acc.sclr. Clears the acc sticky flags. -/
  | accSclr (m : Mv)
  /-- R268. Reading a go port shadows the channel operands, launches a copy and returns its transfer id. -/
  | copyLaunch (c : Channel) (g : Guard) (n : Fin 64)
  /-- R276: cpi.query. Delivers the state of a copy of the channel. -/
  | cpQuery (c : Channel) (m : Mv)
  /-- R277: cpi.cancel. Cancels an unfinished copy of the channel. -/
  | cpCancel (c : Channel) (m : Mv)
  /-- R292: nx.sub. Subscribes the tile to a multicast tag. -/
  | nxSub (m : Mv)
  /-- R292: nx.unsub. Unsubscribes the tile from a multicast tag. -/
  | nxUnsub (m : Mv)
  /-- R294: nx.rhdr. Delivers the header of the q12 head entry. -/
  | nxRhdr (m : Mv)
  /-- R291: nx.gcfg. Sets the tile's idle threshold for power gating. -/
  | nxGcfg (m : Mv)
  /-- R283: nx.rld. Loads 8 bytes from a remote window. -/
  | nxRld (m : Mv)
  /-- R283: nx.rst. Stores 8 bytes to a remote window. -/
  | nxRst (m : Mv)
  /-- R283: nx.rvst. Stores 128 bytes to a remote window. -/
  | nxRvst (m : Mv)
  /-- R288: nx.hrel. Releases a handle range by writing its dirty lines home. -/
  | nxHrel (m : Mv)
  /-- R288: nx.hacq. Acquires a handle range by writing back and dropping its lines. -/
  | nxHacq (m : Mv)
  /-- R283: nx.aadd. Remote or global atomic add at the home. -/
  | nxAadd (m : Mv)
  /-- R283: nx.aswp. Remote or global atomic swap. -/
  | nxAswp (m : Mv)
  /-- R283: nx.acas. Remote or global compare-and-swap. -/
  | nxAcas (m : Mv)
  /-- R283: nx.amin. Remote or global atomic signed minimum. -/
  | nxAmin (m : Mv)
  /-- R283: nx.amax. Remote or global atomic signed maximum. -/
  | nxAmax (m : Mv)
  /-- R283: nx.aminu. Remote or global atomic unsigned minimum. -/
  | nxAminu (m : Mv)
  /-- R283: nx.amaxu. Remote or global atomic unsigned maximum. -/
  | nxAmaxu (m : Mv)
  /-- R283: nx.aand. Remote or global atomic and. -/
  | nxAand (m : Mv)
  /-- R283: nx.aor. Remote or global atomic or. -/
  | nxAor (m : Mv)
  /-- R283: nx.axor. Remote or global atomic xor. -/
  | nxAxor (m : Mv)
  /-- R293: nx.mcast. Sends a payload to every subscriber of a tag. -/
  | nxMcast (m : Mv)
  /-- R301: nx.xsend. Captures a scheduled send's payload for departure at its slot. -/
  | nxXsend (m : Mv)
  /-- R296: nx.bar. Arrives at the next barrier of the gang's domain with a vote and phase. -/
  | nxBar (m : Mv)
  /-- R289: nx.wake. Sends a wake message to a strand's mailbox. -/
  | nxWake (m : Mv)
  /-- R289: nx.msg. Sends a tile message to a strand's mailbox. -/
  | nxMsg (m : Mv)
  /-- R319: tk.launch. Submits a launch record into the issuing task's kernel. -/
  | tkLaunch (m : Mv)
  /-- R320: tk.done. Closes a region record and starts its end action. -/
  | tkDone (m : Mv)
  /-- R321: tk.est. Delivers the state of a region record. -/
  | tkEst (m : Mv)
  /-- R322: tk.xlt. Loads translations of a LAZY range into the region TLB. -/
  | tkXlt (m : Mv)
  /-- R358: wq.commit. Advances a stream's committed length after writing back the appended lines. -/
  | wqCommit (m : Mv)
  /-- R359: wq.post. Posts a Weevil query from a command block and reserves 16 q15 entries. -/
  | wqPost (m : Mv)
  /-- R365: wq.hsel. Selects the part of the q15 head entry that reads present. -/
  | wqHsel (m : Mv)
  /-- R366: wq.cancel. Cancels an accepted query so that unread rows are skipped. -/
  | wqCancel (m : Mv)
  /-- R372: fx.st. Stores 8 bytes into a peer package export. -/
  | fxSt (m : Mv)
  /-- R372: fx.vst. Stores 128 bytes into a peer package export. -/
  | fxVst (m : Mv)
  /-- R372: fx.faa. Fetch-and-add at a peer package home. -/
  | fxFaa (m : Mv)
  /-- R372: fx.cas. Compare-and-swap at a peer package home. -/
  | fxCas (m : Mv)
  /-- R376: fx.fence. Writes a flag after the strand's earlier accesses to that package are performed. -/
  | fxFence (m : Mv)
  /-- R382: fx.coll. Posts a ring collective on a bucket. -/
  | fxColl (m : Mv)
  /-- R387: fx.cstat. Delivers the state and code of a collective. -/
  | fxCstat (m : Mv)
  /-- R390: fx.share. Sets the link weights of the collective and one-sided classes. -/
  | fxShare (m : Mv)
  /-- R374: fx.stat. Delivers and clears the FXERR byte of a package. -/
  | fxStat (m : Mv)
  /-- R88. A post is applied at the end of the first cycle in which the store buffer holds no earlier store. -/
  | semPostApply
  /-- R21. A fixed-latency operation places its result on a free-running result port at its landing cycle. -/
  | resultLand
  /-- R22. A waiting result enters an empty data-locked result port in trigger order. -/
  | dataLockedDeliver
  /-- R24. After a resume each valid shadow is placed on its port at cycle c' + d - 1. -/
  | shadowLand
  /-- R151. With a debugger attached the strand halts before a breakpointed bundle and reports the halt. -/
  | debugHalt
  /-- R137. A message enters a strand's mailbox, waiting while it is full. -/
  | mailboxMessageEnter
  /-- R172. An rpub or rrel is applied once the strand's store buffer holds no earlier store. -/
  | ringCommitApply
  /-- R77. The oldest store leaves the strand's store buffer and is performed at die scope. -/
  | storeBufferDrain
  /-- R163. A peer, handle or remote load or atomic returns its value after a variable time. -/
  | loadReturn
  /-- R166. A mapped load or atomic value is written into xN, or dropped by a later write. -/
  | mappedWriteLand
  /-- R68. A peer SPM access reaches the target tile's SPM port and is performed if the target task is live. -/
  | peerAccessPerform
  /-- R177. The generator fetches the next element once it has room and the scoreboard allows. -/
  | streamFetch
  /-- R178. An ORD stream refetches elements that a later store of its strand covered. -/
  | streamRefetch
  /-- R212. An racc updates its set at the end of cycle t + 3. -/
  | raccTakeEffect
  /-- R233. A matrix operation adds its terms into every accumulator entry and places its result word. -/
  | mxLand
  /-- R252. An absorb writes its entries at the end of cycle t + 5, setting OF on overflow. -/
  | absorbWrite
  /-- R260. The saved bytes are performed at home at the end of cycle t + 7. -/
  | rsavePerform
  /-- R252. An rload writes its entries at the end of cycle t + 7. -/
  | rloadWrite
  /-- R274. When every destination byte is performed the copy sends its message and applies its post. -/
  | copyComplete
  /-- R275. A completed copy whose message has entered its mailbox leaves the scoreboard and drops CPCNT. -/
  | copyRetire
  /-- R278. A copy that meets a gone target or poison stops, retires and faults its strand. -/
  | copyError
  /-- R292. The sub or unsub result lands when every router has acknowledged. -/
  | subComplete
  /-- R86. A release or acquire on a handle completes when home holds the written-back bytes. -/
  | handleSyncComplete
  /-- R283. A remote or global nx access is performed at its home. -/
  | remoteAccessPerform
  /-- R293. A multicast message enters a subscriber's q12, waiting while it is full. -/
  | mcastDeliver
  /-- R302. A held send departs at T0 + CYC onto its time-division path. -/
  | scheduledSendDepart
  /-- R302. A scheduled payload is performed at the receiver's window after its path delay. -/
  | scheduledSendPerform
  /-- R297. When all members have arrived the barrier delivers the votes and enters the next phase. -/
  | barrierComplete
  /-- R291. After the idle threshold of cycles the gate latch goes ARMED. -/
  | gateArm
  /-- R291. An ARMED latch with no arrival goes GATED at the end of cycle g + 1. -/
  | gateClose
  /-- R291. An arrival opens the latch and is delivered after LAT_WAKE. -/
  | gateWake
  /-- R358. The commit reads the descriptor at home, checks it and writes LEN, delivering its code. -/
  | commitComplete
  /-- R359. The device reads and checks the command block and descriptor and accepts or rejects the query. -/
  | queryAccept
  /-- R362. A Weevil unit scans its bank's tokens into a partial triple. -/
  | bankScan
  /-- R363. A stack's combined triple enters q15; the sixteenth retires the query. -/
  | tripleDeliver
  /-- R372. A one-sided fx operation is performed at the peer home or fails and sets FXERR. -/
  | fxPerform
  /-- R376. The fence flag is performed at home and its result with error bits lands. -/
  | fenceComplete
  /-- R383. The engine takes the readiness semaphore for the oldest waiting collective. -/
  | collectiveReady
  /-- R384. After all members post and exchange, the collective writes its bucket, posts CSEM and retires. -/
  | collectiveComplete
  /-- R410. A host write of LQTAIL makes new launch queue entries available to Scarab. -/
  | launchQueueDoorbell
  /-- R34. Scarab takes a launch record and its tables, reads GEN twice and accepts or rejects the launch. -/
  | launchAccept
  /-- R413. The driver answers a page request, valid or impossible. -/
  | pgrespWrite
  /-- R308. All non-LAZY pages of a task are translated and pinned and it becomes WAITING. -/
  | translationComplete
  /-- R310. Scarab places a READY task or gang on free tiles and loads its stores. -/
  | taskPlace
  /-- R312. Scarab invalidates and stages each record of a placed task. -/
  | startAction
  /-- R314. An edge action finishes and its record's EST becomes DONE. -/
  | edgeActionComplete
  /-- R26. With all records DONE and dependences satisfied the three strands start. -/
  | taskStart
  /-- R126. When all strands have ended and drained the task enters ENDING and starts its end actions. -/
  | taskFinish
  /-- R311. An ENDING task's tile is released once every STAGE_OUT has read its window. -/
  | tileRelease
  /-- R329. A task commits once lower overlapping tasks have committed, releasing held lines and operations. -/
  | taskCommit
  /-- R304. A task whose end actions are DONE retires, satisfying its dependants. -/
  | taskRetire
  /-- R305. When all tasks of a kernel retire Scarab reports its completion. -/
  | kernelComplete
  /-- R324. After a higher-priority task waits 100 us the firmware sends a pre-emption notice. -/
  | preemptNotice
  /-- R144. Scarab injects a stop token into the feed strand, which halts. -/
  | stopTokenInject
  /-- R144. A strand that received the token halts and passes it on. -/
  | strandHaltOnToken
  /-- R145. After in-flight work drains the context image is written and the task is STOPPED. -/
  | stopComplete
  /-- R142. A strand's fault halts the other strands and starts the stop of its task. -/
  | taskFault
  /-- R149. Scarab reloads a stopped task's stores and image and starts its strands. -/
  | taskResume
  /-- R330. Scarab writes dirty lines home, empties the undo log and sets a new boundary. -/
  | checkpoint
  /-- R332. Scarab replays the undo log and returns the context's alive kernels to the boundary. -/
  | rollback
  /-- R333. Scarab aborts a kernel, restoring memory to the boundary and reporting it. -/
  | kernelAbort
  /-- R334. Scarab fences a failed or hung tile and rolls back its kernel. -/
  | tileFence
  /-- R337. A fault is carried to other gang members at their next bar, xsend or barrier wait. -/
  | domainAbort
  /-- R337. 20 us after the fault a member receives DOMAIN_ABORT at its next bundle boundary. -/
  | domainAbortDeadline
  /-- R419. A kernel running WDOG ms has its tasks stopped with WATCHDOG records. -/
  | watchdog
  /-- R419. Stag probes each tile every 1 ms and fences one that fails 10 probes. -/
  | hangProbe
  /-- R411. Scarab raises the completion or fault vector at most once per microsecond. -/
  | completionVector
  /-- R410. The host frees completion queue entries. -/
  | cqheadWrite
  /-- R412. The host frees fault queue entries, releasing held records. -/
  | fqheadWrite
  /-- R414. The host sends a TYPE 5 message to a strand's mailbox or gets KIND 6. -/
  | hmsgbWrite
  /-- R408. Enables or disables a context and sets its weight and job. -/
  | ctxctlWrite
  /-- R408. The debug interface halts the selected strand. -/
  | dbgcmdHalt
  /-- R408. The debug interface resumes the selected strand. -/
  | dbgcmdResume
  /-- R152. The debug interface single-steps the selected strand. -/
  | dbgcmdStep
  /-- R409. The first write after reset stores the accepted features masked by the offered ones. -/
  | featAccWrite
  /-- R418. Sets the module power limit, clamped to 1,000-4,200 W. -/
  | pwrlimWrite
  /-- R408. A write to a BAR0 register with no behaviour of its own stores the value. -/
  | registerWrite
  /-- R406. A host read or write through the device-memory window reaches HBM home. -/
  | bar2Access
  /-- R417. Reset starts link training and the bring-up sequence. -/
  | powerOnReset
  /-- R415. A die checks, measures and runs the next firmware stage or enters RECOVERY. -/
  | bootStage
  /-- R416. SPDM request answered over DOE. -/
  | getVersion
  /-- R416. SPDM request answered over DOE. -/
  | getCapabilities
  /-- R416. SPDM request answered over DOE. -/
  | negotiateAlgorithms
  /-- R416. SPDM request answered over DOE. -/
  | getDigests
  /-- R416. SPDM request answered over DOE. -/
  | getCertificate
  /-- R416. SPDM challenge signed with the boot-time identity key. -/
  | challenge
  /-- R416. Returns the count or all 40 measurement blocks. -/
  | getMeasurements
  /-- R418. On power excess the governor lowers the clock by 100 MHz every 50 us, then spaces issue. -/
  | governorStepDown
  /-- R418. After 1 ms of margin the governor lifts spacing or raises the clock one step. -/
  | governorStepUp
  /-- R420. Stag updates a die's Scarab firmware while running work continues. -/
  | firmwareUpdate
  /-- R420. A failed Fjolos link is retrained and its traffic rerouted. -/
  | linkRetrain
  /-- R340. Stag changes a stack window entry and zeroes the window. -/
  | windowTableChange
  /-- R344. Each bank is refreshed once per 3.9 us interval. -/
  | bankRefresh
  /-- R345. A row's activation count reaching ACTTH triggers neighbour refresh and back-off. -/
  | rowHammerAlert
  /-- R347. The scrub reads every atom once in 24 hours, correcting or poisoning. -/
  | patrolScrub
  /-- R349. Stag copies a row into a spare and validates its remap entry. -/
  | rowRemap
  /-- R351. Failed remap copies fence a pseudo-channel and roll back kernels that map it. -/
  | pseudoChannelFence
  /-- R399. gyld checks, binds, relocates and registers a code object. -/
  | gyldLoad
  /-- R402. gyld removes an image whose reference count is zero. -/
  | gyldUnload
  /-- R403. gyld removes an image and marks its waiting and stopped tasks. -/
  | gyldForcedUnload
  /-- R405. gyld makes a private image for one context to be debugged. -/
  | copyOnDebug
  /-- R405. gyld removes the private image replacement. -/
  | endCopyOnDebug
  /-- R87. A die cache writes a dirty byte back to home at a moment of its own choosing, for example on eviction. -/
  | dieCacheWriteBack
  /-- R177. A handle stream's fetched element reaches its head after a variable die-cache latency, or meets poison. -/
  | handleStreamFetchReturn
  /-- R322. The region TLB loads of a tk.xlt finish and its result word lands on tk.res. -/
  | xltLoadsComplete
  /-- R344. A stack reports its temperature crossing 85 degrees C, halving or restoring the refresh periods. -/
  | stackTemperatureReport
  /-- R415. A die in RECOVERY receives a firmware image through DOE. -/
  | recoveryFirmwareImage
  deriving DecidableEq, Repr

/-- The instruction that a one-move bundle writing a trigger port is. -/
def Instr.ofTrig : Trig → Mv → Instr
  | .sys .csrr, m => .sysCsrr m
  | .sys .csrw, m => .sysCsrw m
  | .sys .waitLd, m => .sysWaitLd m
  | .sys .waitSt, m => .sysWaitSt m
  | .sys .waitCp, m => .sysWaitCp m
  | .sys .trap, m => .sysTrap m
  | .sys .brk, m => .sysBrk m
  | .sys .ending, m => .sysEnd m
  | .br .jmp, m => .brJmp m
  | .br .call, m => .brCall m
  | .br .ret, m => .brRet m
  | .br .loop, m => .brLoop m
  | .br .lexit, m => .brLexit m
  | .br .mdset, m => .brMdset m
  | .br .mdrd, m => .brMdrd m
  | .br .mdjmp, m => .brMdjmp m
  | .sem .post, m => .semPost m
  | .sem .add, m => .semAdd m
  | .sem .wait, m => .semWait m
  | .sem .take, m => .semTake m
  | .sem .takek, m => .semTakek m
  | .sem .rd, m => .semRd m
  | .mb .wait, m => .mbWait m
  | .mb .pop, m => .mbPop m
  | .mb .cnt, m => .mbCnt m
  | .ix u .add, m => .ixAdd u m
  | .ix u .sub, m => .ixSub u m
  | .ix u .and, m => .ixAnd u m
  | .ix u .or, m => .ixOr u m
  | .ix u .xor, m => .ixXor u m
  | .ix u .andn, m => .ixAndn u m
  | .ix u .shl, m => .ixShl u m
  | .ix u .shr, m => .ixShr u m
  | .ix u .sra, m => .ixSra u m
  | .ix u .min, m => .ixMin u m
  | .ix u .max, m => .ixMax u m
  | .ix u .minu, m => .ixMinu u m
  | .ix u .maxu, m => .ixMaxu u m
  | .ix u .mov, m => .ixMov u m
  | .ix u .sxt, m => .ixSxt u m
  | .ix u .zxt, m => .ixZxt u m
  | .ix u .clz, m => .ixClz u m
  | .ix u .popc, m => .ixPopc u m
  | .ix u .sel, m => .ixSel u m
  | .ix u .ceq, m => .ixCeq u m
  | .ix u .cne, m => .ixCne u m
  | .ix u .clt, m => .ixClt u m
  | .ix u .cle, m => .ixCle u m
  | .ix u .cltu, m => .ixCltu u m
  | .ix u .cleu, m => .ixCleu u m
  | .ix u .ctst, m => .ixCtst u m
  | .ix u .mul, m => .ixMul u m
  | .ix u .mulu, m => .ixMulu u m
  | .ix u .mac, m => .ixMac u m
  | .ix u .div, m => .ixDiv u m
  | .ix u .divu, m => .ixDivu u m
  | .ls .ld8, m => .lsLd8 m
  | .ls .ld8u, m => .lsLd8u m
  | .ls .ld16, m => .lsLd16 m
  | .ls .ld16u, m => .lsLd16u m
  | .ls .ld32, m => .lsLd32 m
  | .ls .ld32u, m => .lsLd32u m
  | .ls .ld64, m => .lsLd64 m
  | .ls .st8, m => .lsSt8 m
  | .ls .st16, m => .lsSt16 m
  | .ls .st32, m => .lsSt32 m
  | .ls .st64, m => .lsSt64 m
  | .ls .vld, m => .lsVld m
  | .ls .vst, m => .lsVst m
  | .ls .aadd, m => .lsAadd m
  | .ls .aswp, m => .lsAswp m
  | .ls .acas, m => .lsAcas m
  | .ls .amin, m => .lsAmin m
  | .ls .amax, m => .lsAmax m
  | .ls .aminu, m => .lsAminu m
  | .ls .amaxu, m => .lsAmaxu m
  | .ls .aand, m => .lsAand m
  | .ls .aor, m => .lsAor m
  | .ls .axor, m => .lsAxor m
  | .ls .aacc, m => .lsAacc m
  | .ls .rcfg, m => .lsRcfg m
  | .ls .racq, m => .lsRacq m
  | .ls .rpub, m => .lsRpub m
  | .ls .rget, m => .lsRget m
  | .ls .rrel, m => .lsRrel m
  | .ls .rst, m => .lsRst m
  | .ls .vg16, m => .lsVg16 m
  | .ls .vg32, m => .lsVg32 m
  | .ls .vg64, m => .lsVg64 m
  | .ls .vs16, m => .lsVs16 m
  | .ls .vs32, m => .lsVs32 m
  | .ls .vs64, m => .lsVs64 m
  | .ls .vscaddI32, m => .lsVscaddI32 m
  | .ls .vscaddI64, m => .lsVscaddI64 m
  | .ls .vscaddF32, m => .lsVscaddF32 m
  | .ls .vscaddF64, m => .lsVscaddF64 m
  | .st k .opening, m => .stOpen k m
  | .st k .closing, m => .stClose k m
  | .vx .add, m => .vxAdd m
  | .vx .sub, m => .vxSub m
  | .vx .mul, m => .vxMul m
  | .vx .fma, m => .vxFma m
  | .vx .fnma, m => .vxFnma m
  | .vx .div, m => .vxDiv m
  | .vx .sqrt, m => .vxSqrt m
  | .vx .min, m => .vxMin m
  | .vx .max, m => .vxMax m
  | .vx .abs, m => .vxAbs m
  | .vx .neg, m => .vxNeg m
  | .vx .and, m => .vxAnd m
  | .vx .or, m => .vxOr m
  | .vx .xor, m => .vxXor m
  | .vx .andn, m => .vxAndn m
  | .vx .shl, m => .vxShl m
  | .vx .shr, m => .vxShr m
  | .vx .sra, m => .vxSra m
  | .vx .clz, m => .vxClz m
  | .vx .ctz, m => .vxCtz m
  | .vx .popc, m => .vxPopc m
  | .vx .ceq, m => .vxCeq m
  | .vx .cne, m => .vxCne m
  | .vx .clt, m => .vxClt m
  | .vx .cle, m => .vxCle m
  | .vx .sel, m => .vxSel m
  | .vx .mskof, m => .vxMskof m
  | .vx .radd, m => .vxRadd m
  | .vx .rmax, m => .vxRmax m
  | .vx .rmin, m => .vxRmin m
  | .vx .perm, m => .vxPerm m
  | .vx .bcast, m => .vxBcast m
  | .vx .rot, m => .vxRot m
  | .vx .ext, m => .vxExt m
  | .vx .iota, m => .vxIota m
  | .vx .rnd, m => .vxRnd m
  | .vx .bin, m => .vxBin m
  | .vx .hist, m => .vxHist m
  | .vx .rank, m => .vxRank m
  | .vx .stat, m => .vxStat m
  | .vx .sclr, m => .vxSclr m
  | .sf .exp2, m => .sfExp2 m
  | .sf .log2, m => .sfLog2 m
  | .sf .gate, m => .sfGate m
  | .sf .rclr, m => .sfRclr m
  | .sf .racc, m => .sfRacc m
  | .sf .rcnt, m => .sfRcnt m
  | .sf .rmax, m => .sfRmax m
  | .sf .rsum, m => .sfRsum m
  | .sf .rssq, m => .sfRssq m
  | .sf .rmean, m => .sfRmean m
  | .sf .rvar, m => .sfRvar m
  | .sf .stat, m => .sfStat m
  | .sf .sclr, m => .sfSclr m
  | .cv .cvt, m => .cvCvt m
  | .cv .qnt, m => .cvQnt m
  | .cv .dqt, m => .cvDqt m
  | .cv .stat, m => .cvStat m
  | .cv .sclr, m => .cvSclr m
  | .mx .f64, m => .mxF64 m
  | .mx .f32, m => .mxF32 m
  | .mx .f16, m => .mxF16 m
  | .mx .bf16, m => .mxBf16 m
  | .mx .i8, m => .mxI8 m
  | .mx .mx8, m => .mxMx8 m
  | .mx .mx6, m => .mxMx6 m
  | .mx .mx4, m => .mxMx4 m
  | .mx .e4e4, m => .mxE4e4 m
  | .mx .e4e5, m => .mxE4e5 m
  | .mx .e5e4, m => .mxE5e4 m
  | .mx .e5e5, m => .mxE5e5 m
  | .mx .mdset, m => .mxMdset m
  | .acc .clr, m => .accClr m
  | .acc .resF32, m => .accResF32 m
  | .acc .resBf16, m => .accResBf16 m
  | .acc .resF64, m => .accResF64 m
  | .acc .resI32, m => .accResI32 m
  | .acc .cmpz, m => .accCmpz m
  | .acc .emit, m => .accEmit m
  | .acc .absorb, m => .accAbsorb m
  | .acc .rsave, m => .accRsave m
  | .acc .rload, m => .accRload m
  | .acc .stat, m => .accStat m
  | .acc .sclr, m => .accSclr m
  | .cp c .query, m => .cpQuery c m
  | .cp c .cancel, m => .cpCancel c m
  | .nx .sub, m => .nxSub m
  | .nx .unsub, m => .nxUnsub m
  | .nx .rhdr, m => .nxRhdr m
  | .nx .gcfg, m => .nxGcfg m
  | .nx .rld, m => .nxRld m
  | .nx .rst, m => .nxRst m
  | .nx .rvst, m => .nxRvst m
  | .nx .hrel, m => .nxHrel m
  | .nx .hacq, m => .nxHacq m
  | .nx .aadd, m => .nxAadd m
  | .nx .aswp, m => .nxAswp m
  | .nx .acas, m => .nxAcas m
  | .nx .amin, m => .nxAmin m
  | .nx .amax, m => .nxAmax m
  | .nx .aminu, m => .nxAminu m
  | .nx .amaxu, m => .nxAmaxu m
  | .nx .aand, m => .nxAand m
  | .nx .aor, m => .nxAor m
  | .nx .axor, m => .nxAxor m
  | .nx .mcast, m => .nxMcast m
  | .nx .xsend, m => .nxXsend m
  | .nx .bar, m => .nxBar m
  | .nx .wake, m => .nxWake m
  | .nx .msg, m => .nxMsg m
  | .tk .launch, m => .tkLaunch m
  | .tk .done, m => .tkDone m
  | .tk .est, m => .tkEst m
  | .tk .xlt, m => .tkXlt m
  | .wq .commit, m => .wqCommit m
  | .wq .post, m => .wqPost m
  | .wq .hsel, m => .wqHsel m
  | .wq .cancel, m => .wqCancel m
  | .fx .st, m => .fxSt m
  | .fx .vst, m => .fxVst m
  | .fx .faa, m => .fxFaa m
  | .fx .cas, m => .fxCas m
  | .fx .fence, m => .fxFence m
  | .fx .coll, m => .fxColl m
  | .fx .cstat, m => .fxCstat m
  | .fx .share, m => .fxShare m
  | .fx .stat, m => .fxStat m

/-- The trigger port and move of an instruction that writes one. -/
def Instr.trig? : Instr → Option (Trig × Mv)
  | .sysCsrr m => some (.sys .csrr, m)
  | .sysCsrw m => some (.sys .csrw, m)
  | .sysWaitLd m => some (.sys .waitLd, m)
  | .sysWaitSt m => some (.sys .waitSt, m)
  | .sysWaitCp m => some (.sys .waitCp, m)
  | .sysTrap m => some (.sys .trap, m)
  | .sysBrk m => some (.sys .brk, m)
  | .sysEnd m => some (.sys .ending, m)
  | .brJmp m => some (.br .jmp, m)
  | .brCall m => some (.br .call, m)
  | .brRet m => some (.br .ret, m)
  | .brLoop m => some (.br .loop, m)
  | .brLexit m => some (.br .lexit, m)
  | .brMdset m => some (.br .mdset, m)
  | .brMdrd m => some (.br .mdrd, m)
  | .brMdjmp m => some (.br .mdjmp, m)
  | .semPost m => some (.sem .post, m)
  | .semAdd m => some (.sem .add, m)
  | .semWait m => some (.sem .wait, m)
  | .semTake m => some (.sem .take, m)
  | .semTakek m => some (.sem .takek, m)
  | .semRd m => some (.sem .rd, m)
  | .mbWait m => some (.mb .wait, m)
  | .mbPop m => some (.mb .pop, m)
  | .mbCnt m => some (.mb .cnt, m)
  | .ixAdd u m => some (.ix u .add, m)
  | .ixSub u m => some (.ix u .sub, m)
  | .ixAnd u m => some (.ix u .and, m)
  | .ixOr u m => some (.ix u .or, m)
  | .ixXor u m => some (.ix u .xor, m)
  | .ixAndn u m => some (.ix u .andn, m)
  | .ixShl u m => some (.ix u .shl, m)
  | .ixShr u m => some (.ix u .shr, m)
  | .ixSra u m => some (.ix u .sra, m)
  | .ixMin u m => some (.ix u .min, m)
  | .ixMax u m => some (.ix u .max, m)
  | .ixMinu u m => some (.ix u .minu, m)
  | .ixMaxu u m => some (.ix u .maxu, m)
  | .ixMov u m => some (.ix u .mov, m)
  | .ixSxt u m => some (.ix u .sxt, m)
  | .ixZxt u m => some (.ix u .zxt, m)
  | .ixClz u m => some (.ix u .clz, m)
  | .ixPopc u m => some (.ix u .popc, m)
  | .ixSel u m => some (.ix u .sel, m)
  | .ixCeq u m => some (.ix u .ceq, m)
  | .ixCne u m => some (.ix u .cne, m)
  | .ixClt u m => some (.ix u .clt, m)
  | .ixCle u m => some (.ix u .cle, m)
  | .ixCltu u m => some (.ix u .cltu, m)
  | .ixCleu u m => some (.ix u .cleu, m)
  | .ixCtst u m => some (.ix u .ctst, m)
  | .ixMul u m => some (.ix u .mul, m)
  | .ixMulu u m => some (.ix u .mulu, m)
  | .ixMac u m => some (.ix u .mac, m)
  | .ixDiv u m => some (.ix u .div, m)
  | .ixDivu u m => some (.ix u .divu, m)
  | .lsLd8 m => some (.ls .ld8, m)
  | .lsLd8u m => some (.ls .ld8u, m)
  | .lsLd16 m => some (.ls .ld16, m)
  | .lsLd16u m => some (.ls .ld16u, m)
  | .lsLd32 m => some (.ls .ld32, m)
  | .lsLd32u m => some (.ls .ld32u, m)
  | .lsLd64 m => some (.ls .ld64, m)
  | .lsSt8 m => some (.ls .st8, m)
  | .lsSt16 m => some (.ls .st16, m)
  | .lsSt32 m => some (.ls .st32, m)
  | .lsSt64 m => some (.ls .st64, m)
  | .lsVld m => some (.ls .vld, m)
  | .lsVst m => some (.ls .vst, m)
  | .lsAadd m => some (.ls .aadd, m)
  | .lsAswp m => some (.ls .aswp, m)
  | .lsAcas m => some (.ls .acas, m)
  | .lsAmin m => some (.ls .amin, m)
  | .lsAmax m => some (.ls .amax, m)
  | .lsAminu m => some (.ls .aminu, m)
  | .lsAmaxu m => some (.ls .amaxu, m)
  | .lsAand m => some (.ls .aand, m)
  | .lsAor m => some (.ls .aor, m)
  | .lsAxor m => some (.ls .axor, m)
  | .lsAacc m => some (.ls .aacc, m)
  | .lsRcfg m => some (.ls .rcfg, m)
  | .lsRacq m => some (.ls .racq, m)
  | .lsRpub m => some (.ls .rpub, m)
  | .lsRget m => some (.ls .rget, m)
  | .lsRrel m => some (.ls .rrel, m)
  | .lsRst m => some (.ls .rst, m)
  | .lsVg16 m => some (.ls .vg16, m)
  | .lsVg32 m => some (.ls .vg32, m)
  | .lsVg64 m => some (.ls .vg64, m)
  | .lsVs16 m => some (.ls .vs16, m)
  | .lsVs32 m => some (.ls .vs32, m)
  | .lsVs64 m => some (.ls .vs64, m)
  | .lsVscaddI32 m => some (.ls .vscaddI32, m)
  | .lsVscaddI64 m => some (.ls .vscaddI64, m)
  | .lsVscaddF32 m => some (.ls .vscaddF32, m)
  | .lsVscaddF64 m => some (.ls .vscaddF64, m)
  | .stOpen k m => some (.st k .opening, m)
  | .stClose k m => some (.st k .closing, m)
  | .vxAdd m => some (.vx .add, m)
  | .vxSub m => some (.vx .sub, m)
  | .vxMul m => some (.vx .mul, m)
  | .vxFma m => some (.vx .fma, m)
  | .vxFnma m => some (.vx .fnma, m)
  | .vxDiv m => some (.vx .div, m)
  | .vxSqrt m => some (.vx .sqrt, m)
  | .vxMin m => some (.vx .min, m)
  | .vxMax m => some (.vx .max, m)
  | .vxAbs m => some (.vx .abs, m)
  | .vxNeg m => some (.vx .neg, m)
  | .vxAnd m => some (.vx .and, m)
  | .vxOr m => some (.vx .or, m)
  | .vxXor m => some (.vx .xor, m)
  | .vxAndn m => some (.vx .andn, m)
  | .vxShl m => some (.vx .shl, m)
  | .vxShr m => some (.vx .shr, m)
  | .vxSra m => some (.vx .sra, m)
  | .vxClz m => some (.vx .clz, m)
  | .vxCtz m => some (.vx .ctz, m)
  | .vxPopc m => some (.vx .popc, m)
  | .vxCeq m => some (.vx .ceq, m)
  | .vxCne m => some (.vx .cne, m)
  | .vxClt m => some (.vx .clt, m)
  | .vxCle m => some (.vx .cle, m)
  | .vxSel m => some (.vx .sel, m)
  | .vxMskof m => some (.vx .mskof, m)
  | .vxRadd m => some (.vx .radd, m)
  | .vxRmax m => some (.vx .rmax, m)
  | .vxRmin m => some (.vx .rmin, m)
  | .vxPerm m => some (.vx .perm, m)
  | .vxBcast m => some (.vx .bcast, m)
  | .vxRot m => some (.vx .rot, m)
  | .vxExt m => some (.vx .ext, m)
  | .vxIota m => some (.vx .iota, m)
  | .vxRnd m => some (.vx .rnd, m)
  | .vxBin m => some (.vx .bin, m)
  | .vxHist m => some (.vx .hist, m)
  | .vxRank m => some (.vx .rank, m)
  | .vxStat m => some (.vx .stat, m)
  | .vxSclr m => some (.vx .sclr, m)
  | .sfExp2 m => some (.sf .exp2, m)
  | .sfLog2 m => some (.sf .log2, m)
  | .sfGate m => some (.sf .gate, m)
  | .sfRclr m => some (.sf .rclr, m)
  | .sfRacc m => some (.sf .racc, m)
  | .sfRcnt m => some (.sf .rcnt, m)
  | .sfRmax m => some (.sf .rmax, m)
  | .sfRsum m => some (.sf .rsum, m)
  | .sfRssq m => some (.sf .rssq, m)
  | .sfRmean m => some (.sf .rmean, m)
  | .sfRvar m => some (.sf .rvar, m)
  | .sfStat m => some (.sf .stat, m)
  | .sfSclr m => some (.sf .sclr, m)
  | .cvCvt m => some (.cv .cvt, m)
  | .cvQnt m => some (.cv .qnt, m)
  | .cvDqt m => some (.cv .dqt, m)
  | .cvStat m => some (.cv .stat, m)
  | .cvSclr m => some (.cv .sclr, m)
  | .mxF64 m => some (.mx .f64, m)
  | .mxF32 m => some (.mx .f32, m)
  | .mxF16 m => some (.mx .f16, m)
  | .mxBf16 m => some (.mx .bf16, m)
  | .mxI8 m => some (.mx .i8, m)
  | .mxMx8 m => some (.mx .mx8, m)
  | .mxMx6 m => some (.mx .mx6, m)
  | .mxMx4 m => some (.mx .mx4, m)
  | .mxE4e4 m => some (.mx .e4e4, m)
  | .mxE4e5 m => some (.mx .e4e5, m)
  | .mxE5e4 m => some (.mx .e5e4, m)
  | .mxE5e5 m => some (.mx .e5e5, m)
  | .mxMdset m => some (.mx .mdset, m)
  | .accClr m => some (.acc .clr, m)
  | .accResF32 m => some (.acc .resF32, m)
  | .accResBf16 m => some (.acc .resBf16, m)
  | .accResF64 m => some (.acc .resF64, m)
  | .accResI32 m => some (.acc .resI32, m)
  | .accCmpz m => some (.acc .cmpz, m)
  | .accEmit m => some (.acc .emit, m)
  | .accAbsorb m => some (.acc .absorb, m)
  | .accRsave m => some (.acc .rsave, m)
  | .accRload m => some (.acc .rload, m)
  | .accStat m => some (.acc .stat, m)
  | .accSclr m => some (.acc .sclr, m)
  | .cpQuery c m => some (.cp c .query, m)
  | .cpCancel c m => some (.cp c .cancel, m)
  | .nxSub m => some (.nx .sub, m)
  | .nxUnsub m => some (.nx .unsub, m)
  | .nxRhdr m => some (.nx .rhdr, m)
  | .nxGcfg m => some (.nx .gcfg, m)
  | .nxRld m => some (.nx .rld, m)
  | .nxRst m => some (.nx .rst, m)
  | .nxRvst m => some (.nx .rvst, m)
  | .nxHrel m => some (.nx .hrel, m)
  | .nxHacq m => some (.nx .hacq, m)
  | .nxAadd m => some (.nx .aadd, m)
  | .nxAswp m => some (.nx .aswp, m)
  | .nxAcas m => some (.nx .acas, m)
  | .nxAmin m => some (.nx .amin, m)
  | .nxAmax m => some (.nx .amax, m)
  | .nxAminu m => some (.nx .aminu, m)
  | .nxAmaxu m => some (.nx .amaxu, m)
  | .nxAand m => some (.nx .aand, m)
  | .nxAor m => some (.nx .aor, m)
  | .nxAxor m => some (.nx .axor, m)
  | .nxMcast m => some (.nx .mcast, m)
  | .nxXsend m => some (.nx .xsend, m)
  | .nxBar m => some (.nx .bar, m)
  | .nxWake m => some (.nx .wake, m)
  | .nxMsg m => some (.nx .msg, m)
  | .tkLaunch m => some (.tk .launch, m)
  | .tkDone m => some (.tk .done, m)
  | .tkEst m => some (.tk .est, m)
  | .tkXlt m => some (.tk .xlt, m)
  | .wqCommit m => some (.wq .commit, m)
  | .wqPost m => some (.wq .post, m)
  | .wqHsel m => some (.wq .hsel, m)
  | .wqCancel m => some (.wq .cancel, m)
  | .fxSt m => some (.fx .st, m)
  | .fxVst m => some (.fx .vst, m)
  | .fxFaa m => some (.fx .faa, m)
  | .fxCas m => some (.fx .cas, m)
  | .fxFence m => some (.fx .fence, m)
  | .fxColl m => some (.fx .coll, m)
  | .fxCstat m => some (.fx .cstat, m)
  | .fxShare m => some (.fx .share, m)
  | .fxStat m => some (.fx .stat, m)
  | _ => none
end Sys2Proof
end

