-- ==== Sys2Proof/Decode.lean ====
section
/-! DEFINITION. Decoding of bundles (R35 to R54) and the encoder of the instructions that a bundle holds. -/

namespace Sys2Proof

/-! ### The port map: source indexes (R45) and destinations (R47) -/

/-- The port number within its class of each sys trigger. -/
def SysOp.port : SysOp → Nat
  | .csrr => 0x8 | .csrw => 0x9 | .waitLd => 0xa | .waitSt => 0xb | .waitCp => 0xc | .trap => 0xd
  | .brk => 0xe | .ending => 0xf

/-- Every sys trigger. -/
def SysOp.all : List SysOp :=
  [.csrr, .csrw, .waitLd, .waitSt, .waitCp, .trap, .brk, .ending]

/-- The port number within its class of each br trigger. -/
def BrOp.port : BrOp → Nat
  | .jmp => 0x28 | .call => 0x29 | .ret => 0x2a | .loop => 0x2b | .lexit => 0x2c | .mdset => 0x2d
  | .mdrd => 0x2e | .mdjmp => 0x2f

/-- Every br trigger. -/
def BrOp.all : List BrOp :=
  [.jmp, .call, .ret, .loop, .lexit, .mdset, .mdrd, .mdjmp]

/-- The port number within its class of each sem trigger. -/
def SemOp.port : SemOp → Nat
  | .post => 0x48 | .add => 0x49 | .wait => 0x4a | .take => 0x4b | .takek => 0x4c | .rd => 0x4d

/-- Every sem trigger. -/
def SemOp.all : List SemOp :=
  [.post, .add, .wait, .take, .takek, .rd]

/-- The port number within its class of each mb trigger. -/
def MbOp.port : MbOp → Nat
  | .wait => 0x68 | .pop => 0x69 | .cnt => 0x6a

/-- Every mb trigger. -/
def MbOp.all : List MbOp :=
  [.wait, .pop, .cnt]

/-- The port number within its class of each ix trigger. -/
def IxOp.port : IxOp → Nat
  | .add => 0x8 | .sub => 0x9 | .and => 0xa | .or => 0xb | .xor => 0xc | .andn => 0xd | .shl => 0xe
  | .shr => 0xf | .sra => 0x10 | .min => 0x11 | .max => 0x12 | .minu => 0x13 | .maxu => 0x14 | .mov => 0x15
  | .sxt => 0x16 | .zxt => 0x17 | .clz => 0x18 | .popc => 0x19 | .sel => 0x1a | .ceq => 0x20 | .cne => 0x21
  | .clt => 0x22 | .cle => 0x23 | .cltu => 0x24 | .cleu => 0x25 | .ctst => 0x26 | .mul => 0x30
  | .mulu => 0x31 | .mac => 0x32 | .div => 0x38 | .divu => 0x39

/-- Every ix trigger. -/
def IxOp.all : List IxOp :=
  [.add, .sub, .and, .or, .xor, .andn, .shl, .shr, .sra, .min, .max, .minu, .maxu, .mov, .sxt, .zxt, .clz,
   .popc, .sel, .ceq, .cne, .clt, .cle, .cltu, .cleu, .ctst, .mul, .mulu, .mac, .div, .divu]

/-- The port number within its class of each ls trigger. -/
def LsOp.port : LsOp → Nat
  | .ld8 => 0x8 | .ld8u => 0x9 | .ld16 => 0xa | .ld16u => 0xb | .ld32 => 0xc | .ld32u => 0xd | .ld64 => 0xe
  | .st8 => 0x10 | .st16 => 0x11 | .st32 => 0x12 | .st64 => 0x13 | .vld => 0x18 | .vst => 0x19
  | .aadd => 0x20 | .aswp => 0x21 | .acas => 0x22 | .amin => 0x23 | .amax => 0x24 | .aminu => 0x25
  | .amaxu => 0x26 | .aand => 0x27 | .aor => 0x28 | .axor => 0x29 | .aacc => 0x2a | .rcfg => 0x30
  | .racq => 0x31 | .rpub => 0x32 | .rget => 0x33 | .rrel => 0x34 | .rst => 0x35 | .vg16 => 0x60
  | .vg32 => 0x61 | .vg64 => 0x62 | .vs16 => 0x64 | .vs32 => 0x65 | .vs64 => 0x66 | .vscaddI32 => 0x68
  | .vscaddI64 => 0x69 | .vscaddF32 => 0x6a | .vscaddF64 => 0x6b

/-- Every ls trigger. -/
def LsOp.all : List LsOp :=
  [.ld8, .ld8u, .ld16, .ld16u, .ld32, .ld32u, .ld64, .st8, .st16, .st32, .st64, .vld, .vst, .aadd, .aswp,
   .acas, .amin, .amax, .aminu, .amaxu, .aand, .aor, .axor, .aacc, .rcfg, .racq, .rpub, .rget, .rrel, .rst,
   .vg16, .vg32, .vg64, .vs16, .vs32, .vs64, .vscaddI32, .vscaddI64, .vscaddF32, .vscaddF64]

/-- The port number within its class of each st trigger. -/
def StOp.port : StOp → Nat
  | .opening => 0x8 | .closing => 0x9

/-- Every st trigger. -/
def StOp.all : List StOp :=
  [.opening, .closing]

/-- The port number within its class of each vx trigger. -/
def VxOp.port : VxOp → Nat
  | .add => 0x8 | .sub => 0x9 | .mul => 0xa | .fma => 0xb | .fnma => 0xc | .div => 0xd | .sqrt => 0xe
  | .min => 0xf | .max => 0x10 | .abs => 0x11 | .neg => 0x12 | .and => 0x18 | .or => 0x19 | .xor => 0x1a
  | .andn => 0x1b | .shl => 0x1c | .shr => 0x1d | .sra => 0x1e | .clz => 0x1f | .ctz => 0x20
  | .popc => 0x21 | .ceq => 0x28 | .cne => 0x29 | .clt => 0x2a | .cle => 0x2b | .sel => 0x2c
  | .mskof => 0x2d | .radd => 0x30 | .rmax => 0x31 | .rmin => 0x32 | .perm => 0x38 | .bcast => 0x39
  | .rot => 0x3a | .ext => 0x3b | .iota => 0x3c | .rnd => 0x40 | .bin => 0x48 | .hist => 0x49
  | .rank => 0x4a | .stat => 0x50 | .sclr => 0x51

/-- Every vx trigger. -/
def VxOp.all : List VxOp :=
  [.add, .sub, .mul, .fma, .fnma, .div, .sqrt, .min, .max, .abs, .neg, .and, .or, .xor, .andn, .shl, .shr,
   .sra, .clz, .ctz, .popc, .ceq, .cne, .clt, .cle, .sel, .mskof, .radd, .rmax, .rmin, .perm, .bcast, .rot,
   .ext, .iota, .rnd, .bin, .hist, .rank, .stat, .sclr]

/-- The port number within its class of each sf trigger. -/
def SfOp.port : SfOp → Nat
  | .exp2 => 0x28 | .log2 => 0x29 | .gate => 0x2a | .rclr => 0x30 | .racc => 0x31 | .rcnt => 0x32
  | .rmax => 0x33 | .rsum => 0x34 | .rssq => 0x35 | .rmean => 0x36 | .rvar => 0x37 | .stat => 0x3e
  | .sclr => 0x3f

/-- Every sf trigger. -/
def SfOp.all : List SfOp :=
  [.exp2, .log2, .gate, .rclr, .racc, .rcnt, .rmax, .rsum, .rssq, .rmean, .rvar, .stat, .sclr]

/-- The port number within its class of each cv trigger. -/
def CvOp.port : CvOp → Nat
  | .cvt => 0x8 | .qnt => 0x9 | .dqt => 0xa | .stat => 0x10 | .sclr => 0x11

/-- Every cv trigger. -/
def CvOp.all : List CvOp :=
  [.cvt, .qnt, .dqt, .stat, .sclr]

/-- The port number within its class of each mx trigger. -/
def MxOp.port : MxOp → Nat
  | .f64 => 0x8 | .f32 => 0x9 | .f16 => 0xa | .bf16 => 0xb | .i8 => 0xc | .mx8 => 0xd | .mx6 => 0xe
  | .mx4 => 0xf | .e4e4 => 0x10 | .e4e5 => 0x11 | .e5e4 => 0x12 | .e5e5 => 0x13 | .mdset => 0x18

/-- Every mx trigger. -/
def MxOp.all : List MxOp :=
  [.f64, .f32, .f16, .bf16, .i8, .mx8, .mx6, .mx4, .e4e4, .e4e5, .e5e4, .e5e5, .mdset]

/-- The port number within its class of each acc trigger. -/
def AccOp.port : AccOp → Nat
  | .clr => 0x8 | .resF32 => 0x10 | .resBf16 => 0x11 | .resF64 => 0x12 | .resI32 => 0x13 | .cmpz => 0x18
  | .emit => 0x20 | .absorb => 0x21 | .rsave => 0x28 | .rload => 0x29 | .stat => 0x30 | .sclr => 0x31

/-- Every acc trigger. -/
def AccOp.all : List AccOp :=
  [.clr, .resF32, .resBf16, .resF64, .resI32, .cmpz, .emit, .absorb, .rsave, .rload, .stat, .sclr]

/-- The port number within its class of each cp trigger. -/
def CpOp.port : CpOp → Nat
  | .query => 0x30 | .cancel => 0x31

/-- Every cp trigger. -/
def CpOp.all : List CpOp :=
  [.query, .cancel]

/-- The port number within its class of each nx trigger. -/
def NxOp.port : NxOp → Nat
  | .sub => 0x8 | .unsub => 0x9 | .rhdr => 0xa | .gcfg => 0xb | .rld => 0x48 | .rst => 0x49 | .rvst => 0x4a
  | .hrel => 0x4b | .hacq => 0x4c | .aadd => 0x50 | .aswp => 0x51 | .acas => 0x52 | .amin => 0x53
  | .amax => 0x54 | .aminu => 0x55 | .amaxu => 0x56 | .aand => 0x57 | .aor => 0x58 | .axor => 0x59
  | .mcast => 0x60 | .xsend => 0x61 | .bar => 0x62 | .wake => 0x63 | .msg => 0x64

/-- Every nx trigger. -/
def NxOp.all : List NxOp :=
  [.sub, .unsub, .rhdr, .gcfg, .rld, .rst, .rvst, .hrel, .hacq, .aadd, .aswp, .acas, .amin, .amax, .aminu,
   .amaxu, .aand, .aor, .axor, .mcast, .xsend, .bar, .wake, .msg]

/-- The port number within its class of each tk trigger. -/
def TkOp.port : TkOp → Nat
  | .launch => 0x48 | .done => 0x49 | .est => 0x4a | .xlt => 0x4b

/-- Every tk trigger. -/
def TkOp.all : List TkOp :=
  [.launch, .done, .est, .xlt]

/-- The port number within its class of each wq trigger. -/
def WqOp.port : WqOp → Nat
  | .commit => 0x8 | .post => 0x9 | .hsel => 0xa | .cancel => 0xb

/-- Every wq trigger. -/
def WqOp.all : List WqOp :=
  [.commit, .post, .hsel, .cancel]

/-- The port number within its class of each fx trigger. -/
def FxOp.port : FxOp → Nat
  | .st => 0x10 | .vst => 0x11 | .faa => 0x12 | .cas => 0x13 | .fence => 0x14 | .coll => 0x18
  | .cstat => 0x19 | .share => 0x1c | .stat => 0x1d

/-- Every fx trigger. -/
def FxOp.all : List FxOp :=
  [.st, .vst, .faa, .cas, .fence, .coll, .cstat, .share, .stat]
/-- The destination number D of a trigger port (R47 and the port tables of the engine chapters). -/
def Trig.d : Trig → Nat
  | .sys o => o.port
  | .br o => o.port
  | .sem o => o.port
  | .mb o => o.port
  | .ix .ix0 o => 0x100 + o.port
  | .ix .ix1 o => 0x180 + o.port
  | .ls o => 0x200 + o.port
  | .st k o => 0x280 + 0x20 * k.val + o.port
  | .vx o => 0x300 + o.port
  | .sf o => 0x380 + o.port
  | .cv o => 0x400 + o.port
  | .mx o => 0x480 + o.port
  | .acc o => 0x500 + o.port
  | .cp .cpi o => 0x580 + o.port
  | .cp .cpo o => 0x5C0 + o.port
  | .nx o => 0x600 + o.port
  | .fx o => 0x680 + o.port
  | .wq o => 0x700 + o.port
  | .tk o => 0x700 + o.port

/-- The trigger port that a destination number names, if it names one. -/
def Trig.ofD (d : Nat) : Option Trig :=
  let p := d % 0x80
  match d / 0x80 with
  | 0 => ((SysOp.all.find? (·.port == p)).map .sys) <|> ((BrOp.all.find? (·.port == p)).map .br)
      <|> ((SemOp.all.find? (·.port == p)).map .sem) <|> ((MbOp.all.find? (·.port == p)).map .mb)
  | 2 => (IxOp.all.find? (·.port == p)).map (.ix .ix0)
  | 3 => (IxOp.all.find? (·.port == p)).map (.ix .ix1)
  | 4 => (LsOp.all.find? (·.port == p)).map .ls
  | 5 => (StOp.all.find? (·.port == p % 0x20)).map (.st (Fin.ofNat 4 (p / 0x20)))
  | 6 => (VxOp.all.find? (·.port == p)).map .vx
  | 7 => (SfOp.all.find? (·.port == p)).map .sf
  | 8 => (CvOp.all.find? (·.port == p)).map .cv
  | 9 => (MxOp.all.find? (·.port == p)).map .mx
  | 10 => (AccOp.all.find? (·.port == p)).map .acc
  | 11 => (CpOp.all.find? (·.port == p % 0x40)).map (.cp (if p < 0x40 then .cpi else .cpo))
  | 12 => (NxOp.all.find? (·.port == p)).map .nx
  | 13 => (FxOp.all.find? (·.port == p)).map .fx
  | 14 => ((WqOp.all.find? (·.port == p)).map .wq) <|> ((TkOp.all.find? (·.port == p)).map .tk)
  | _ => none

/-- The width in bits of an operand port (R122, R154, R159, R173, R184, R204, R216, R226, R249, R264, R280, R318,
R356, R371); none where the number names no operand port. -/
def operandWidth (d : Nat) : Option Nat :=
  if d ∈ [0x001, 0x020, 0x040,
      0x100, 0x101, 0x102, 0x180, 0x181, 0x182,
      0x200, 0x201, 0x202, 0x204, 0x205,
      0x302, 0x303, 0x304, 0x3A2, 0x3A3, 0x3A4, 0x401, 0x402, 0x403, 0x404, 0x405,
      0x480, 0x481, 0x482, 0x483, 0x500, 0x501, 0x502, 0x503, 0x504,
      0x600, 0x640, 0x641, 0x642, 0x644, 0x645,
      0x680, 0x681, 0x682, 0x684, 0x685, 0x686, 0x687, 0x688, 0x700, 0x701, 0x702, 0x740, 0x741] then some 64
  else if d ∈ [0x203, 0x300, 0x301, 0x3A0, 0x3A1, 0x400, 0x643, 0x683] then some 1024
  else if d / 0x80 = 5 ∧ d % 0x20 ≤ 5 then some 64
  else if d / 0x80 = 11 ∧ (d % 0x40 ≤ 4 ∨ (0x10 ≤ d % 0x40 ∧ d % 0x40 < 0x30)) then some 64
  else none

/-- The width in bits of a trigger operand (R159, R184, R204, R216, R249; 64 elsewhere). -/
def Trig.width : Trig → Nat
  | .vx _ => 1024
  | .sf _ => 1024
  | .cv _ => 1024
  | .acc .absorb => 1024
  | .ls o => if 0x60 ≤ o.port then 1024 else 64
  | _ => 64

/-- A destination of a move (R47). -/
inductive Dst where
  | null | x (n : Fin 64) | g (n : Fin 3) | v (n : Fin 32) | tail (n : Fin 8)
  | operand (d : Nat) | trig (t : Trig)
  deriving DecidableEq, Repr

/-- The destination that a destination number names (R47); none where it is reserved. -/
def Dst.ofD (d : Nat) : Option Dst :=
  if d = 0 then some .null
  else match Trig.ofD d with
  | some t => some (.trig t)
  | none =>
    if (operandWidth d).isSome then some (.operand d)
    else if 0x080 ≤ d ∧ d < 0x0C0 then some (.x (Fin.ofNat 64 (d - 0x080)))
    else if 0x0C0 ≤ d ∧ d < 0x0C3 then some (.g (Fin.ofNat 3 (d - 0x0C0)))
    else if 0x380 ≤ d ∧ d < 0x3A0 then some (.v (Fin.ofNat 32 (d - 0x380)))
    else if 0x780 ≤ d ∧ d < 0x788 then some (.tail (Fin.ofNat 8 (d - 0x780)))
    else none

/-- The destination number of a destination (R47, R49). -/
def Dst.d : Dst → Nat
  | .null => 0
  | .x n => 0x080 + n.val
  | .g n => 0x0C0 + n.val
  | .v n => 0x380 + n.val
  | .tail n => 0x780 + n.val
  | .operand d => d
  | .trig t => t.d

/-- The owner of a destination number's socket: none where every strand owns its own copy (R9, R47). -/
def dOwner (d : Nat) : Option StrandId :=
  match d / 0x80 with
  | 5 => if d % 0x80 < 0x40 then some .feed else some .drain
  | 6 | 8 | 9 | 10 => some .compute
  | 7 => some .compute
  | 11 | 12 => if d % 0x80 < 0x40 then some .feed else some .drain
  | 13 => some .drain
  | 14 => if d % 0x80 < 0x40 then some .feed else some .drain
  | 15 => if d % 0x80 < 4 then some .feed else if d % 0x80 < 6 then some .compute
      else if d % 0x80 = 6 then some .compute else if d % 0x80 = 7 then some .drain else none
  | _ => none

/-- The source index of a result port (R45). -/
def ResPort.idx : ResPort → Nat
  | .sysRes => 0x074 | .brRes => 0x075 | .semRes => 0x076 | .mbRes => 0x077
  | .ix0Res => 0x0A0 | .ix0Hi => 0x0A1 | .ix1Res => 0x0A2 | .ix1Hi => 0x0A3 | .lsRes => 0x0A4 | .lsVres => 0x0A5
  | .cpiStat => 0x0A9 | .cpoStat => 0x0AB | .wqRes => 0x0AC | .nxRres => 0x0AD | .nxSres => 0x0AE
  | .fxRes => 0x0AF | .tkRes => 0x0B0 | .vxRes => 0x0B4 | .vxSres => 0x0B5 | .sfRes => 0x0B6 | .sfSres => 0x0B7
  | .cvRes => 0x0B8 | .cvSres => 0x0B9 | .mxRes => 0x0BA | .accRes => 0x0BB | .accSres => 0x0BC

/-- Every result port. -/
def ResPort.all : List ResPort :=
  [.sysRes, .brRes, .semRes, .mbRes, .ix0Res, .ix0Hi, .ix1Res, .ix1Hi, .lsRes, .lsVres, .cpiStat, .cpoStat,
   .wqRes, .nxRres, .nxSres, .fxRes, .tkRes, .vxRes, .vxSres, .sfRes, .sfSres, .cvRes, .cvSres, .mxRes, .accRes, .accSres]

/-- The width of a result port in bits (R45). -/
def ResPort.width : ResPort → Nat
  | .lsVres | .vxRes | .sfRes | .cvRes | .accRes => 1024
  | _ => 64

/-- The owner of a result port: none where every strand owns its own copy (R45). -/
def ResPort.owner : ResPort → Option StrandId
  | .cpiStat | .wqRes | .nxRres => some .feed
  | .cpoStat | .nxSres | .fxRes | .tkRes => some .drain
  | .vxRes | .vxSres | .sfRes | .sfSres | .cvRes | .cvSres | .mxRes | .accRes | .accSres => some .compute
  | _ => none

/-- The source field S of a source (R40, R43 to R45). -/
def Src.field : Src → Nat
  | .x n => n.val
  | .v n => 0x040 + n.val
  | .q n => 0x060 + n.val
  | .g n => 0x070 + n.val
  | .port p => p.idx
  | .h n => 0x080 + n.val
  | .w n => 0x090 + n.val
  | .go .cpi => 0x0A8
  | .go .cpo => 0x0AA
  | .imm a => 0x200 + a.toNat
  | .litA _ => 0x1FC
  | .litB _ => 0x1FD
  | .litAB _ => 0x1FE
  | .zero => 0x1FF

/-- The source that a source field names in a bundle with the given literals (R43 to R45); none where the index is
reserved. A literal selector without its literals is refused before (R43). -/
def Src.ofField (lits : List (BitVec 24)) (f : Nat) : Option Src :=
  let a := lits.getD 0 0
  let b := lits.getD 1 0
  if 0x200 ≤ f then some (.imm (BitVec.ofNat 9 f))
  else if f < 0x040 then some (.x (Fin.ofNat 64 f))
  else if f < 0x060 then some (.v (Fin.ofNat 32 (f - 0x040)))
  else if f < 0x070 then some (.q (Fin.ofNat 16 (f - 0x060)))
  else if f < 0x073 then some (.g (Fin.ofNat 3 (f - 0x070)))
  else if 0x080 ≤ f ∧ f < 0x090 then some (.h (Fin.ofNat 16 (f - 0x080)))
  else if 0x090 ≤ f ∧ f < 0x098 then some (.w (Fin.ofNat 8 (f - 0x090)))
  else if f = 0x0A8 then some (.go .cpi)
  else if f = 0x0AA then some (.go .cpo)
  else if f = 0x1FC then some (.litA a)
  else if f = 0x1FD then some (.litB b)
  else if f = 0x1FE then some (.litAB (b ++ a))
  else if f = 0x1FF then some .zero
  else (ResPort.all.find? (·.idx == f)).map .port

/-- The guard field G (R40). -/
def Guard.field : Guard → Nat
  | .always => 0 | .g1 => 1 | .ng1 => 2 | .g2 => 3 | .ng2 => 4 | .g3 => 5 | .ng3 => 6

/-- The guard that a field names; none for the reserved value 111 (R40). -/
def Guard.ofField : Nat → Option Guard
  | 0 => some .always | 1 => some .g1 | 2 => some .ng1 | 3 => some .g2 | 4 => some .ng2 | 5 => some .g3 | 6 => some .ng3
  | _ => none

/-- Two guards are mutually exclusive when they test one bit in opposite senses (R42). -/
def Guard.exclusive : Guard → Guard → Bool
  | .g1, .ng1 | .ng1, .g1 | .g2, .ng2 | .ng2, .g2 | .g3, .ng3 | .ng3, .g3 => true
  | _, _ => false

/-! ### Bundles -/

/-- The header fields of a bundle (R36), FMT and RSV apart. -/
structure Header where
  rep : Nat
  pop : BitVec 16
  semop : Nat
  sem : BitVec 6
  deriving DecidableEq, Repr

/-- A move of a bundle: its slot, its guard, its destination number, and the source and destination that its fields
name (none: reserved, ILLEGAL_PORT at issue). -/
structure Move where
  slot : Nat
  g : Guard
  src : Option Src
  d : Nat
  dst : Option Dst
  deriving DecidableEq, Repr

/-- A bundle that breaks no rule of R37, R41 and R43. -/
structure Bundle where
  hdr : Header
  moves : List Move
  deriving DecidableEq, Repr

/-- Why a 256-bit word is no bundle: the causes of ILLEGAL_BUNDLE, with the lowest slot involved. -/
inductive Reject where
  | reservedFmt | headerRsv | semWithoutOp | repNotIdle (slot : Nat) | tooManyLiterals
  | reservedGuard (slot : Nat) | nullSinkFields (slot : Nat) | missingLiteral (slot : Nat)
  deriving DecidableEq, Repr

/-- The slot index that the fault detail holds, 8 when only the header is involved (R51). -/
def Reject.slot : Reject → Nat
  | .repNotIdle k | .reservedGuard k | .nullSinkFields k | .missingLiteral k => k
  | _ => 8

/-- Bits [lo + n - 1 : lo] of a number. -/
def bitsOf (w lo n : Nat) : Nat := w / 2 ^ lo % 2 ^ n

/-- Slot k of a bundle (R35). -/
def slotOf (w k : Nat) : Nat := bitsOf w (64 + 24 * k) 24

/-- The LIT bits set among slots 0 to 7 (R36). -/
def litSlots (w : Nat) : List Nat := (List.range 8).filter (fun k => bitsOf w (48 + k) 1 == 1)

/-- Decodes slot k: no move for an empty or a literal slot; otherwise the move or the cause of its refusal. -/
def decodeSlot (w : Nat) (lits : List (BitVec 24)) (k : Nat) : Except Reject (Option Move) :=
  let s := slotOf w k
  if bitsOf w (48 + k) 1 = 1 ∨ s = 0 then .ok none
  else match Guard.ofField (bitsOf s 21 3) with
  | none => .error (.reservedGuard k)
  | some g =>
    let f := bitsOf s 11 10
    let d := bitsOf s 0 11
    if d = 0 then .error (.nullSinkFields k)
    else if (f = 0x1FC ∧ lits.length < 1) ∨ ((f = 0x1FD ∨ f = 0x1FE) ∧ lits.length < 2) then .error (.missingLiteral k)
    else .ok (some ⟨k, g, Src.ofField lits f, d, Dst.ofD d⟩)

/-- The moves of a list of slots, or the first slot's refusal. -/
def decodeSlots (w : Nat) (lits : List (BitVec 24)) : List Nat → Except Reject (List Move)
  | [] => .ok []
  | k :: ks =>
    match decodeSlot w lits k with
    | .error r => .error r
    | .ok none => decodeSlots w lits ks
    | .ok (some m) =>
      match decodeSlots w lits ks with
      | .error r => .error r
      | .ok ms => .ok (m :: ms)

/-- Decodes a 256-bit bundle (R35 to R44, R63), refusing by name what R37, R41 and R43 call ILLEGAL_BUNDLE. A refusal that
involves a slot comes before one of the header alone, so that the detail is the lowest slot involved (R51). -/
def decodeBundle (b : BitVec 256) : Except Reject Bundle :=
  let w := b.toNat
  let lits := (litSlots w).map (fun k => BitVec.ofNat 24 (slotOf w k))
  let rep := bitsOf w 56 4
  let used := (List.range 8).find? (fun k => rep != 0 && slotOf w k != 0)
  match decodeSlots w lits (List.range 8) with
  | .error r => .error (match used with | some k => if k < r.slot then .repNotIdle k else r | none => r)
  | .ok ms =>
    match used with
    | some k => .error (.repNotIdle k)
    | none =>
      if bitsOf w 60 4 ≠ 0 then .error .reservedFmt
      else if bitsOf w 0 24 ≠ 0 then .error .headerRsv
      else if bitsOf w 30 2 = 0 ∧ bitsOf w 24 6 ≠ 0 then .error .semWithoutOp
      else if rep ≠ 0 ∧ litSlots w ≠ [] then .error (.repNotIdle 8)
      else if 2 < (litSlots w).length then .error .tooManyLiterals
      else .ok ⟨⟨rep, BitVec.ofNat 16 (bitsOf w 32 16), bitsOf w 30 2, BitVec.ofNat 6 (bitsOf w 24 6)⟩, ms⟩

/-! ### Encoding -/

/-- The slot value of a move (R40). -/
def encodeSlot (g : Guard) (s : Src) (d : Nat) : Nat := g.field * 2 ^ 21 + s.field * 2 ^ 11 + d

/-- The literals that a source needs, in slot order (R43). -/
def Src.lits : Src → List Nat
  | .litA a => [a.toNat]
  | .litB a => [0, a.toNat]
  | .litAB a => [a.toNat % 2 ^ 24, a.toNat / 2 ^ 24]
  | _ => []

/-- The bundle that holds one move in slot 0 and its literals in the slots after it (R35, R58). -/
def encodeMove (m : Mv) (d : Nat) : BitVec 256 :=
  let ls := m.s.lits
  let litBits := match ls.length with | 0 => 0 | 1 => 2 | _ => 6
  BitVec.ofNat 256 (litBits * 2 ^ 48 + encodeSlot m.g m.s d * 2 ^ 64 + ls.getD 0 0 * 2 ^ 88 + ls.getD 1 0 * 2 ^ 112)

/-- The bundle of an instruction that a bundle can hold; none for a step of another agent, which has no encoding. -/
def encode (i : Instr) : Option (BitVec 256) :=
  match i with
  | .bundleIssue w => some w
  | .headerPop q => some (BitVec.ofNat 256 (2 ^ (32 + q.val)))
  | .headerSemWait n => some (BitVec.ofNat 256 (1 * 2 ^ 30 + n.toNat * 2 ^ 24))
  | .headerSemPost n => some (BitVec.ofNat 256 (2 * 2 ^ 30 + n.toNat * 2 ^ 24))
  | .headerSemTake n => some (BitVec.ofNat 256 (3 * 2 ^ 30 + n.toNat * 2 ^ 24))
  | .repIdle n => some (BitVec.ofNat 256 (n.toNat * 2 ^ 56))
  | .moveToX m n => some (encodeMove m (Dst.x n).d)
  | .moveToG m n => some (encodeMove m (Dst.g n).d)
  | .moveToV m n => some (encodeMove m (Dst.v n).d)
  | .moveToQ m n => some (encodeMove m (Dst.tail n).d)
  | .copyLaunch c g n => some (encodeMove ⟨g, .go c⟩ (Dst.x n).d)
  | i => i.trig?.map (fun p => encodeMove p.2 p.1.d)

/-- The instruction of a bundle that holds nothing but one move or one header operation. -/
def singleOf (b : Bundle) : Option Instr :=
  match b.moves with
  | [] =>
    if b.hdr.rep ≠ 0 then some (.repIdle (BitVec.ofNat 4 b.hdr.rep))
    else match b.hdr.semop with
    | 1 => some (.headerSemWait b.hdr.sem)
    | 2 => some (.headerSemPost b.hdr.sem)
    | 3 => some (.headerSemTake b.hdr.sem)
    | _ => ((List.range 16).find? (fun k => b.hdr.pop == BitVec.ofNat 16 (2 ^ k))).map (fun k => .headerPop (Fin.ofNat 16 k))
  | [m] =>
    match m.src, m.dst with
    | some (.go c), some (.x n) => some (.copyLaunch c m.g n)
    | some s, some (.x n) => some (.moveToX ⟨m.g, s⟩ n)
    | some s, some (.g n) => some (.moveToG ⟨m.g, s⟩ n)
    | some s, some (.v n) => some (.moveToV ⟨m.g, s⟩ n)
    | some s, some (.tail n) => some (.moveToQ ⟨m.g, s⟩ n)
    | some s, some (.trig t) => some (.ofTrig t ⟨m.g, s⟩)
    | _, _ => none
  | _ => none

/-- The instruction that a 256-bit word is: the one-move or header instruction whose word it is, and otherwise the
issue of the whole bundle, which refuses by name what is no bundle (R16, R37). -/
def decodeInstr (w : BitVec 256) : Instr :=
  match decodeBundle w with
  | .error _ => .bundleIssue w
  | .ok b =>
    match singleOf b with
    | some i => if encode i = some w then i else .bundleIssue w
    | none => .bundleIssue w

/-- Decodes the 32 bytes of a bundle, the lowest address first (R2). -/
def decodeBytes (bs : List Byte) : Option (Instr × List Byte) :=
  if bs.length < 32 then none
  else some (decodeInstr (BitVec.ofNat 256 ((bs.take 32).foldr (fun b acc => acc * 256 + b.toNat) 0)), bs.drop 32)

/-- The 32 bytes of a bundle word, the lowest address first (R2, R35). -/
def bundleBytes (w : BitVec 256) : List Byte := (List.range 32).map (fun j => BitVec.ofNat 8 (w.toNat / 2 ^ (8 * j)))

/-- The instruction read from a bundle whose bits are w; bits above nbits are zero (R2, R35). -/
def decodeTableWord (nbits w : Nat) : Option Instr :=
  (decodeBytes (bundleBytes (BitVec.ofNat 256 (w % 2 ^ min nbits 256)))).map (·.1)

end Sys2Proof
end

