-- ==== Sys2Proof/Machine/State.lean ====
section
/-! DEFINITION. The state of an F816 package, as plain data: strands, tiles, dies, stacks, contexts, management. -/

namespace Sys2Proof.Machine

/-- Why the machine stops: no step of the package stops it (R5), so that there is no fault. -/
inductive Fault where
  deriving DecidableEq, Repr

/-- Why an instruction has no meaning. -/
inductive Refusal where
  /-- Raised by the dispatch for an instruction without a meaning yet. Safe: nothing runs. -/
  | notModelled (mnemonic : String)
  deriving DecidableEq, Repr

/-! ### Strands -/

/-- A result of an operation as it reaches its port: the value, with ix the hi value and the guard it writes (R157, R158). -/
structure Result where
  value : Vec
  hi : Option Word
  guard : Option (Fin 3 × Bool)
  deriving DecidableEq, Repr

/-- A result port: its value, whether it holds an unread data-locked result, and its shadow with the landing distance
(R21 to R23). -/
structure PortState where
  value : Vec
  full : Bool
  shadow : Option (Result × Nat)
  deriving DecidableEq, Repr

/-- The engines that keep sticky status flags (R111). -/
inductive FlagUnit where
  | vx | sf | cv | acc
  deriving DecidableEq, Repr

/-- An operation in flight, in trigger order: its identity, the cycle it completes in (none: it waits for its access), the
port it delivers to and its result (R21, R22). `locked`: its result is data-locked; a completed one stays listed while it
waits inside the socket. -/
structure Flight where
  id : Nat
  due : Option Nat
  port : ResPort
  res : Result
  locked : Bool
  deriving DecidableEq, Repr

/-- The atomics with a result (R164). -/
inductive AtomicOp where
  | add | swap | cas | min | max | minu | maxu | and | or | xor
  deriving DecidableEq, Repr

/-- The element types of aacc and scatter-add (R165, R201). -/
inductive AccType where
  | i32 | i64 | f32 | f64
  deriving DecidableEq, Repr

/-- Where the bytes of an access lie (R64): SPM bytes of a tile's window, or global bytes by virtual address. -/
inductive Loc where
  | window (ltn win off : Nat)
  | global (va : Nat)
  deriving DecidableEq, Repr

/-- What a variable-latency access does when it is performed. -/
inductive AccessOp where
  | load (n : Nat) (signed : Bool)
  | atomic (o : AtomicOp) (d e : Word)
  | store (n : Nat) (data : Vec)
  | accumulate (t : AccType) (d : Word)
  | gather (w : Nat) (lanes : List (Nat × Loc))
  | scatter (w : Nat) (lanes : List (Nat × Loc)) (data : Vec)
  | scatterAdd (t : AccType) (lanes : List (Nat × List (Option Nat))) (data : Vec)
  | release (va n : Nat)
  | acquire (va n : Nat)
  | message (ltn : Nat) (strand : StrandId) (word : Word)
  | multicast (tag : BitVec 16) (payload : Vec) (dsts : List (Nat × Nat))
  deriving DecidableEq, Repr

/-- How an access reaches its bytes: an ls peer form, an ls handle form, an nx form to a tile of the issuing die (both of the
die domain, R75) or elsewhere (R82). -/
inductive AccessPath where
  | peer | handle | near | far
  deriving DecidableEq, Repr

/-- An access in flight (R79, R163, R284): its identity, the bundle that triggered it, what and where, the port or
register it delivers to, whether it waits for earlier accesses (a release) or holds later ones (an acquire), whether it
is performed at the home of global bytes, the counters it is in, whether it has been performed and its value, the cycle from
which it may move, and the first in which its value may return (R286). -/
structure Access where
  id : Nat
  pc : Nat
  op : AccessOp
  loc : Loc
  path : AccessPath
  home : Bool
  port : Option ResPort
  map : Option (Fin 64)
  rel : Bool
  acq : Bool
  handle : Option Nat
  countsLd : Bool
  countsSt : Bool
  performed : Bool
  value : Vec
  due : Nat
  ret : Nat
  deriving DecidableEq, Repr

/-- An entry of the store buffer (R77): `id` orders it in the strand's program order; `rel` marks a .rel store of nx (R284), `peer`
a peer store of ls (R68, R287). -/
structure StoreEntry where
  id : Nat
  pc : Nat
  loc : Loc
  n : Nat
  data : Vec
  handle : Option Nat
  rel : Bool
  peer : Bool
  due : Nat
  deriving DecidableEq, Repr

/-- A post, add or ring commit that waits for the stores before it (R88, R172). -/
inductive PostKind where
  | sem (n : Nat) (k : Nat)
  | rpub (ring : Nat)
  | rrel (ring : Nat)
  deriving DecidableEq, Repr

/-- A waiting post with the identity of the last store before it. -/
structure Post where
  kind : PostKind
  after : Nat
  deriving DecidableEq, Repr

/-- A mapped value on its way to a register (R166, R167): of fixed latency, or (`pend`) of a returned peer or handle access,
whose register is pending until it lands; `nx` marks one of nx, which a stop does not hold back (R281). -/
structure Mapped where
  reg : Fin 64
  value : Word
  due : Nat
  pend : Bool
  nx : Bool
  deriving DecidableEq, Repr

/-- A hardware loop (R130). -/
structure Loop where
  start : Nat
  stop : Nat
  count : Nat
  deriving DecidableEq, Repr

/-- Whether a strand runs. -/
inductive RunState where
  | idle | running | ended | halted | debugHalt
  deriving DecidableEq, Repr

/-- The kind of a fault (R140). -/
inductive FaultKind where
  | precise | after | deferred | asynchronous
  deriving DecidableEq, Repr

/-- The fault codes of R141. -/
inductive FaultCode where
  | illegalBundle | illegalPort | bundleDest | bundleTrig | bundlePort | pcOverrun | operandFmt | operandRm
  | operandRange | csrAccess | mxBank | regionBounds | regionPerm | peerGone | slotViolation | memPoison | stack
  | loopNest | trap | brk | domainAbort | codeGone | watchdog
  deriving DecidableEq, Repr

/-- A fault of a strand waiting to be recorded (R142, R143), with the cause and address of a poison (R331), and whether its trace
record is written (R153). -/
structure FaultInfo where
  code : FaultCode
  kind : FaultKind
  fpc : Nat
  detail : Word
  poison : Option (Nat × Nat)
  traced : Bool
  deriving DecidableEq, Repr

/-- One strand of a tile; `localLd` holds the cycles in which its local loads return (R79). -/
structure Strand where
  run : RunState
  x : Vector Word 64
  g : Vector Bool 3
  pc : Nat
  store : SMap (BitVec 256)
  repLeft : Nat
  smode : BitVec 32
  sstat : BitVec 2
  cyc : Word
  issued : Word
  stall : Word
  lodc : BitVec 32
  lodcy : Word
  ldcnt : Nat
  localLd : List Nat
  stcnt : Nat
  cpcnt : Nat
  inner : Option Loop
  outer : Option Loop
  rstack : List Nat
  mdc : Nat
  bpa : Vector Word 4
  dbgctl : Word
  operands : SMap Vec
  ports : SMap PortState
  flights : List Flight
  mapped : List Mapped
  accesses : List Access
  sb : List StoreEntry
  posts : List Post
  nextId : Nat
  mailbox : List (Nat × Word)
  mailHeld : List Word
  mailPop : Nat
  lodWait : Bool
  lsBusy : Nat
  token : Option Nat
  fault : Option FaultInfo
  resumeAt : Option Nat
  stepping : Bool
  pass : Bool
  issuedAt : Nat
  advancedAt : Nat
  deriving DecidableEq, Repr

/-! ### Tiles -/

/-- A region record as accepted (R31), with its own EST and close (R314, R320), whether an action is in progress at its start or end,
whether its end action is done, whether its STAGE_OUT has read its window and, of an ACC record, the bytes it read (R311, R313). -/
structure Region where
  base : Nat
  extent : Nat
  mode : Nat
  acct : Nat
  stageIn : Bool
  stageOut : Bool
  weevil : Bool
  lazyMap : Bool
  pinned : Bool
  win : Nat
  est : Nat
  closed : Bool
  ending : Bool
  ended : Bool
  windowRead : Bool
  staged : List Byte
  due : Nat
  deriving DecidableEq, Repr

/-- A window (R14). -/
structure Window where
  base : Nat
  size : Nat
  deriving DecidableEq, Repr

/-- A ring (R169, R170). -/
structure Ring where
  cfg : Bool
  desc : Word
  fill : Nat
  free : Nat
  head : Nat
  tail : Nat
  ph : Nat
  ch : Nat
  deriving DecidableEq, Repr

/-- An inter-strand queue: entries with their width (64 or 1,024) and the cycle they were written in, and the last
cycle of a pop (R12, R50). -/
structure Queue where
  entries : List (Nat × Nat × Vec)
  lastPop : Nat
  deriving DecidableEq, Repr

/-- A fetched element of a stream: its number, its entry, the cycle from which the head shows it, and whether its
handle fetch has returned. -/
structure Element where
  j : Nat
  value : Vec
  ready : Nat
  fetched : Nat
  returned : Bool
  deriving DecidableEq, Repr

/-- A stream generator (R173 to R180): its captured parameters, the next element to fetch and the elements at its head. -/
structure Stream where
  opened : Bool
  pc : Nat
  sel : Word
  base : Word
  d0 : Word
  d1 : Word
  d2 : Word
  cfg : Word
  since : Nat
  after : Nat
  next : Nat
  elems : List Element
  refetch : List Nat
  lastPop : Nat
  deriving DecidableEq, Repr

/-- A carry-save accumulator entry (R104). -/
structure AccEntry where
  s : BitVec 80
  c : BitVec 80
  e : BitVec 12
  stk : Bool
  nan : Bool
  pinf : Bool
  ninf : Bool
  deriving DecidableEq, Repr

/-- A row-statistics set (R210): MAX is an FP32 pattern (0x7FC0_0000 for NaN), S1 and S2 as lower and upper halves. -/
structure RowSet where
  cnt : Nat
  max : BitVec 32
  s1 : AccEntry × AccEntry
  s2 : AccEntry × AccEntry
  deriving DecidableEq, Repr

/-- A racc in flight (R211, R212): its set, its element type code, its enabled lanes in order and the cycle it takes effect in. -/
structure Racc where
  set : Fin 4
  et : Nat
  lanes : List (BitVec 64)
  due : Nat
  deriving DecidableEq, Repr

/-- A matrix hold latch (R238, R244). -/
structure Latch where
  lv : Bool
  rows : List (List Byte)
  scales : List (List Byte)
  lrows : Nat
  lrb : Nat
  lsc : Nat
  lsp : Bool
  lmd : Nat
  mdw : List Word
  desc : Word
  sdesc : Word
  src : List (Option Nat)
  deriving DecidableEq, Repr

/-- A matrix operation in flight (R232, R233): the operands it read, its operation word and landing cycle, the bytes it
reads and the end of its read span (R240). -/
structure MxFlight where
  id : Nat
  op : MxOp
  word : Word
  a : Latch
  b : Latch
  due : Nat
  spanEnd : Nat
  bytes : List Nat
  deriving DecidableEq, Repr

/-- An absorb, raw load or raw save in flight (R249, R252, R260). -/
inductive AccPending where
  | absorb (desc : Word) (pairs : Vec) (due : Nat)
  | rload (desc : Word) (addrs : List (Option Nat)) (bytes : List Byte) (issued due : Nat)
  | rsave (addrs : List Nat) (bytes : List Byte) (due : Nat)
  deriving DecidableEq, Repr

/-- An unretired copy (R268 to R277): its shadow of the channel operands, progress, and the
task (context, identity) that each remote tile is bound to; `sent` is its place among the launches and completions of the tile. -/
structure Copy where
  xid : Nat
  pc : Nat
  ssel : Word
  soff : Word
  dsel : Word
  doff : Word
  ctl : Word
  sd : List Word
  dd : List Word
  order : Nat
  begun : Bool
  done : Nat
  cancelled : Bool
  completed : Bool
  bound : List (Nat × Nat × Nat)
  sfoot : Option (Nat × Nat)
  dfoot : Option (Nat × Nat)
  after : Nat
  due : Nat
  sent : Nat
  deriving DecidableEq, Repr

/-- A copy channel (R264): its next transfer id, its unretired copies, after a resume the messages that a stop held with the mailbox
each goes to (R279), and one more than the cycle of its last element with that element's bytes (R422). -/
structure CopyChannel where
  nextXid : Nat
  copies : List Copy
  held : List (StrandId × Word)
  movedAt : Nat
  movedBytes : Nat
  deriving DecidableEq, Repr

/-- The gate latch of R291. -/
inductive GateLatch where
  | opened | armed | gated
  deriving DecidableEq, Repr

/-- A subscription change in flight (R292): its flight, its tag, the entry it changes and its result. -/
structure SubFlight where
  id : Nat
  isSub : Bool
  tag : BitVec 16
  entry : Option Nat
  res : Word
  due : Nat
  deriving DecidableEq, Repr

/-- A multicast on its way to a receiver (R293); `id` is that of the send, `dst` the receiving task, `stamp` names its subscription. -/
structure McastFlight where
  id : Nat
  dst : Nat
  tag : BitVec 16
  stamp : Nat
  payload : Vec
  due : Nat
  deriving DecidableEq, Repr

/-- A message that meets a full mailbox, held by its sender's interface (R138, R290): its target's tile, task and strand. -/
structure HeldMsg where
  ltn : Nat
  uid : Nat
  strand : StrandId
  word : Word
  deriving DecidableEq, Repr

/-- A scheduled send (R301, R302): its entry, target and payload, its departure cycle and whether it has departed, the links
it has passed, the cycle it reached the next one, its delays so far, and its domain. -/
structure SchedSend where
  idx : Nat
  pc : Nat
  dst : Nat
  win : Nat
  off : Nat
  n : Nat
  payload : Vec
  depart : Nat
  gone : Bool
  hop : Nat
  reached : Nat
  delay : Nat
  dom : Nat
  deriving DecidableEq, Repr

/-- A Weevil commit on its way (R358). -/
structure WqCommit where
  pc : Nat
  kv : Nat
  sd : Word
  n : Nat
  after : Nat
  due : Nat
  deriving DecidableEq, Repr

/-- A triple of a Weevil scan (R361): FP32 patterns of m, s and the accumulator lanes. -/
structure Tri where
  m : BitVec 32
  s : BitVec 32
  acc : List (BitVec 32)
  deriving DecidableEq, Repr

/-- What a Weevil unit has folded of a query (R362, R364): its triple, its next token, and the counts of its status. -/
structure BankScan where
  tri : Tri
  next : Nat
  ntok : Nat
  npsn : Nat
  ncor : Nat
  pmask : BitVec 32
  nf : Bool
  deriving DecidableEq, Repr

/-- A Weevil query (R359 to R366): posted with its block; the cycle in which its wait ended, its first GEN and the words read since;
once accepted, with its QID, parameters and bank triples. -/
structure WqQuery where
  pc : Nat
  block : Nat
  room : Nat
  after : Nat
  waited : Option Nat
  gen : Option Nat
  got : List Word
  accepted : Bool
  qid : Nat
  kf : Bool
  kvh : Nat
  fence : Nat
  lo : Nat
  q : List (BitVec 16)
  banks : SMap BankScan
  delivered : Nat
  cancelled : Option Nat
  due : Nat
  deriving DecidableEq, Repr

/-- A q15 entry: eight parts of 1,024 bits (R363). -/
structure Triple where
  parts : List Vec
  written : Nat
  deriving DecidableEq, Repr

/-- A one-sided fabric operation or fence in flight (R372 to R376). -/
structure FxOpFlight where
  id : Nat
  pc : Nat
  op : FxOp
  fpid : Nat
  exp : Nat
  off : Nat
  d : Word
  e : Word
  xd : Vec
  performed : Bool
  value : Word
  due : Nat
  deriving DecidableEq, Repr

/-- A collective of the tile (R381 to R387); `order` is the copy order at its readiness (R383). -/
structure Collective where
  order : Nat
  cb : Word
  cn : Word
  cring : Word
  ccfg : Word
  off : Nat
  after : Nat
  ready : Bool
  due : Nat
  deriving DecidableEq, Repr

/-- A launch record as read: its words, its region table and its schedule (R29, R31, R299). -/
structure LaunchRec where
  ws : List Word
  table : List Word
  sched : List Word
  deriving DecidableEq, Repr

/-- A reading of a launch record in progress (R34): its address, whether its queue entry ends a kernel (R410), its words so far, and the
moment of the next read. -/
structure Reading where
  addr : Nat
  last : Bool
  got : LaunchRec
  due : Nat
  deriving DecidableEq, Repr

/-- A tk trigger whose result is on its way (R319, R322). -/
inductive TkFlight where
  | launch (after : Nat) (reading : Reading)
  | xlt (va n : Nat) (due : Nat)
  deriving DecidableEq, Repr

/-- An asynchronous fault of the whole task on a tile (R143, R337): its code, its detail and its last moment. -/
structure Abort where
  code : FaultCode
  detail : Word
  deadline : Nat
  deriving DecidableEq, Repr

/-- Where a stop of the task stands (R144, R145): not asked for, to be injected, passing through the strands, or completing;
`aborting`: its strands have stopped without an image, and its copies and queries run out (R327, R332). -/
inductive StopState where
  | none | requested | token | draining | aborting
  deriving DecidableEq, Repr

/-- The vector-side engines of a tile: vector registers, accumulators, sticky status words (R188, R207, R219, R261), the
divider (R187), row statistics (R210 to R212), the carry-save engine's operations in flight, and the flags of operations in
flight with the cycle they are set in. -/
structure Vu where
  v : Vector Vec 32
  acc : Vector (SMap AccEntry) 8
  vxStat : BitVec 7
  sfStat : BitVec 7
  cvStat : BitVec 7
  accStat : BitVec 7
  divBusy : Nat
  rowSets : Vector RowSet 4
  raccs : List Racc
  accPend : List AccPending
  flagsDue : List (Nat × FlagUnit × BitVec 7)
  deriving DecidableEq, Repr

/-- The matrix engine (R232 to R244); `staleA` and `staleB` mark a latch whose source bytes were written in this cycle (R239). -/
structure Mx where
  mdc : Nat
  seq : BitVec 32
  a : Latch
  b : Latch
  flights : List MxFlight
  busy : Nat
  staleA : Bool
  staleB : Bool
  deriving DecidableEq, Repr

/-- The network interface (R289 to R303): idle threshold, gate latch, match table (each tag with a number that names its subscription),
messages and sends in flight, and q12. -/
structure Nx where
  threshold : Nat
  gate : GateLatch
  idleFor : Nat
  gateAt : Nat
  arrived : Bool
  mtab : Vector (Option (BitVec 16 × Nat)) 8
  subs : List SubFlight
  held : List HeldMsg
  mcasts : List McastFlight
  sends : List SchedSend
  sentIdx : List Nat
  barWait : Option (Nat × Word)
  q12 : List (Nat × Word × Vec)
  q12Pop : Nat
  deriving DecidableEq, Repr

/-- The Weevil socket (R356 to R367) and q15. -/
structure Wq where
  nextQid : Nat
  commits : List WqCommit
  queries : List WqQuery
  q15 : List Triple
  reserved : Nat
  q15Pop : Nat
  hp : Nat
  deriving DecidableEq, Repr

/-- The fabric interface and collective engine (R374 to R387). -/
structure Fx where
  err : SMap (BitVec 5)
  ops : List FxOpFlight
  colls : List Collective
  collDone : List (Nat × Nat)
  deriving DecidableEq, Repr

/-- One tile; `since` is the cycle in which its task first runs here, `ringCfg` the rcfg of the cycle (R169). -/
structure Tile where
  live : Bool
  since : Nat
  owner : Option (Nat × Nat)
  lastCtx : Option Nat
  fenced : Bool
  phys : Option Nat
  feed : Strand
  compute : Strand
  drain : Strand
  spm : Memory
  metaStore : SMap Word
  sems : Vector (BitVec 16) 64
  semPosts : List (StrandId × Nat × Nat)
  semTakes : List (StrandId × Nat × Nat)
  rings : Vector Ring 8
  ringRel : List PostKind
  ringAcq : List (Nat × Bool)
  ringCfg : List (Nat × Word)
  windows : List Window
  regions : List Region
  queues : Vector Queue 8
  streams : Vector Stream 4
  vu : Vu
  mx : Mx
  cpi : CopyChannel
  cpo : CopyChannel
  copyOrder : Nat
  nx : Nx
  wq : Wq
  fx : Fx
  tkFlights : List TkFlight
  stop : StopState
  abort : Option Abort
  probes : Nat
  probedAt : Nat
  deriving DecidableEq, Repr

/-! ### Dies, stacks and management -/

/-- A line of a die cache: its 128 bytes, the mask of dirty bytes and the poison bit (R71, R86, R348); the contexts that have
accessed it, and those whose dirty bytes it may hold (R71: a page may serve several contexts). Each die cache has its own value of a
byte (R81). -/
structure Line where
  data : Vec
  dirty : BitVec 128
  poison : Bool
  ctxs : List Nat
  writers : List Nat
  deriving DecidableEq, Repr

/-- A speculative line held for a task (R325): its written bytes and their mask. -/
structure HeldLine where
  ctx : Nat
  uid : Nat
  line : Nat
  data : Vec
  mask : BitVec 128
  deriving DecidableEq, Repr

/-- One element of a task's ACC delta (R316). -/
structure Delta where
  ctx : Nat
  uid : Nat
  va : Nat
  ty : AccType
  value : Word
  deriving DecidableEq, Repr

/-- One die: its cache by physical line number, held lines, deltas, region TLB and boot state. -/
structure Die where
  cache : SMap Line
  held : List HeldLine
  deltas : List Delta
  tlb : List (Nat × Xlate)
  mreg : Vector (BitVec 512) 5
  bootStage : Nat
  minVersion : Nat
  keyHash : BitVec 512
  recovery : Bool
  spares : List Nat
  pausedUntil : Nat
  deriving DecidableEq, Repr

/-- One memory stack (R339 to R351): its temperature flag, ACTTH, activation counts keyed by bank · 2^16 + row, how many bank
refreshes have come due and when the next does, the banks that a refresh (with its turn) and those that a back-off (with its row) still
waits for, the time until which a refresh or back-off holds a bank, alerts per bank, corrected errors per pseudo-channel, the two copies
of the row-remap table keyed by 32 · bank + spare, and the fenced pseudo-channels. Times are in units of `State.time`. -/
structure Stack where
  hot : Bool
  actth : Nat
  acts : SMap Nat
  refreshes : Nat
  nextRefresh : Nat
  owed : List (Nat × Nat)
  backOffs : List (Nat × Nat)
  held : SMap Nat
  alerts : SMap Nat
  corrected : SMap Nat
  remap : SMap (BitVec 32)
  remap2 : SMap (BitVec 32)
  fenced : List Nat
  deriving DecidableEq, Repr

/-- A package barrier domain (R295 to R297). -/
structure Domain where
  ctx : Nat
  gangUid : Nat
  members : List Nat
  phase : Option Nat
  t0 : Option Nat
  arrivals : List (Nat × Word)
  due : Nat
  deriving DecidableEq, Repr

/-- A collective posting that a package keeps (R384): package, tile and task, parameters, readiness, whether another tile of its package
posted the COLLID while both were unretired, and its input bytes. -/
structure Posting where
  fpid : Nat
  job : Nat
  tile : Nat
  uid : Nat
  collid : Nat
  cn : Word
  cring : Word
  ccfg : Word
  ready : Bool
  retired : Bool
  dup : Bool
  data : List Byte
  poisoned : Bool
  deriving DecidableEq, Repr

/-- An export of a context (R370, R408). -/
structure Export where
  base : Nat
  extent : Nat
  mode : Nat
  deriving DecidableEq, Repr

/-- Another package of the fabric as this package sees it: its job's exports and the bytes at home behind them, by virtual
address in its context of the job, the poisoned lines among them, the pages of its registered images as base and size, the Fjolos links that lead
to it, whether a route remains, and the packages to which it has itself no route left. -/
structure Peer where
  fpid : Nat
  job : Nat
  routed : Bool
  exports : Vector Export 16
  mem : SMap Byte
  poison : List Nat
  images : List (Nat × Nat)
  links : List Nat
  lost : List Nat
  deriving DecidableEq, Repr

/-! ### Contexts -/

/-- The state of a task (R304), with ABORTED for a task of an aborted kernel. -/
inductive TaskState where
  | accepted | waiting | ready | starting | running | stopped | ending | retired | aborted
  deriving DecidableEq, Repr

/-- One entry of an exchange schedule (R299). -/
structure SchedEntry where
  ph : Nat
  cyc : Nat
  src : Nat
  dst : Nat
  big : Bool
  win : Nat
  off : Nat
  deriving DecidableEq, Repr

/-- An accepted task: its launch record and region table (R29, R31) and what Scarab keeps of it; `stPorts`: at a stop, the operand ports
of its open streams (R48, R181). `endLines`: lines that end or stop actions of tasks below it, which it overlaps, have written since it was
placed; `conflict`: it has read one of them (R326). `noticed` and `readyAt` are times. -/
structure Task where
  uid : Nat
  kid : Nat
  state : TaskState
  taskid : Nat
  ts : Word
  prio : Nat
  spec : Bool
  code : Nat
  entryF : Nat
  entryC : Nat
  entryD : Nat
  regtab : Nat
  nwin : Nat
  windows : List Window
  regions : List Region
  args : List Word
  gang : Bool
  gangUid : Nat
  gangId : Nat
  gidx : Nat
  gw : Nat
  gh : Nat
  origin : Nat
  domain : Nat
  sched : List SchedEntry
  ltn : Option Nat
  slot : Option Nat
  hasImage : Bool
  aborts : Nat
  readSet : List Nat
  fromQueue : Option Nat
  marked : Bool
  committed : Bool
  started : Nat
  noticed : Option Nat
  readyAt : Nat
  parked : Bool
  heldMail : List (Channel × StrandId × Word)
  agentMail : List (StrandId × Word)
  heldOut : List HeldMsg
  mtab : List (Option (BitVec 16 × Nat))
  barrier : Option Word
  lodWaits : List StrandId
  steps : List StrandId
  sentIdx : List Nat
  stPorts : List (Nat × Vec)
  endLines : List Nat
  conflict : Bool
  deriving DecidableEq, Repr

/-- A kernel (R305); `ckpt`: the checkpoint that its end asks for has been taken (R330). `startedAt` is a time (R419). -/
structure Kernel where
  kid : Nat
  alive : Bool
  closed : Bool
  retired : Nat
  fxUsed : Bool
  startedAt : Nat
  ckpt : Bool
  deriving DecidableEq, Repr

/-- A registered image (R399): its sections, the symbols it defines, the images it bound to, and whether it is the
private copy of copy-on-debug. -/
structure Image where
  base : Nat
  size : Nat
  feed : List (BitVec 256)
  compute : List (BitVec 256)
  drain : List (BitVec 256)
  metaWords : List Word
  globals : List (List Byte × Int)
  boundTo : List Nat
  priv : Bool
  places : List Nat
  deriving DecidableEq, Repr

/-- A completion entry (R411). -/
structure Completion where
  kind : Nat
  code : Nat
  info : Nat
  kid : Nat
  count : Nat
  deriving DecidableEq, Repr

/-- A fault record of 32 bytes as its four words (R143). -/
structure FaultRecord where
  w0 : Word
  w1 : Word
  w2 : Word
  w3 : Word
  deriving DecidableEq, Repr

/-- A rollback or abort of a context in progress (R332 to R336): the kernels that are aborted, whether an error asked for it, the
records of its causes, the LTN that the DOMAIN_ABORT records of gang members name, the tiles of a fenced tile's domain whose members
have to meet DOMAIN_ABORT first, the fenced tiles that a spare takes the place of, and whether the tasks have been stopped. -/
structure Recovery where
  named : List Nat
  error : Bool
  causes : List FaultRecord
  blame : Nat
  waits : List Nat
  fenced : List Nat
  halted : Bool
  deriving DecidableEq, Repr

/-- One context: its page of BAR0 registers (R408) and what Scarab and gyld keep for it; `halts` lists the debug halts reported to its
debugger, as tile, strand and next bundle (R151). -/
structure Context where
  en : Bool
  weight : Nat
  job : Nat
  ptbase : Word
  logbase : Word
  logsize : Word
  imgbase : Word
  imgsize : Word
  lqbase : Word
  lqcfg : Word
  lqtail : BitVec 32
  lqhead : BitVec 32
  cqbase : Word
  cqcfg : Word
  cqtail : BitVec 32
  cqhead : BitVec 32
  fqbase : Word
  fqcfg : Word
  fqtail : BitVec 32
  fqhead : BitVec 32
  msix : Word
  wdog : Word
  pgresp : Word
  hmsgt : Word
  hmsgb : Word
  exports : Vector Export 16
  dbgsel : Word
  dbgcmd : Word
  halts : List (Nat × StrandId × Nat)
  trbase : Word
  trsize : Word
  trpos : Nat
  xlates : List Xlate
  pins : List (Nat × Nat)
  requests : List Nat
  impossible : List Nat
  images : List Image
  replaced : List (Nat × Nat)
  kernels : List Kernel
  tasks : List Task
  nextKid : Nat
  nextUid : Nat
  openKernel : Option Nat
  log : List (Nat × Vec)
  logPoison : List Nat
  boundary : List Task
  boundaryUid : Nat
  rollbacks : Nat
  cqHeld : List Completion
  fqHeld : List FaultRecord
  cqPending : Bool
  fqPending : Bool
  cqRaised : Nat
  fqRaised : Nat
  shares : SMap Nat
  fxShare : SMap Nat
  ckpt : Bool
  reading : Option Reading
  recovery : Option Recovery
  deriving DecidableEq, Repr

/-! ### The whole machine -/

/-- The operands of a step that has no encoding: which tile, strand, context, task, access, die, bank it concerns and
what is written. Each step reads the ones its own docstring names. -/
structure Args where
  l : Nat := 0
  k : StrandId := .feed
  c : Nat := 0
  uid : Nat := 0
  id : Nat := 0
  n : Nat := 0
  ch : Channel := .cpi
  v : Word := 0
  addr : Nat := 0
  row : Nat := 0
  flag : Bool := false
  xlate : Option Xlate := none
  img : FwImage := ⟨false, 0, 0, 0⟩
  err : AtomError := .clean
  words : List Word := []
  bytes : Option (List Byte) := none
  deriving DecidableEq, Repr

/-- Who moves next when the agenda is empty: the start of a cycle, a strand of a tile, the end of the cycle. -/
inductive Turn where
  | begin | strand (l : Nat) (k : StrandId) | finish | close
  deriving DecidableEq, Repr

/-- How the endpoint answers a host access (R348, R406): bytes of a read, a poisoned TLP, an Unsupported Request. -/
structure Reply where
  data : List Byte
  poisoned : Bool
  unsupported : Bool
  deriving DecidableEq, Repr

/-- The SPDM requests that the device answers (R416). -/
inductive SpdmRequest where
  | getVersion | getCapabilities | negotiateAlgorithms | getDigests | getCertificate | challenge | getMeasurements
  deriving DecidableEq, Repr

/-- What gyld answers (R399, R402, R403). -/
inductive GyldStatus where
  | ok | format | latgen | feature | unresolved | range | full | busy | none
  deriving DecidableEq, Repr

/-- The power governor (R418): the clock step, the issue spacing in force, since when the margin holds, its last step down. -/
structure Governor where
  step : Nat
  mxSpaced : Bool
  vxSpaced : Bool
  marginSince : Option Nat
  last : Nat
  deriving DecidableEq, Repr

/-- The state of one F816 package. `time` is the time since power-on in units of 1/342 ns, in which a cycle is a whole number of units at
every clock step (R4); `latent` holds the errors in code words of HBM that nothing has read yet, by code word, and `scrubbed` how many
code words the patrol scrub has read (R347); `idKey` names the identity key of the last boot and `idCert` the certificate that binds it
(R416). -/
structure State where
  cycle : Nat
  time : Nat
  turn : Turn
  agenda : List (Instr × Args)
  inbox : List (Instr × Args)
  args : Args
  free : Nat
  tiles : SMap Tile
  dies : Vector Die 8
  mem : Memory
  poison : List Nat
  latent : SMap AtomError
  scrubbed : Nat
  wintab : SMap Word
  hbm : Vector Stack 16
  domains : SMap Domain
  links : SMap Nat
  ctxs : SMap Context
  featAcc : Vector (Option Word) 4
  ready : Bool
  recovery : Bool
  linkTraining : Bool
  testEnable : Bool
  pwrlim : Nat
  pwrnow : Nat
  governor : Governor
  fpid : Nat
  configLoaded : Bool
  postings : List Posting
  peers : List Peer
  linkDown : List Nat
  spdm : List (SpdmRequest × List Byte)
  idKey : Option Nat
  idCert : Nat
  replies : List Reply
  irq : SMap Nat
  gyld : Option (GyldStatus × Nat)
  telemetry : SMap Nat
  deriving DecidableEq, Repr

/-! ### Reset -/

/-- An empty result port (R21, R22). -/
def PortState.empty : PortState := ⟨0, false, none⟩

/-- A cleared accumulator entry (R246). -/
def AccEntry.cleared : AccEntry := ⟨0, 0, BitVec.ofInt 12 (-2048), false, false, false, false⟩

/-- A cleared row-statistics set (R210). -/
def RowSet.cleared : RowSet := ⟨0, 0xFF800000#32, (AccEntry.cleared, AccEntry.cleared), (AccEntry.cleared, AccEntry.cleared)⟩

/-- An invalid hold latch (R238). -/
def Latch.invalid : Latch := ⟨false, [], [], 0, 0, 0, false, 0, [], 0, 0, []⟩

/-- A strand of a tile without a task (R26; where R26 gives no value, log entry 1). -/
def Strand.empty : Strand :=
  { run := .idle, x := Vector.replicate 64 0, g := Vector.replicate 3 false, pc := 0, store := [], repLeft := 0,
    smode := 0, sstat := 0, cyc := 0, issued := 0, stall := 0, lodc := 0, lodcy := 0, ldcnt := 0, localLd := [], stcnt := 0,
    cpcnt := 0, inner := none, outer := none, rstack := [], mdc := 0, bpa := Vector.replicate 4 0, dbgctl := 0,
    operands := [], ports := [], flights := [], mapped := [], accesses := [], sb := [], posts := [], nextId := 0,
    mailbox := [], mailHeld := [], mailPop := 0, lodWait := false, lsBusy := 0, token := none, fault := none,
    resumeAt := none, stepping := false, pass := false, issuedAt := 0, advancedAt := 0 }

/-- An idle stream generator (R179). -/
def Stream.idle : Stream := ⟨false, 0, 0, 0, 0, 0, 0, 0, 0, 0, 0, [], [], 0⟩

/-- A copy channel at task start (R264, R268). -/
def CopyChannel.empty : CopyChannel := ⟨1, [], [], 0, 0⟩

/-- The vector-side engines at task start (R26). -/
def Vu.start : Vu :=
  { v := Vector.replicate 32 0, acc := Vector.replicate 8 [], vxStat := 0, sfStat := 0, cvStat := 0, accStat := 0,
    divBusy := 0, rowSets := Vector.replicate 4 .cleared, raccs := [], accPend := [], flagsDue := [] }

/-- The matrix engine at task start (R26, R244). -/
def Mx.start : Mx := { mdc := 0, seq := 0, a := .invalid, b := .invalid, flights := [], busy := 0, staleA := false, staleB := false }

/-- The network interface at task start (R26, R291). -/
def Nx.start : Nx :=
  { threshold := 0, gate := .opened, idleFor := 0, gateAt := 0, arrived := false, mtab := Vector.replicate 8 none,
    subs := [], held := [], mcasts := [], sends := [], sentIdx := [], barWait := none, q12 := [], q12Pop := 0 }

/-- The Weevil socket at task start (R26, R359). -/
def Wq.start : Wq := { nextQid := 1, commits := [], queries := [], q15 := [], reserved := 0, q15Pop := 0, hp := 0 }

/-- The fabric interface at task start (R26, R374). -/
def Fx.start : Fx := { err := [], ops := [], colls := [], collDone := [] }

/-- A tile without a task. -/
def Tile.empty : Tile :=
  { live := false, since := 0, owner := none, lastCtx := none, fenced := false, phys := none, feed := .empty, compute := .empty,
    drain := .empty, spm := [], metaStore := [], sems := Vector.replicate 64 0, semPosts := [], semTakes := [],
    rings := Vector.replicate 8 ⟨false, 0, 0, 0, 0, 0, 0, 0⟩, ringRel := [], ringAcq := [], ringCfg := [], windows := [], regions := [],
    queues := Vector.replicate 8 ⟨[], 0⟩, streams := Vector.replicate 4 .idle, vu := .start, mx := .start,
    cpi := .empty, cpo := .empty, copyOrder := 0, nx := .start, wq := .start, fx := .start, tkFlights := [],
    stop := .none, abort := none, probes := 0, probedAt := 0 }

/-- A die after power-on (R8, R417; log entry 3). -/
def Die.empty : Die :=
  { cache := [], held := [], deltas := [], tlb := [], mreg := Vector.replicate 5 0, bootStage := 0, minVersion := 0, keyHash := 0,
    recovery := false, spares := [200, 201, 202, 203, 204, 205, 206, 207], pausedUntil := 0 }

/-- A stack after power-on (R345; log entry 3). -/
def Stack.empty : Stack :=
  { hot := false, actth := 4096, acts := [], refreshes := 0, nextRefresh := 0, owed := [], backOffs := [], held := [], alerts := [], corrected := [], remap := [], remap2 := [], fenced := [] }

/-- A context page after reset (log entries 3 and 5). -/
def Context.empty : Context :=
  { en := false, weight := 0, job := 0, ptbase := 0, logbase := 0, logsize := 0, imgbase := 0, imgsize := 0, lqbase := 0,
    lqcfg := 0, lqtail := 0, lqhead := 0, cqbase := 0, cqcfg := 0, cqtail := 0, cqhead := 0, fqbase := 0, fqcfg := 0,
    fqtail := 0, fqhead := 0, msix := 0, wdog := 0, pgresp := 0, hmsgt := 0, hmsgb := 0,
    exports := Vector.replicate 16 ⟨0, 0, 0⟩, dbgsel := 0, dbgcmd := 0, halts := [], trbase := 0, trsize := 0, trpos := 0, xlates := [],
    pins := [], requests := [], impossible := [], images := [], replaced := [], kernels := [], tasks := [], nextKid := 1,
    nextUid := 0, openKernel := none, log := [], logPoison := [], boundary := [], boundaryUid := 0, rollbacks := 0, cqHeld := [], fqHeld := [],
    cqPending := false, fqPending := false, cqRaised := 0, fqRaised := 0, shares := [], fxShare := [], ckpt := false, reading := none, recovery := none }

/-- The package after power-on reset (R407, R417): no task on any tile, memory zero, PWRLIM 4,200, the stack window table
all zero; every other value is named in the assumption log. -/
def State.reset : State :=
  { cycle := 0, time := 0, turn := .begin, agenda := [], inbox := [], args := {}, free := 0, tiles := [],
    dies := Vector.replicate 8 .empty, mem := [], poison := [], latent := [], scrubbed := 0, wintab := [], hbm := Vector.replicate 16 .empty,
    domains := [], links := [], ctxs := [], featAcc := Vector.replicate 4 none, ready := false, recovery := false, linkTraining := true,
    testEnable := false, pwrlim := 4200, pwrnow := 0, governor := ⟨0, false, false, none, 0⟩, fpid := 0, configLoaded := false, postings := [], peers := [],
    linkDown := [], spdm := [], idKey := none, idCert := 0, replies := [], irq := [], gyld := none, telemetry := [] }

end Sys2Proof.Machine
end

