-- ==== Sys2Proof/Machine/Store.lean ====
section
/-! DEFINITION. Reading and writing the sparse maps and memories of the state, bit fields, lanes and byte order (R2). -/

namespace Sys2Proof.Machine

/-! ### Sparse maps -/

/-- The value at a key, or the default. -/
def mget {α : Type} (m : SMap α) (k : Nat) (d : α) : α :=
  match m with
  | [] => d
  | (a, v) :: r => if a = k then v else mget r k d

/-- The value at a key, if it is listed. -/
def mfind {α : Type} (m : SMap α) (k : Nat) : Option α :=
  match m with
  | [] => none
  | (a, v) :: r => if a = k then some v else mfind r k

/-- Writes a key in a map whose keys rise. -/
def mput {α : Type} (m : SMap α) (k : Nat) (v : α) : SMap α :=
  match m with
  | [] => [(k, v)]
  | (a, w) :: r => if k < a then (k, v) :: (a, w) :: r else if a = k then (k, v) :: r else (a, w) :: mput r k v

/-- Removes a key, wherever it is listed. -/
def mdel {α : Type} (m : SMap α) (k : Nat) : SMap α :=
  match m with
  | [] => []
  | (a, w) :: r => if a = k then mdel r k else (a, w) :: mdel r k

/-- Writes a key, removing it where the value is the one an unlisted key reads as. -/
def mputD {α : Type} [DecidableEq α] (d : α) (m : SMap α) (k : Nat) (v : α) : SMap α :=
  if v = d then mdel m k else mput m k v

/-- The keys of a map rise strictly. -/
def risingFrom {α : Type} (lo : Nat) (m : SMap α) : Bool :=
  match m with
  | [] => true
  | (a, _) :: r => decide (lo ≤ a) && risingFrom (a + 1) r

/-- The canonical form of a memory: addresses strictly rising, no zero byte listed. -/
def Memory.wf (m : Memory) : Bool := risingFrom 0 m && m.all (fun p => p.2 != 0)

/-- Reads one byte; an unlisted address reads as zero. -/
def readByte (m : Memory) (a : Nat) : Byte := mget m a 0

/-- Writes one byte, keeping the canonical form. -/
def writeByte (m : Memory) (a : Nat) (b : Byte) : Memory := mputD 0 m a b

/-- The bytes at a list of addresses. -/
def readAt (m : Memory) (as : List Nat) : List Byte := as.map (readByte m)

/-- Writes a list of bytes at addresses, in order. -/
def writeAt (m : Memory) (ps : List (Nat × Byte)) : Memory := ps.foldl (fun m p => writeByte m p.1 p.2) m

/-- The n addresses from a. -/
def span (a n : Nat) : List Nat := (List.range n).map (a + ·)

/-- The listed bytes of n addresses from a. -/
def within (m : Memory) (a n : Nat) : Memory := m.filter (fun p => decide (a ≤ p.1) && decide (p.1 < a + n))

/-- The listed bytes below an address. -/
def below (m : Memory) (a : Nat) : Memory := m.filter (fun p => decide (p.1 < a))

/-- The listed bytes from an address on. -/
def onward (m : Memory) (a : Nat) : Memory := m.filter (fun p => decide (a ≤ p.1))

/-- The n bytes from a. -/
def readRange (m : Memory) (a n : Nat) : List Byte := readAt (within m a n) (span a n)

/-- The memory that lists a byte string from an address on. -/
def listBytes (a : Nat) : List Byte → Memory
  | [] => []
  | b :: r => if b = 0 then listBytes (a + 1) r else (a, b) :: listBytes (a + 1) r

/-- Writes a byte string from an address on. -/
def writeRange (m : Memory) (a : Nat) (bs : List Byte) : Memory := below m a ++ listBytes a bs ++ onward m (a + bs.length)

/-- Writes bytes at offsets, taken modulo n, of the block of n addresses from a. -/
def writeBlock (m : Memory) (a n : Nat) (ps : List (Nat × Byte)) : Memory :=
  below m a ++ writeAt (within m a n) (ps.map (fun p => (a + p.1 % n, p.2))) ++ onward m (a + n)

/-! ### Bytes and fields -/

/-- The value of a little-endian byte string (R2). -/
def leNat (bs : List Byte) : Nat := bs.foldr (fun b acc => acc * 256 + b.toNat) 0

/-- The n bytes of a value, the lowest first (R2). -/
def leBytes (n v : Nat) : List Byte := (List.range n).map (fun j => BitVec.ofNat 8 (v / 2 ^ (8 * j)))

/-- Bits [hi : lo] of a word as a number (R2). -/
def field {w : Nat} (v : BitVec w) (hi lo : Nat) : Nat := v.toNat / 2 ^ lo % 2 ^ (hi + 1 - lo)

/-- Bit i of a word. -/
def bit {w : Nat} (v : BitVec w) (i : Nat) : Bool := v.getLsbD i

/-- A 64-bit word. -/
def word (n : Nat) : Word := BitVec.ofNat 64 n

/-- A truth value as a bit. -/
def b2n (b : Bool) : Nat := if b then 1 else 0

/-- The n low bits of a value as a signed number (R97). -/
def signed (n v : Nat) : Int :=
  let u := v % 2 ^ n
  if n = 0 then 0 else if u < 2 ^ (n - 1) then (u : Int) else (u : Int) - (2 ^ n : Nat)

/-- A signed number as n bits of two's complement. -/
def unsign (n : Nat) (v : Int) : Nat := (v % ((2 ^ n : Nat) : Int)).toNat

/-- Floor division of a signed number by a power of two: an arithmetic right shift. -/
def asr (v : Int) (k : Nat) : Int := Int.fdiv v ((2 ^ k : Nat) : Int)

/-! ### Lanes -/

/-- Lane i of width w of a vector. -/
def lane (w : Nat) (v : Vec) (i : Nat) : Nat := v.toNat / 2 ^ (w * i) % 2 ^ w

/-- All lanes of width w. -/
def lanes (w : Nat) (v : Vec) : List Nat := (List.range (1024 / w)).map (lane w v)

/-- A number from its digits of width w, the lowest first. -/
def packNat (w : Nat) (ls : List Nat) : Nat := ls.foldr (fun x acc => acc * 2 ^ w + x % 2 ^ w) 0

/-- A vector from its lanes of width w; missing lanes are zero. -/
def ofLanes (w : Nat) (ls : List Nat) : Vec := BitVec.ofNat 1024 (packNat w ls)

/-- The bytes of a vector, the lowest first. -/
def vecBytes (v : Vec) : List Byte := leBytes 128 v.toNat

/-- A vector from bytes. -/
def bytesVec (bs : List Byte) : Vec := BitVec.ofNat 1024 (leNat bs)

/-- The smallest power of two not below n (n ≥ 1). -/
def pow2Ceil (n : Nat) : Nat := if n ≤ 1 then 1 else 2 ^ (Nat.log2 (n - 1) + 1)

/-- R66: the byte within a window of an offset. A window of size 0 has no bytes. -/
def wrapWindow (off size : Nat) : Nat :=
  let o := off % pow2Ceil size
  if size ≤ o then o - size else o

/-- Two byte ranges (base, length) share a byte. -/
def overlap (a : Nat × Nat) (b : Nat × Nat) : Bool :=
  decide (0 < a.2) && decide (0 < b.2) && decide (a.1 < b.1 + b.2) && decide (b.1 < a.1 + a.2)

/-! ### Tiles and strands -/

/-- A tile of the package by logical tile number (R7). -/
def State.tile (s : State) (l : Nat) : Tile := mget s.tiles l .empty

/-- Replaces a tile. -/
def State.setTile (s : State) (l : Nat) (t : Tile) : State := { s with tiles := mput s.tiles l t }

/-- Changes a tile. -/
def State.modTile (s : State) (l : Nat) (f : Tile → Tile) : State := s.setTile l (f (s.tile l))

/-- A strand of a tile. -/
def Tile.strand (t : Tile) : StrandId → Strand
  | .feed => t.feed
  | .compute => t.compute
  | .drain => t.drain

/-- Replaces a strand. -/
def Tile.setStrand (t : Tile) : StrandId → Strand → Tile
  | .feed, k => { t with feed := k }
  | .compute, k => { t with compute := k }
  | .drain, k => { t with drain := k }

/-- Changes a strand. -/
def Tile.modStrand (t : Tile) (k : StrandId) (f : Strand → Strand) : Tile := t.setStrand k (f (t.strand k))

/-- The three strands, in the order of R13. -/
def allStrands : List StrandId := [.feed, .compute, .drain]

/-- The number of a strand in a fault record (R143). -/
def strandNum : StrandId → Nat
  | .feed => 0
  | .compute => 1
  | .drain => 2

/-- A context by number. -/
def State.ctx (s : State) (c : Nat) : Context := mget s.ctxs c .empty

/-- Replaces a context. -/
def State.setCtx (s : State) (c : Nat) (x : Context) : State := { s with ctxs := mput s.ctxs c x }

/-- Changes a context. -/
def State.modCtx (s : State) (c : Nat) (f : Context → Context) : State := s.setCtx c (f (s.ctx c))

/-- The die of a logical tile (R7). -/
def dieOf (l : Nat) : Fin 8 := Fin.ofNat 8 (2 * (l / 40 / 10) + l % 40 / 20)

/-- The tile at cluster position p of a tile's cluster (R7). -/
def clusterTile (l p : Nat) : Nat :=
  40 * (l / 40 / 2 * 2 + p / 2) + (l % 40 / 2 * 2 + p % 2)

/-- The cycle in which a strand that starts or resumes now first may issue. -/
def State.firstCycle (s : State) : Nat := match s.turn with | .close => s.cycle + 1 | _ => s.cycle

/-- Takes the next free latency: at least one cycle after now (log entry 8). -/
def State.nextDue (s : State) : Nat := s.cycle + 1 + Config.latency s.free

/-- Advances the counter of free values (log entry 7). -/
def State.bump (s : State) : State := { s with free := s.free + 1 }

end Sys2Proof.Machine
end

