-- ==== Sys2Proof/Machine/Num.lean ====
section
/-! DEFINITION. Number formats and rounding (R96 to R121): exact values, RoundTo, conversions, sums in a fixed order. -/

namespace Sys2Proof.Machine

/-! ### Formats -/

/-- The formats of R96. -/
inductive Fmt where
  | i8 | u8 | i16 | u16 | i32 | u32 | i64 | u64 | e4m3 | e5m2 | bf16 | fp16 | fp32 | fp64 | e8m0 | mx8 | mx6 | mx4
  deriving DecidableEq, Repr

/-- The format of a code; none for a reserved code (R96). -/
def fmtOf : Nat → Option Fmt
  | 0 => some .i8 | 1 => some .u8 | 2 => some .i16 | 3 => some .u16 | 4 => some .i32 | 5 => some .u32
  | 6 => some .i64 | 7 => some .u64 | 8 => some .e4m3 | 9 => some .e5m2 | 10 => some .bf16 | 11 => some .fp16
  | 12 => some .fp32 | 13 => some .fp64 | 14 => some .e8m0 | 16 => some .mx8 | 17 => some .mx6 | 18 => some .mx4
  | _ => none

/-- The width of an element in bits (R97, R98, R101, R102). -/
def Fmt.bits : Fmt → Nat
  | .i8 | .u8 | .e4m3 | .e5m2 | .e8m0 | .mx8 => 8
  | .i16 | .u16 | .bf16 | .fp16 => 16
  | .i32 | .u32 | .fp32 => 32
  | .i64 | .u64 | .fp64 => 64
  | .mx6 => 6
  | .mx4 => 4

/-- Exponent and fraction widths of a binary floating-point format (R98); none for the others. -/
def Fmt.fp : Fmt → Option (Nat × Nat)
  | .e4m3 => some (4, 3) | .e5m2 => some (5, 2) | .bf16 => some (8, 7) | .fp16 => some (5, 10)
  | .fp32 => some (8, 23) | .fp64 => some (11, 52)
  | _ => none

/-- Whether an integer format is signed; none for the others (R97). -/
def Fmt.int : Fmt → Option Bool
  | .i8 | .i16 | .i32 | .i64 => some true
  | .u8 | .u16 | .u32 | .u64 => some false
  | _ => none

/-- The block formats (R102). -/
def Fmt.isMx : Fmt → Bool
  | .mx8 | .mx6 | .mx4 => true
  | _ => false

/-! ### Exact values -/

/-- An exact value: NaN, an infinity, or (-1)^neg · m · 2^e, so that zeros carry a sign. -/
inductive Num where
  | nan
  | inf (neg : Bool)
  | fin (neg : Bool) (m : Nat) (e : Int)
  deriving DecidableEq, Repr

/-- Decodes a floating-point pattern with w exponent and m fraction bits (R98). -/
def decodeFp (f : Fmt) (w m v : Nat) : Num :=
  let s := decide (v / 2 ^ (w + m) % 2 = 1)
  let e := v / 2 ^ m % 2 ^ w
  let f' := v % 2 ^ m
  let bias : Int := ((2 ^ (w - 1) : Nat) : Int) - 1
  let top := 2 ^ w - 1
  if f = .e4m3 ∧ e = top ∧ f' = 7 then .nan
  else if f ≠ .e4m3 ∧ e = top then (if f' = 0 then .inf s else .nan)
  else if e = 0 then .fin s f' (1 - bias - (m : Int))
  else .fin s (2 ^ m + f') ((e : Int) - bias - (m : Int))

/-- The exact value of an integer. -/
def numOfInt (i : Int) : Num := .fin (decide (i < 0)) i.natAbs 0

/-- The exact value of an element (R97, R98, R101). A block element is read under its scale by `decodeMx`. -/
def decodeNum (f : Fmt) (v : Nat) : Num :=
  match f.fp with
  | some (w, m) => decodeFp f w m v
  | none =>
    match f with
    | .e8m0 => if v % 256 = 255 then .nan else .fin false 1 ((v % 256 : Nat) - (127 : Int))
    | _ => match f.int with
      | some true => numOfInt (signed f.bits v)
      | some false => .fin false (v % 2 ^ f.bits) 0
      | none => numOfInt (signed f.bits v)

/-- R102: element v of a block of b bits under the scale k. -/
def decodeMx (b k v : Nat) : Num :=
  if k = 255 then .nan else .fin (decide (signed b v < 0)) (signed b v).natAbs ((k : Int) - 127 - ((b : Int) - 2))

/-- The canonical NaN pattern of a format (R98, R99). -/
def canonNan : Fmt → Nat
  | .e4m3 => 0x7F | .e5m2 => 0x7E | .bf16 => 0x7FC0 | .fp16 => 0x7E00 | .fp32 => 0x7FC00000
  | .fp64 => 0x7FF8000000000000 | .e8m0 => 0xFF
  | _ => 0

/-- The signed integer m · 2^(e - e0) of a finite value, for e0 ≤ e. -/
def scaleTo (neg : Bool) (m : Nat) (e e0 : Int) : Int :=
  let v : Int := ((m * 2 ^ (e - e0).toNat : Nat) : Int)
  if neg then -v else v

/-- A finite value from a signed integer times 2^e; a zero is positive. -/
def ofScaled (v : Int) (e : Int) : Num := .fin (decide (v < 0)) v.natAbs e

/-- Whether the value is a zero. -/
def Num.isZero : Num → Bool
  | .fin _ 0 _ => true
  | _ => false

/-- The sign bit of a value. -/
def Num.neg : Num → Bool
  | .nan => false
  | .inf s => s
  | .fin s _ _ => s

/-- The negation of a value. -/
def Num.negate : Num → Num
  | .nan => .nan
  | .inf s => .inf (!s)
  | .fin s m e => .fin (!s) m e

/-! ### Rounding -/

/-- The rounding modes (R108). -/
inductive RMode where
  | rne | rtz | rup | rdn | sr
  deriving DecidableEq, Repr

/-- The mode of an RM field; none for 101 to 111 (R108). -/
def rmodeOf : Nat → Option RMode
  | 0 => some .rne | 1 => some .rtz | 2 => some .rup | 3 => some .rdn | 4 => some .sr
  | _ => none

/-- The flags of R111. -/
abbrev StFlags := BitVec 7

/-- Bit [0] NV (R111). -/
def flNV : StFlags := 1
/-- Bit [1] DZ. -/
def flDZ : StFlags := 2
/-- Bit [2] OF. -/
def flOF : StFlags := 4
/-- Bit [3] UF. -/
def flUF : StFlags := 8
/-- Bit [4] NX. -/
def flNX : StFlags := 16
/-- Bit [5] SAT. -/
def flSAT : StFlags := 32

/-- floor(log2 (num / den)) for num, den > 0. -/
def ilog2 (num den : Nat) : Int :=
  let l : Int := (Nat.log2 num : Int) - (Nat.log2 den : Int)
  -- num / den lies in (2^(l-1), 2^(l+1))
  let ok := if 0 ≤ l then den * 2 ^ l.toNat ≤ num else den ≤ num * 2 ^ (-l).toNat
  if ok then l else l - 1

/-- The integer chosen between fl and fl + 1, where x is (fl · den + rem) / den grid steps (R109). Returns the choice. -/
def chooseGrid (fl : Int) (rem den : Nat) (stk : Bool) (mode : RMode) (rnd : Nat) : Int :=
  let lowIsZ := decide (0 ≤ fl)
  match mode with
  | .rtz => if lowIsZ then fl else fl + 1
  | .rup => fl + 1
  | .rdn => fl
  | .rne =>
    if 2 * rem < den then fl
    else if den < 2 * rem then fl + 1
    else if stk then fl + 1
    else if fl % 2 = 0 then fl else fl + 1
  | .sr =>
    let dist := if lowIsZ then rem else den - rem
    let t := dist * 2 ^ 32 / den
    if lowIsZ then (if rnd < t then fl + 1 else fl) else (if rnd < t then fl else fl + 1)

/-- Largest finite magnitude of a floating-point format as a multiple of a power of two (R98). -/
def maxFin : Fmt → Nat × Int
  | .e4m3 => (7, 6)
  | .e5m2 => (7, 13)
  | .bf16 => (2 ^ 8 - 1, 120)
  | .fp16 => (2 ^ 11 - 1, 5)
  | .fp32 => (2 ^ 24 - 1, 104)
  | _ => (2 ^ 53 - 1, 971)

/-- m1 · 2^e1 < m2 · 2^e2. -/
def magLt (m1 : Nat) (e1 : Int) (m2 : Nat) (e2 : Int) : Bool :=
  if e1 ≤ e2 then decide (m1 < m2 * 2 ^ (e2 - e1).toNat) else decide (m1 * 2 ^ (e1 - e2).toNat < m2)

/-- The pattern of the largest finite magnitude (R98). -/
def maxFinBits : Fmt → Nat
  | .e4m3 => 0x7E | .e5m2 => 0x7B | .bf16 => 0x7F7F | .fp16 => 0x7BFF | .fp32 => 0x7F7FFFFF
  | _ => 0x7FEFFFFFFFFFFFFF

/-- The pattern of +Inf (R98); E4M3 has none and gives its NaN. -/
def infBits : Fmt → Nat
  | .e4m3 => 0x7F | .e5m2 => 0x7C | .bf16 => 0x7F80 | .fp16 => 0x7C00 | .fp32 => 0x7F800000
  | _ => 0x7FF0000000000000

/-- Sets the sign bit of a pattern of n bits. -/
def withSign (neg : Bool) (n v : Nat) : Nat := if neg then v + 2 ^ (n - 1) else v

/-- The pattern of ±m · 2^e, which is on the grid and in range, in a format with w exponent and fb fraction bits. -/
def encodeFp (w fb : Nat) (neg : Bool) (m : Nat) (e : Int) : Nat :=
  let bias : Int := ((2 ^ (w - 1) : Nat) : Int) - 1
  let emin := 1 - bias
  let body :=
    if m = 0 then 0
    else
      let l := Nat.log2 m
      let eo : Int := (l : Int) + e
      if eo < emin then m * 2 ^ (e - (emin - (fb : Int))).toNat
      else
        let frac := if fb ≤ l then m / 2 ^ (l - fb) else m * 2 ^ (fb - l)
        (eo + bias).toNat * 2 ^ fb + (frac - 2 ^ fb)
  withSign neg (1 + w + fb) body

/-- R110: a finite value that overflowed, by mode. -/
def overflowBits (f : Fmt) (neg : Bool) (mode : RMode) : Nat :=
  let sat : Bool := match mode with
    | .rtz => true
    | .rup => neg
    | .rdn => !neg
    | _ => false
  if decide (f = .e4m3) || decide (f = .e5m2) || sat then withSign neg f.bits (maxFinBits f) else withSign neg f.bits (infBits f)

/-- RoundTo of the finite value (-1)^neg · num / den (R109, R110) into a binary floating-point format; subnormals are kept (R100). -/
def roundFp (f : Fmt) (w fb : Nat) (neg : Bool) (num den : Nat) (stk : Bool) (mode : RMode) (rnd : Nat) : Nat × StFlags :=
  let bias : Int := ((2 ^ (w - 1) : Nat) : Int) - 1
  let emin := 1 - bias
  let j0 : Int := if num = 0 then emin else ilog2 num den
  -- a negative power of two with stk has its upper neighbour in the binade below
  let isPow := decide (if 0 ≤ j0 then num = den * 2 ^ j0.toNat else num * 2 ^ (-j0).toNat = den)
  let j := if neg && stk && isPow then j0 - 1 else j0
  let qe := max j emin - (fb : Int)
  -- x / 2^qe as a rational
  let n' := if 0 ≤ qe then num else num * 2 ^ (-qe).toNat
  let d' := if 0 ≤ qe then den * 2 ^ qe.toNat else den
  let sn : Int := if neg then -(n' : Int) else n'
  let fl := Int.fdiv sn d'
  let rem := (Int.fmod sn d').toNat
  let exact := decide (rem = 0) && !stk
  let y := if exact then fl else chooseGrid fl rem d' stk mode rnd
  let yneg := if y = 0 then neg else decide (y < 0)
  let (mm, me) := maxFin f
  if magLt mm me y.natAbs qe then (overflowBits f yneg mode, flOF ||| flNX)
  else
    let small := magLt y.natAbs qe 1 emin
    (encodeFp w fb yneg y.natAbs qe,
      (if exact then 0 else flNX) ||| (if !exact && small then flUF else 0))

/-- RoundTo of a finite value onto the integers in [lo, hi], clamping (R109, R110). -/
def roundIntTo (lo hi : Int) (neg : Bool) (num den : Nat) (stk : Bool) (mode : RMode) (rnd : Nat) : Int × StFlags :=
  let sn : Int := if neg then -(num : Int) else num
  let fl := Int.fdiv sn den
  let rem := (Int.fmod sn den).toNat
  let exact := decide (rem = 0) && !stk
  let y := if exact then fl else chooseGrid fl rem den stk mode rnd
  if hi < y then (hi, flSAT ||| flNX)
  else if y < lo then (lo, flSAT ||| flNX)
  else (y, if exact then 0 else flNX)

/-- The range of an integer format or of a quantised block element (R97, R110). -/
def intRange (f : Fmt) : Int × Int :=
  match f.int with
  | some true => (-((2 ^ (f.bits - 1) : Nat) : Int), ((2 ^ (f.bits - 1) : Nat) : Int) - 1)
  | some false => (0, ((2 ^ f.bits : Nat) : Int) - 1)
  | none => (-(((2 ^ (f.bits - 1) : Nat) : Int) - 1), ((2 ^ (f.bits - 1) : Nat) : Int) - 1)

/-- R119: conversion of a positive finite value to E8M0. -/
def roundE8 (num den : Nat) (stk : Bool) (mode : RMode) (rnd : Nat) : Nat × StFlags :=
  let j := ilog2 num den
  let n' := if 0 ≤ j then num else num * 2 ^ (-j).toNat
  let d' := if 0 ≤ j then den * 2 ^ j.toNat else den
  let rem := n' - d'
  let exact := decide (rem = 0) && !stk
  let up := match mode with
    | .rtz | .rdn => false
    | .rup => true
    | .rne => if 2 * rem < d' then false else if d' < 2 * rem then true else if stk then true
        else decide ((j + 127) % 2 ≠ 0)
    | .sr => decide (rnd < rem * 2 ^ 32 / d')
  let y := if exact then j else if up then j + 1 else j
  if 127 < y then (0xFE, flOF ||| flNX)
  else if y < -127 then (0x00, flUF ||| flNX)
  else ((y + 127).toNat, if exact then 0 else flNX)

/-- RoundTo of (-1)^neg · num / den into any format but a block element (R109, R110, R119). -/
def roundRat (f : Fmt) (neg : Bool) (num den : Nat) (stk : Bool) (mode : RMode) (rnd : Nat) : Nat × StFlags :=
  match f.fp with
  | some (w, fb) => roundFp f w fb neg num den stk mode rnd
  | none =>
    if f = .e8m0 then
      (if neg || decide (num = 0) then (0xFF, flNV) else roundE8 num den stk mode rnd)
    else
      let (lo, hi) := intRange f
      let (y, fl) := roundIntTo lo hi neg num den stk mode rnd
      (unsign f.bits y, fl)

/-- R109: RoundTo, with the special operands of R110, R118 and R119. A NaN converted to E8M0 sets NV by R119, from E8M0 as well, where R221
says that a cvt with SFMT = DFMT sets no flag and that E8M0 destinations follow R119 (DEDUCED, entry 25). -/
def roundTo (x : Num) (stk : Bool) (f : Fmt) (mode : RMode) (rnd : Nat) : Nat × StFlags :=
  match x with
  | .nan =>
    match f.fp with
    | some _ => (canonNan f, 0)
    | none => if f = .e8m0 then (0xFF, flNV) else (0, flNV)
  | .inf s =>
    match f.fp with
    | some _ => if f = .e4m3 then (0x7F, flNV) else (withSign s f.bits (infBits f), 0)
    | none =>
      if f = .e8m0 then (0xFF, flNV)
      else
        let (lo, hi) := intRange f
        (unsign f.bits (if s then lo else hi), flSAT ||| flNX)
  | .fin s m e =>
    if 0 ≤ e then roundRat f s (m * 2 ^ e.toNat) 1 stk mode rnd else roundRat f s m (2 ^ (-e).toNat) stk mode rnd

/-! ### Arithmetic (R113, R114) -/

/-- The exact sum with the zero signs of R114; the flag is NV for ∞ - ∞. -/
def addNum (mode : RMode) (a b : Num) : Num × StFlags :=
  match a, b with
  | .nan, _ => (.nan, 0)
  | _, .nan => (.nan, 0)
  | .inf s, .inf t => if s = t then (.inf s, 0) else (.nan, flNV)
  | .inf s, _ => (.inf s, 0)
  | _, .inf t => (.inf t, 0)
  | .fin s m e, .fin t n f =>
    let e0 := min e f
    let v := scaleTo s m e e0 + scaleTo t n f e0
    if v = 0 then
      (if m = 0 ∧ n = 0 ∧ s = t then .fin s 0 0 else .fin (decide (mode = .rdn)) 0 0, 0)
    else (ofScaled v e0, 0)

/-- The exact product; the flag is NV for 0 × ∞. -/
def mulNum (a b : Num) : Num × StFlags :=
  match a, b with
  | .nan, _ => (.nan, 0)
  | _, .nan => (.nan, 0)
  | .inf s, .inf t => (.inf (s != t), 0)
  | .inf s, .fin t n _ => if n = 0 then (.nan, flNV) else (.inf (s != t), 0)
  | .fin s m _, .inf t => if m = 0 then (.nan, flNV) else (.inf (s != t), 0)
  | .fin s m e, .fin t n f => (.fin (s != t) (m * n) (e + f), 0)

/-- Rounds a value computed with flags already raised. -/
def roundOp (r : Num × StFlags) (f : Fmt) (mode : RMode) (rnd : Nat) : Nat × StFlags :=
  let q := roundTo r.1 false f mode rnd
  (q.1, q.2 ||| r.2)

/-- a + b rounded (R113). -/
def fAdd (f : Fmt) (mode : RMode) (rnd a b : Nat) : Nat × StFlags :=
  roundOp (addNum mode (decodeNum f a) (decodeNum f b)) f mode rnd

/-- a - b rounded (R114). -/
def fSub (f : Fmt) (mode : RMode) (rnd a b : Nat) : Nat × StFlags :=
  roundOp (addNum mode (decodeNum f a) (decodeNum f b).negate) f mode rnd

/-- a × b rounded (R113). -/
def fMul (f : Fmt) (mode : RMode) (rnd a b : Nat) : Nat × StFlags :=
  roundOp (mulNum (decodeNum f a) (decodeNum f b)) f mode rnd

/-- a × b + c (or -(a × b) + c) with one rounding (R113, R114). A NaN operand sets no flag. -/
def fFma (negp : Bool) (f : Fmt) (mode : RMode) (rnd a b c : Nat) : Nat × StFlags :=
  let x := decodeNum f a
  let y := decodeNum f b
  let z := decodeNum f c
  if x = .nan ∨ y = .nan ∨ z = .nan then (canonNan f, 0)
  else
    let p := mulNum x y
    let q := if negp then p.1.negate else p.1
    let r := addNum mode q z
    roundOp (r.1, p.2 ||| r.2) f mode rnd

/-- a / b rounded (R113). -/
def fDiv (f : Fmt) (mode : RMode) (rnd a b : Nat) : Nat × StFlags :=
  match decodeNum f a, decodeNum f b with
  | .nan, _ => (canonNan f, 0)
  | _, .nan => (canonNan f, 0)
  | .inf _, .inf _ => (canonNan f, flNV)
  | .inf s, .fin t _ _ => roundTo (.inf (s != t)) false f mode rnd
  | .fin s _ _, .inf t => roundTo (.fin (s != t) 0 0) false f mode rnd
  | .fin s m e, .fin t n g =>
    if n = 0 then
      (if m = 0 then (canonNan f, flNV)
       else
        let r := roundTo (.inf (s != t)) false f mode rnd
        (r.1, r.2 ||| flDZ))
    else
      let d := e - g
      if 0 ≤ d then roundRat f (s != t) (m * 2 ^ d.toNat) n false mode rnd
      else roundRat f (s != t) m (n * 2 ^ (-d).toNat) false mode rnd

/-- The integer square root, by bits from the highest. -/
def isqrtStep (n : Nat) : Nat → Nat → Nat
  | 0, r => r
  | k + 1, r => let c := r + 2 ^ k; isqrtStep n k (if c * c ≤ n then c else r)

/-- floor(sqrt n). -/
def isqrt (n : Nat) : Nat := isqrtStep n (Nat.log2 n / 2 + 1) 0

/-- sqrt a rounded (R113, R114): the exact root to 160 bits with stk for the rest. -/
def fSqrt (f : Fmt) (mode : RMode) (rnd a : Nat) : Nat × StFlags :=
  match decodeNum f a with
  | .nan => (canonNan f, 0)
  | .inf s => if s then (canonNan f, flNV) else roundTo (.inf false) false f mode rnd
  | .fin s m e =>
    if m = 0 then roundTo (.fin s 0 0) false f mode rnd
    else if s then (canonNan f, flNV)
    else
      let (m', e') := if e % 2 = 0 then (m, e) else (2 * m, e - 1)
      let n := m' * 2 ^ 320
      let r := isqrt n
      roundTo (.fin false r (e' / 2 - 160)) (decide (r * r ≠ n)) f mode rnd

/-- Numerical order of two non-NaN values: a < b, zeros equal. -/
def ltNum (a b : Num) : Bool :=
  match a, b with
  | .nan, _ => false
  | _, .nan => false
  | .inf s, .inf t => s && !t
  | .inf s, .fin .. => s
  | .fin .., .inf t => !t
  | .fin s m e, .fin t n f =>
    let e0 := min e f
    decide (scaleTo s m e e0 < scaleTo t n f e0)

/-- Numerical equality of two non-NaN values, zeros equal. -/
def eqNum (a b : Num) : Bool :=
  match a, b with
  | .nan, _ => false
  | _, .nan => false
  | .inf s, .inf t => s == t
  | .fin s m e, .fin t n f =>
    let e0 := min e f
    decide (scaleTo s m e e0 = scaleTo t n f e0)
  | _, _ => false

/-! ### Sums in a fixed order (R121) -/

/-- One level of TreeSum: neighbours combine. -/
def pairUp {α : Type} (add : α → α → α) : List α → List α
  | a :: b :: r => add a b :: pairUp add r
  | l => l

/-- TreeSum of 2^n values (R121). -/
def treeFold {α : Type} (add : α → α → α) : Nat → List α → List α
  | 0, l => l
  | n + 1, l => treeFold add n (pairUp add l)

/-- An addition that carries the flags of both operands. -/
def addFlagged (f : Fmt) (mode : RMode) (a b : Nat × StFlags) : Nat × StFlags :=
  let r := fAdd f mode 0 a.1 b.1
  (r.1, r.2 ||| a.2 ||| b.2)

/-- SeqSum (R121). -/
def seqFold {α : Type} (add : α → α → α) (d : α) : List α → α
  | [] => d
  | a :: r => r.foldl add a

/-- R116: conversion of an element between formats other than block formats. -/
def convert (p q : Fmt) (mode : RMode) (rnd v : Nat) : Nat × StFlags := roundTo (decodeNum p v) false q mode rnd

end Sys2Proof.Machine
end

