-- ==== Sys2Proof/Machine/Mem.lean ====
section
/-! DEFINITION. Memory: windows and their wrap (R66), translation and the physical map (R70, R71), die caches with dirty masks,
poison and the undo log (R86, R87, R330, R348), held lines and read sets of speculative tasks (R325, R326), ACC deltas (R316),
the atomics (R164, R165), and reading and writing the bytes of a location (R64). -/

namespace Sys2Proof.Machine

/-! ### Windows -/

/-- R14, R26: a window of a tile; one of index at or above NWIN has size 0. -/
def Tile.window (t : Tile) (w : Nat) : Window := t.windows.getD w ⟨0, 0⟩

/-- R66: the SPM address of a byte of a window; none in a window of size 0. -/
def Window.addr (w : Window) (off : Nat) : Option Nat :=
  if w.size = 0 then none else some (w.base + wrapWindow (off % 2 ^ 64) w.size)

/-- R66: the SPM addresses of n bytes of a window. -/
def Window.addrs (w : Window) (off n : Nat) : List (Option Nat) := (List.range n).map (fun i => w.addr (off + i))

/-- Reads SPM bytes; a byte of a window of size 0 reads as zero (R66). -/
def Tile.readSpm (t : Tile) (as : List (Option Nat)) : List Byte :=
  as.map (fun a => match a with | some x => readByte t.spm x | none => 0)

/-- R239: notes a write to SPM bytes: a valid latch that was loaded from one of them is cleared at the end of the cycle. -/
def Mx.note (m : Mx) (as : List (Option Nat)) : Mx :=
  let hit := fun (x : Latch) => x.lv && as.any (fun a => a.isSome && x.src.contains a)
  { m with staleA := m.staleA || hit m.a, staleB := m.staleB || hit m.b }

/-- Writes SPM bytes; a byte of a window of size 0 is discarded (R66). -/
def Tile.writeSpm (t : Tile) (ps : List (Option Nat × Byte)) : Tile :=
  { t with spm := ps.foldl (fun m p => match p.1 with | some x => writeByte m x p.2 | none => m) t.spm,
           mx := t.mx.note (ps.map (·.1)) }

/-- Bytes read at addresses, each of which a write may replace by its own, as `pick` says (R240, R260). -/
def mixBytes (src : List (Option Nat)) (bs : List Byte) (ps : List (Option Nat × Byte)) (pick : Nat → Bool) : List Byte :=
  bs.zipIdx.map (fun b => match src.getD b.2 none with
    | none => b.1
    | some a => if pick a then ((ps.reverse.find? (fun p => p.1 == some a)).map (·.2)).getD b.1 else b.1)

/-- The same for rows of bytes, whose addresses follow one another. -/
def mixRows (src : List (Option Nat)) (ps : List (Option Nat × Byte)) (pick : Nat → Bool) : List (List Byte) → List (List Byte)
  | [] => []
  | r :: rs => mixBytes src r ps pick :: mixRows (src.drop r.length) ps pick rs

/-- R240: a write by an agent outside the tile may be read in place of an operand's bytes, data and scales, chosen per byte. -/
def Latch.mix (x : Latch) (ps : List (Option Nat × Byte)) (pick : Nat → Bool) : Latch :=
  { x with rows := mixRows x.src ps pick x.rows, scales := mixRows (x.src.drop (x.rows.map List.length).sum) ps pick x.scales }

/-- R260: a write by an agent outside the tile in the issue cycle of an rload may be read in its place, chosen per byte. -/
def AccPending.mix (p : AccPending) (now : Nat) (ps : List (Option Nat × Byte)) (pick : Nat → Bool) : AccPending :=
  match p with
  | .rload d as bs issued due => if issued = now then .rload d as (mixBytes as bs ps pick) issued due else p
  | p => p

/-- R240, R260: a write from outside the tile into the bytes of matrix operations inside their read span, and of an rload. -/
def Tile.writeOutside (t : Tile) (now free : Nat) (ps : List (Option Nat × Byte)) : Tile :=
  let pick := fun (a : Nat) => Config.choice (free + a)
  let flights := t.mx.flights.map (fun (f : MxFlight) =>
    if now ≤ f.spanEnd ∧ f.bytes.any (fun a => ps.any (fun p => p.1 == some a)) then
      { f with a := if bit f.word 4 then f.a else f.a.mix ps pick, b := if bit f.word 5 then f.b else f.b.mix ps pick }
    else f)
  let pend := t.vu.accPend.map (fun p => p.mix now ps pick)
  Tile.writeSpm { t with mx := { t.mx with flights := flights }, vu := { t.vu with accPend := pend } } ps

/-- R68: a tile holds a live task of a context. -/
def State.liveFor (s : State) (c l : Nat) : Bool := (s.tile l).live && !(s.tile l).fenced && (s.tile l).owner.any (fun o => o.1 == c)

/-- The context and task of a tile; context 0 where it has none. -/
def State.ctxOf (s : State) (l : Nat) : Nat := match (s.tile l).owner with | some o => o.1 | none => 0

/-! ### Tasks -/

/-- A task of a context by its identity. -/
def Context.task? (x : Context) (uid : Nat) : Option Task := x.tasks.find? (fun t => t.uid == uid)

/-- Changes a task of a context. -/
def Context.modTask (x : Context) (uid : Nat) (f : Task → Task) : Context :=
  { x with tasks := x.tasks.map (fun t => if t.uid = uid then f t else t) }

/-- The task on a tile. -/
def State.taskOn (s : State) (l : Nat) : Option Task :=
  match (s.tile l).owner with
  | some o => (s.ctx o.1).task? o.2
  | none => none

/-- The task is over. -/
def TaskState.over (x : TaskState) : Bool := x == .retired || x == .aborted

/-- R325, R327: a task is speculative until it commits; after 8 aborts it runs as though SPEC were 0. -/
def Task.speculating (t : Task) : Bool := t.spec && !t.committed && decide (t.aborts < 8)

/-- The task on a tile is speculative. -/
def State.speculates (s : State) (l : Nat) : Bool := (s.taskOn l).any Task.speculating

/-- R27, R305: the order key of a task, compared field by field. -/
def Task.keyBelow (p t : Task) : Bool :=
  decide (p.kid < t.kid) || (decide (p.kid = t.kid) && (decide (p.ts.toNat < t.ts.toNat) ||
    (decide (p.ts = t.ts) && decide (p.taskid < t.taskid))))

/-! ### Translation (R71) -/

/-- The physical address of a virtual byte of a context; none where no valid translation covers it. -/
def Context.translate (x : Context) (va : Nat) : Option Nat :=
  (x.xlates.find? (fun e => decide (e.va ≤ va) && decide (va < e.va + e.size))).map (fun e => e.pa + (va - e.va))

/-- The 2 MiB units of virtual addresses that a range touches. -/
def units2M (va n : Nat) : List Nat :=
  if n = 0 then [] else (List.range ((va + n - 1) / 2 ^ 21 + 1 - va / 2 ^ 21)).map (fun i => (va / 2 ^ 21 + i) * 2 ^ 21)

/-- The page of 2 MiB or 1 GiB that holds a virtual byte, as base and size; 2 MiB where it is not translated. -/
def Context.pageOf (x : Context) (va : Nat) : Nat × Nat :=
  match x.xlates.find? (fun e => decide (e.va ≤ va) && decide (va < e.va + e.size)) with
  | some e => (e.va, e.size)
  | none => (va / 2 ^ 21 * 2 ^ 21, 2 ^ 21)

/-- The pages that a range touches. -/
def Context.pagesOf (x : Context) (va n : Nat) : List (Nat × Nat) := ((units2M va n).map x.pageOf).dedup

/-- The pages of the registered images of a context (R399). -/
def Context.imagePages (x : Context) : List (Nat × Nat) := (x.images.flatMap (fun i => x.pagesOf i.base (max 1 i.size))).dedup

/-- A range touches one of some pages. -/
def touchesPage (pages : List (Nat × Nat)) (va n : Nat) : Bool := pages.any (fun p => overlap p (va, n))

/-- The reserved range of physical addresses (R71). -/
def reservedPa (pa : Nat) : Bool := decide (0x00C000000000 ≤ pa) && decide (pa < 0x800000000000)

/-- The 128-byte line of an address. -/
def lineOf (a : Nat) : Nat := a / 128

/-! ### The stacks behind a physical address (R340 to R342, R351) -/

/-- R4: so many nanoseconds have passed since a moment. -/
def State.elapsed (s : State) (since ns : Nat) : Bool := decide (since + 342 * ns ≤ s.time)

/-- The bytes of HBM (R406). -/
def hbmSize : Nat := 0xC000000000

/-- StackMap (R341): the stack and the stack-local address of a physical HBM address. -/
def State.stackMap (s : State) (a : Nat) : Nat × Nat :=
  let n := a / 2 ^ 30
  let o := a % 2 ^ 30
  if bit (mget s.wintab n 0) 0 then (n % 16, n / 16 * 2 ^ 30 + o)
  else (a / 2 ^ 12 % 16, n * 2 ^ 26 + o / 2 ^ 16 * 2 ^ 12 + a % 2 ^ 12)

/-- The place of a byte in its stack (R342); `column` counts 128-byte units of the row, or 64-byte units under PCL = 1. -/
structure BankPlace where
  stack : Nat
  channel : Nat
  pc : Nat
  bank : Nat
  column : Nat
  row : Nat
  deriving DecidableEq, Repr

/-- R342: channel, pseudo-channel, bank, column and row of a physical HBM address. -/
def State.bankPlace (s : State) (a : Nat) : BankPlace :=
  let p := s.stackMap a
  let v := p.2
  let locked := bit (mget s.wintab (a / 2 ^ 30) 0) 2
  { stack := p.1, channel := v / 2 ^ 7 % 32, pc := if locked then v / 2 ^ 5 % 2 else v / 2 ^ 12 % 2, bank := v / 2 ^ 13 % 16,
    column := if locked then 2 * (v / 2 ^ 17 % 8) + v / 2 ^ 12 % 2 else v / 2 ^ 17 % 8, row := v / 2 ^ 20 }

/-- The bank number within its stack (R339). -/
def BankPlace.number (b : BankPlace) : Nat := 32 * b.channel + 16 * b.pc + b.bank

/-- R351: a line lies wholly or partly in a fenced pseudo-channel. -/
def State.lineFenced (s : State) (pl : Nat) : Bool :=
  decide (pl * 128 < hbmSize) && [0, 32].any (fun o =>
    let b := s.bankPlace (pl * 128 + o)
    ((s.hbm.toList[b.stack]?).map Stack.fenced).any (fun f => f.contains (2 * b.channel + b.pc)))

/-- R351: a page touches a fenced pseudo-channel; its first 128 KiB lie in every pseudo-channel that it reaches (R341, R342). -/
def State.pageFenced (s : State) (pa : Nat) : Bool :=
  s.hbm.toList.any (fun k => !k.fenced.isEmpty) && (List.range 1024).any (fun i => s.lineFenced (lineOf pa + i))

/-- R348, R351: a read of a line meets poison. -/
def State.linePoison (s : State) (pl : Nat) : Bool := s.poison.contains pl || s.lineFenced pl

/-- A stack by number. -/
def State.stack (s : State) (n : Fin 16) : Stack := s.hbm[n.val]

/-- Changes a stack. -/
def State.modStack (s : State) (n : Fin 16) (f : Stack → Stack) : State := { s with hbm := s.hbm.set n.val (f s.hbm[n.val]) n.isLt }

/-- The counts that Stag keeps per die (R421). -/
inductive Count where
  | clockStep | corrected | rowAlert | linkReplay
  deriving DecidableEq, Repr

/-- The key of a count in the telemetry of the package. -/
def Count.key (x : Count) (d : Nat) : Nat := 4 * d + (match x with | .clockStep => 0 | .corrected => 1 | .rowAlert => 2 | .linkReplay => 3)

/-- Counts one event of a die. -/
def State.count (s : State) (x : Count) (d : Nat) : State :=
  { s with telemetry := mput s.telemetry (x.key d) (mget s.telemetry (x.key d) 0 + 1) }

/-! ### Errors at home (R347, R348) -/

/-- R348: an uncorrectable atom poisons its line; a cached copy of it that is not wholly dirty carries the mark, so that no load gets
stale bytes of a poisoned line. -/
def State.poisonLine (s : State) (pl : Nat) : State :=
  { s with
    poison := if s.poison.contains pl then s.poison else s.poison ++ [pl],
    dies := s.dies.map (fun d => match mfind d.cache pl with
      | some x => if x.dirty = BitVec.allOnes 128 then d else { d with cache := mput d.cache pl { x with poison := true } }
      | none => d) }

/-- R347: a code word of 32 bytes is read at home: a correctable error is corrected and counted, an uncorrectable one poisons its line.
An error met is no longer latent. A fenced pseudo-channel takes no read (R351). -/
def State.readWord32 (s : State) (w : Nat) : State :=
  match mfind s.latent w with
  | none => s
  | some e =>
    if s.lineFenced (w / 4) then s
    else
      let s := { s with latent := mdel s.latent w }
      let p := s.bankPlace (w * 32)
      let key := 2 * p.channel + p.pc
      match e with
      | .clean => s
      | .corrected => (s.modStack (Fin.ofNat 16 p.stack) (fun k => { k with corrected := mput k.corrected key (mget k.corrected key 0 + 1) })).count
          .corrected (p.stack % 16 / 2)
      | .uncorrectable => s.poisonLine (w / 4)

/-- A line is read at home (R347). -/
def State.readHome (s : State) (pl : Nat) : State := (List.range 4).foldl (fun s i => s.readWord32 (4 * pl + i)) s

/-- R343: the code words of an atom of a line: one, or two in a window with PCL = 1. -/
def State.atomWords (s : State) (pl : Nat) : Nat := if bit (mget s.wintab (pl * 128 / 2 ^ 30) 0) 2 then 2 else 1

/-- Bytes of a line are written at home, at offsets within it: an atom written whole loses its errors, and one written in part is read first,
with all its code words (R343, R347). -/
def State.writeErrors (s : State) (pl : Nat) (offs : List Nat) : State :=
  let k := s.atomWords pl
  (List.range (4 / k)).foldl (fun s i =>
    let n := (offs.filter (fun o => o / (32 * k) == i)).length
    if n = 0 then s
    else (List.range k).foldl (fun s j =>
      let w := 4 * pl + k * i + j
      if n = 32 * k then { s with latent := mdel s.latent w } else s.readWord32 w) s) s

/-! ### Home and the undo log (R330, R348) -/

/-- The 128 bytes of a physical line at home. -/
def State.homeLine (s : State) (pl : Nat) : Vec := bytesVec (readRange s.mem (pl * 128) 128)

/-- R330: before the first write at home to a line since the boundary of a context, its old bytes are recorded. The record of a poisoned line is
poisoned (R348; DEDUCED, entry 30). -/
def State.logLine (s : State) (c pl : Nat) : State :=
  if (s.ctx c).log.any (fun r => r.1 == pl) then s
  else
    let s := s.readHome pl
    s.modCtx c (fun x =>
      { x with log := (pl, s.homeLine pl) :: x.log, logPoison := if s.linePoison pl then pl :: x.logPoison else x.logPoison })

/-- Writes bytes of one physical line at home for contexts, in whose logs the line goes, at offsets within the line; a write of all 128
bytes clears the poison mark (R348); a write to a fenced pseudo-channel is discarded (R351). -/
def State.homeWrite (s : State) (cs : List Nat) (pl : Nat) (ps : List (Nat × Byte)) : State :=
  if s.lineFenced pl then s
  else
    let s := (cs.foldl (fun s c => s.logLine c pl) s).writeErrors pl (ps.map (·.1))
    { s with mem := writeBlock s.mem (pl * 128) 128 ps,
             poison := if ps.length = 128 then s.poison.filter (fun q => q != pl) else s.poison }

/-- Writes bytes at home by physical address, through the undo logs of some contexts (R330). -/
def State.homeBytes (s : State) (cs : List Nat) (ps : List (Nat × Byte)) : State :=
  ((ps.map (fun p => lineOf p.1)).dedup).foldl
    (fun s pl => s.homeWrite cs pl ((ps.filter (fun p => lineOf p.1 == pl)).map (fun p => (p.1 % 128, p.2)))) s

/-! ### Die caches (R86, R87) -/

/-- A die of the package. -/
def State.die (s : State) (d : Fin 8) : Die := s.dies[d.val]

/-- Changes a die. -/
def State.modDie (s : State) (d : Fin 8) (f : Die → Die) : State := { s with dies := s.dies.set d.val (f s.dies[d.val]) d.isLt }

/-- A cached line; the line at home where it is not cached. -/
def State.line (s : State) (d : Fin 8) (pl : Nat) : Line :=
  match mfind (s.die d).cache pl with
  | some x => x
  | none => ⟨s.homeLine pl, 0, s.linePoison pl, [], []⟩

/-- The offsets and values of the bytes of a line that a mask selects. -/
def maskedBytes (data : Vec) (mask : BitVec 128) : List (Nat × Byte) :=
  ((List.range 128).filter (fun i => bit mask i)).map (fun i => (i, BitVec.ofNat 8 (lane 8 data i)))

/-- Puts bytes of a line into its data and its mask. -/
def patch (data : Vec) (mask : BitVec 128) (ps : List (Nat × Byte)) : Vec × BitVec 128 :=
  let bs := vecBytes data
  (bytesVec ((List.range 128).map (fun i => ((ps.reverse.find? (fun p => p.1 == i)).map (·.2)).getD (bs.getD i 0))),
   ps.foldl (fun m p => m ||| (1#128 <<< p.1)) mask)

/-- R87: writes the dirty bytes of a cached line home; the line stays valid and clean. A write-back of all 128 bytes leaves no poison (R348). R87 lets the bytes of two dies' write-backs mix
one by one; here a write-back takes all dirty bytes of its line in one step (DESIGN CHOICE, entry 24). -/
def State.writeBack (s : State) (d : Fin 8) (pl : Nat) : State :=
  match mfind (s.die d).cache pl with
  | none => s
  | some x =>
    if x.dirty = 0 then s
    else (s.homeWrite x.writers pl (maskedBytes x.data x.dirty)).modDie d (fun e =>
      let y := (mfind e.cache pl).getD x
      { e with cache := mput e.cache pl { y with dirty := 0, writers := [], poison := y.poison && x.dirty != BitVec.allOnes 128 } })

/-- R86: writes a line's dirty bytes home and drops the line. -/
def State.dropLine (s : State) (d : Fin 8) (pl : Nat) : State :=
  (s.writeBack d pl).modDie d (fun e => { e with cache := mdel e.cache pl })

/-- The lines of a die cache of 48 MiB (R1). -/
def cacheLines : Nat := 393216

/-- R87: a full die cache gives up a line, chosen freely (log entry 7). -/
def State.makeRoom (s : State) (d : Fin 8) : State :=
  let ls := (s.die d).cache
  if ls.length < cacheLines then s
  else { s.dropLine d (((ls[Config.value s.free % ls.length]?).map (·.1)).getD 0) with free := s.free + 1 }

/-- Brings a line into a die cache from home for a context, with its poison mark (R87, R347, R348). -/
def State.fill (s : State) (d : Fin 8) (c pl : Nat) : State :=
  match mfind (s.die d).cache pl with
  | some x => if x.ctxs.contains c then s else s.modDie d (fun e => { e with cache := mput e.cache pl { x with ctxs := c :: x.ctxs } })
  | none =>
    let s := (s.makeRoom d).readHome pl
    s.modDie d (fun x => { x with cache := mput x.cache pl ⟨s.homeLine pl, 0, s.linePoison pl, [c], []⟩ })

/-- The physical lines that a virtual range touches; untranslated ones are left out. -/
def Context.lines (x : Context) (va n : Nat) : List Nat :=
  if n = 0 then [] else
  ((List.range (lineOf (va + n - 1) + 1 - lineOf va)).filterMap (fun k => (x.translate ((lineOf va + k) * 128)).map lineOf))

/-- R86: a release on a range: write-back of its lines; they stay valid and clean. -/
def State.releaseRange (s : State) (d : Fin 8) (c va n : Nat) : State :=
  ((s.ctx c).lines va n).foldl (fun s pl => s.writeBack d pl) s

/-- R86: an acquire on a range: write-back and drop of its lines. -/
def State.acquireRange (s : State) (d : Fin 8) (c va n : Nat) : State :=
  ((s.ctx c).lines va n).foldl (fun s pl => s.dropLine d pl) s

/-- Writes bytes of one line into a die cache; a write of all 128 bytes leaves no poison. -/
def State.cacheWrite (s : State) (d : Fin 8) (c pl : Nat) (ps : List (Nat × Byte)) : State :=
  let s := s.fill d c pl
  let x := s.line d pl
  let r := patch x.data x.dirty ps
  let y : Line := ⟨r.1, r.2, x.poison && decide (ps.length < 128), x.ctxs, if x.writers.contains c then x.writers else c :: x.writers⟩
  s.modDie d (fun e => { e with cache := mput e.cache pl y })

/-! ### Held lines of speculative tasks (R325) -/

/-- Writes bytes of one line into the held lines of a task. -/
def Die.hold (d : Die) (c uid pl : Nat) (ps : List (Nat × Byte)) : Die :=
  match d.held.find? (fun h => h.ctx == c && h.uid == uid && h.line == pl) with
  | some h =>
    let r := patch h.data h.mask ps
    { d with held := d.held.map (fun g => if g = h then { h with data := r.1, mask := r.2 } else g) }
  | none =>
    let r := patch 0 0 ps
    { d with held := d.held ++ [⟨c, uid, pl, r.1, r.2⟩] }

/-- Inserts a task into a list that rises by order key. -/
def insertByKey (t : Task) : List Task → List Task
  | [] => [t]
  | p :: r => if t.keyBelow p then t :: p :: r else p :: insertByKey t r

/-- Tasks in rising order key (R305). -/
def sortByKey (ts : List Task) : List Task := ts.foldr insertByKey []

/-- R325: the held lines that a task sees on its die: its own and those of speculative tasks of its context with a lower
order key, the higher keys over the lower ones and its own over all. -/
def State.heldFor (s : State) (d : Fin 8) (c : Nat) (t : Task) (pl : Nat) : List HeldLine :=
  let others := sortByKey ((s.ctx c).tasks.filter (fun p => p.speculating && t.speculating && p.keyBelow t))
  (others.map (·.uid) ++ [t.uid]).filterMap
    (fun u => (s.die d).held.find? (fun h => h.ctx == c && h.uid == u && h.line == pl))

/-- R325: the bytes of a line as a task sees them on its die. -/
def State.lineFor (s : State) (d : Fin 8) (c : Nat) (t : Option Task) (pl : Nat) : Vec :=
  let base := (s.line d pl).data
  match t with
  | none => base
  | some t => (s.heldFor d c t pl).foldl (fun v h => (patch v 0 (maskedBytes h.data h.mask)).1) base

/-! ### Global bytes of a task -/

/-- Why an access delivers nothing (R68, R331). -/
inductive Fail where
  | gone (l : Nat)
  | poison (cause va : Nat)
  deriving DecidableEq, Repr

/-- The code and detail of a failure (R285, R331). -/
def Fail.fault : Fail → FaultCode × Nat
  | .gone l => (.peerGone, l)
  | .poison cause va => (.memPoison, cause * 2 ^ 62 + lineOf va * 128)

/-- The physical addresses of a virtual range, or the first lost translation (R331 CAUSE 1). -/
def Context.physical (x : Context) (va n : Nat) : Except Fail (List Nat) :=
  (List.range n).foldr (fun i acc =>
    match x.translate (va + i) with
    | none => .error (.poison 1 (va + i))
    | some pa => match acc with
      | .error f => .error f
      | .ok ps => .ok (pa :: ps)) (.ok [])

/-- An entry of a region TLB covers a byte of a context. -/
def tlbHit (c va : Nat) (p : Nat × Xlate) : Bool := p.1 == c && decide (p.2.va ≤ va) && decide (va < p.2.va + p.2.size)

/-- R309: the TLB of a die takes an entry; of its 16,384 one goes where it is full, chosen freely (log entry 7). -/
def Die.tlbPut (d : Die) (c : Nat) (e : Xlate) (victim : Nat) : Die :=
  { d with tlb := (if d.tlb.length < 16384 then d.tlb else d.tlb.eraseIdx (victim % 16384)) ++ [(c, e)] }

/-- R309: the physical address of a byte through the region TLB of a die; a miss walks the context's table and fills the TLB. -/
def State.tlbWalk (s : State) (d : Fin 8) (c va : Nat) : State × Option Nat :=
  match (s.die d).tlb.find? (tlbHit c va) with
  | some p => (s, some (p.2.pa + (va - p.2.va)))
  | none =>
    match (s.ctx c).xlates.find? (fun e => tlbHit c va (c, e)) with
    | none => (s, none)
    | some e => (({ s with free := s.free + 1 }).modDie d (fun x => x.tlbPut c e (Config.value s.free)), some (e.pa + (va - e.va)))

/-- The byte lies in a LAZY record of the task of a tile (R308, R309). -/
def Tile.lazyAt (t : Tile) (va : Nat) : Bool :=
  t.regions.any (fun r => r.lazyMap && decide (r.base ≤ va) && decide (va < r.base + r.extent))

/-- The physical addresses of a virtual range of the task of a tile, those of a LAZY record through the TLB of its die (R309), or the
first lost translation (R331 CAUSE 1). -/
def State.physicalFor (s : State) (l va n : Nat) : State × Except Fail (List Nat) :=
  let c := s.ctxOf l
  if !(s.tile l).lazyAt va then (s, (s.ctx c).physical va n)
  else (List.range n).foldl (fun r i =>
    match r with
    | (s, .error f) => (s, .error f)
    | (s, .ok ps) => match s.tlbWalk (dieOf l) c (va + i) with
      | (s, some pa) => (s, .ok (ps ++ [pa]))
      | (s, none) => (s, .error (.poison 1 (va + i)))) (s, .ok [])

/-- Notes lines read by the speculative task of a tile; one that an end or stop action of a task below it has written is a conflict
(R326). -/
def State.noteRead (s : State) (l : Nat) (pls : List Nat) : State :=
  match (s.tile l).owner with
  | some (c, uid) =>
    if s.speculates l then
      s.modCtx c (fun x => x.modTask uid (fun t =>
        { t with readSet := t.readSet ++ pls.filter (fun p => !t.readSet.contains p), conflict := t.conflict || pls.any t.endLines.contains }))
    else s
  | none => s

/-- R348, R351: a read of a line through a die cache meets poison. -/
def State.readPoison (s : State) (d : Fin 8) (pl : Nat) : Bool := (s.line d pl).poison || s.lineFenced pl

/-- Reads n global bytes through the cache of a tile's die as the tile's task sees them (R70, R71, R325, R331). -/
def State.readGlobal (s : State) (l va n : Nat) : State × Except Fail (List Byte) :=
  let c := s.ctxOf l
  let d := dieOf l
  match s.physicalFor l va n with
  | (s, .error f) => (s, .error f)
  | (s, .ok pas) =>
    let pls := (pas.map lineOf).dedup
    let s := pls.foldl (fun s pl => s.fill d c pl) s
    match pas.zipIdx.find? (fun p => s.readPoison d (lineOf p.1)) with
    | some p => (s, .error (.poison 0 (va + p.2)))
    | none =>
      let t := s.taskOn l
      let views := pls.map (fun pl => (pl, s.lineFor d c t pl))
      (s.noteRead l pls, .ok (pas.map (fun a => BitVec.ofNat 8 (lane 8 (mget views (lineOf a) 0) (a % 128)))))

/-- Writes global bytes through the cache of a tile's die, or into the held lines of its speculative task (R325); those of an aborted
one are discarded (R327). -/
def State.writeGlobal (s : State) (l va : Nat) (bs : List Byte) : State × Option Fail :=
  let c := s.ctxOf l
  let d := dieOf l
  match s.physicalFor l va bs.length with
  | (s, .error f) => (s, some f)
  | (s, .ok pas) =>
    let ps := pas.zip bs
    let pls := (pas.map lineOf).dedup
    let of := fun pl => (ps.filter (fun p => lineOf p.1 == pl)).map (fun p => (p.1 % 128, p.2))
    match (s.tile l).owner with
    | some (c', uid) =>
      if s.speculates l then
        if (s.tile l).stop = .aborting then (s, none)
        else (pls.foldl (fun s pl => s.modDie d (fun e => e.hold c' uid pl (of pl))) s, none)
      else (pls.foldl (fun s pl => s.cacheWrite d c pl (of pl)) s, none)
    | none => (pls.foldl (fun s pl => s.cacheWrite d c pl (of pl)) s, none)

/-! ### The atomics (R164, R165) -/

/-- R164: the value an atomic writes. -/
def atomicNew (o : AtomicOp) (v d e : Word) : Word :=
  match o with
  | .add => v + d
  | .swap => d
  | .cas => if v = e then d else v
  | .min => if d.toInt < v.toInt then d else v
  | .max => if v.toInt < d.toInt then d else v
  | .minu => if d.toNat < v.toNat then d else v
  | .maxu => if v.toNat < d.toNat then d else v
  | .and => v &&& d
  | .or => v ||| d
  | .xor => v ^^^ d

/-- The accumulate type of a code (R31, R160). -/
def accTypeOf : Nat → Option AccType
  | 0 => some .i32 | 1 => some .i64 | 2 => some .f32 | 3 => some .f64
  | _ => none

/-- The width in bytes of an accumulate type (R165). -/
def AccType.width : AccType → Nat
  | .i32 | .f32 => 4
  | .i64 | .f64 => 8

/-- R165: the sum that aacc forms. -/
def AccType.sum (t : AccType) (v d : Nat) : Nat :=
  match t with
  | .i32 => (v + d) % 2 ^ 32
  | .i64 => (v + d) % 2 ^ 64
  | .f32 => (fAdd .fp32 .rne 0 (v % 2 ^ 32) (d % 2 ^ 32)).1
  | .f64 => (fAdd .fp64 .rne 0 (v % 2 ^ 64) (d % 2 ^ 64)).1

/-- R316: an aacc into the delta of a task; an untouched element starts at zero. -/
def Die.addDelta (e : Die) (c uid va : Nat) (t : AccType) (d : Word) : Die :=
  match e.deltas.find? (fun x => x.ctx == c && x.uid == uid && x.va == va) with
  | some x => { e with deltas := e.deltas.map (fun y => if y = x then { x with value := word (t.sum x.value.toNat d.toNat) } else y) }
  | none => { e with deltas := e.deltas ++ [⟨c, uid, va, t, word (t.sum 0 d.toNat)⟩] }

/-! ### Bytes of a location (R64) -/

/-- A byte as the store buffer and the comparisons of R77 and R178 name it. -/
inductive ByteId where
  | spm (l a : Nat)
  | va (a : Nat)
  | nowhere
  deriving DecidableEq, Repr

/-- The bytes of n bytes at a location. Global bytes are told apart by their virtual address: two addresses that map to one physical byte are two
bytes for store forwarding and the orders of one byte (R77; DESIGN CHOICE, entry 30). -/
def State.byteIds (s : State) (loc : Loc) (n : Nat) : List ByteId :=
  match loc with
  | .window l w off => (((s.tile l).window w).addrs off n).map (fun a => match a with | some x => .spm l x | none => .nowhere)
  | .global va => (span va n).map .va

/-- Reads the bytes of a location from memory, for a strand of tile l (R64, R68). -/
def State.readLoc (s : State) (l : Nat) (loc : Loc) (n : Nat) : State × Except Fail (List Byte) :=
  match loc with
  | .window tl w off =>
    if tl = l || s.liveFor (s.ctxOf l) tl then (s, .ok ((s.tile tl).readSpm (((s.tile tl).window w).addrs off n)))
    else (s, .error (.gone tl))
  | .global va => s.readGlobal l va n

/-- Writes the bytes of a location, for a strand of tile l (R64, R68). -/
def State.writeLoc (s : State) (l : Nat) (loc : Loc) (bs : List Byte) : State × Option Fail :=
  match loc with
  | .window tl w off =>
    if tl = l || s.liveFor (s.ctxOf l) tl then
      (s.modTile tl (fun t =>
        let ps := ((t.window w).addrs off bs.length).zip bs
        if tl = l then t.writeSpm ps else t.writeOutside s.cycle s.free ps), none)
    else (s, some (.gone tl))
  | .global va => s.writeGlobal l va bs

/-- R77: bytes read from memory with those of the buffered stores before a point of program order over them, the youngest
store last. -/
def State.forward (s : State) (st : Strand) (before : Nat) (ids : List ByteId) (bs : List Byte) : List Byte :=
  let stores := (st.sb.filter (fun e => decide (e.id < before))).flatMap (fun e => (s.byteIds e.loc e.n).zip (vecBytes e.data))
  (ids.zip bs).map (fun p => if p.1 = .nowhere then p.2 else ((stores.reverse.find? (fun q => q.1 == p.1)).map (·.2)).getD p.2)

end Sys2Proof.Machine
end

