-- ==== Sys2Proof/Machine/Ops.lean ====
section
/-! DEFINITION. The shared operations of the model: operand and result ports, operations in flight and their landing
(R18 to R24), counters (R79), raising a fault and taking it (R140 to R143), leaving and resuming a strand. -/

namespace Sys2Proof.Machine

/-! ### Operand ports (R48) -/

/-- The value of an operand port, by destination number. -/
def Strand.opnd (st : Strand) (d : Nat) : Vec := mget st.operands d 0

/-- The value of a 64-bit operand port. -/
def Strand.opw (st : Strand) (d : Nat) : Word := (st.opnd d).setWidth 64

/-- The bits of a 64-bit operand port that keep what is written: an RSV field for which no fault is named reads as zero (R3): those
of ls.sel, ls.map, ls.rdesc, nx.tag, nx.map, and sel and cfg of a stream (R160, R166, R169, R174, R280). -/
def operandBits (d : Nat) : Word :=
  if d = 0x200 ∨ (d / 0x80 = 5 ∧ d % 0x20 = 0) then 0xFFF
  else if d = 0x205 ∨ d = 0x645 then 0x7F
  else if d = 0x204 then ~~~(0x3FFE0000000 : Word)
  else if d = 0x600 then 0xFFFF
  else if d / 0x80 = 5 ∧ d % 0x20 = 5 then 0x3C7
  else ~~~(0 : Word)

/-- Writes an operand port; a 64-bit port takes the low bits (R50), but for its reserved ones. -/
def Strand.setOpnd (st : Strand) (d : Nat) (v : Vec) : Strand :=
  let w := match operandWidth d with
    | some 64 => (v.setWidth 64 &&& operandBits d).setWidth 1024
    | _ => v
  { st with operands := mput st.operands d w }

/-! ### Result ports (R18 to R24) -/

/-- A result port of a strand. -/
def Strand.port (st : Strand) (p : ResPort) : PortState := mget st.ports p.idx .empty

/-- Replaces a result port. -/
def Strand.setPort (st : Strand) (p : ResPort) (v : PortState) : Strand := { st with ports := mput st.ports p.idx v }

/-- The SMODE bit of a port's socket (R18); none for sockets without one (R19). -/
def smodeBit : ResPort → Option Nat
  | .ix0Res => some 0
  | .ix1Res => some 1
  | .lsRes | .lsVres => some 2
  | .vxRes | .vxSres => some 5
  | .sfRes | .sfSres => some 6
  | .cvRes | .cvSres => some 7
  | .mxRes => some 8
  | .accRes | .accSres => some 9
  | _ => none

/-- The ports that always run data-locked (R19). -/
def alwaysLocked : ResPort → Bool
  | .cpiStat | .cpoStat | .wqRes | .nxRres | .nxSres | .fxRes | .tkRes => true
  | _ => false

/-- The SMODE bits that a strand owns (R18). -/
def smodeMask : StrandId → Nat
  | .compute => 0x3E7
  | _ => 0x007

/-- A port runs data-locked by SMODE or for good (R18, R19). -/
def Strand.lockedPort (st : Strand) (p : ResPort) : Bool :=
  alwaysLocked p || (match smodeBit p with
    | some b => bit st.smode b
    | none => false)

/-- A port has a data-locked result of an operation in flight or waiting in the socket. -/
def Strand.lockedFlight (st : Strand) (p : ResPort) : Bool := st.flights.any (fun f => f.port == p && f.locked)

/-- R16, R22: the port can be read: a data-locked port while it holds an unread result; a free-running port always, but for
a peer or handle result of ls still on its way (R19). -/
def Strand.readable (st : Strand) (p : ResPort) : Bool :=
  (st.port p).full || !(st.lockedPort p || st.lockedFlight p)

/-- Marks the unread result of a port as read (R22). -/
def Strand.consume (st : Strand) (p : ResPort) : Strand := st.setPort p { st.port p with full := false }

/-- A result of 64 bits with nothing beside it. -/
def res64 (v : Word) : Result := ⟨v.setWidth 1024, none, none⟩

/-- A result of 1,024 bits. -/
def resV (v : Vec) : Result := ⟨v, none, none⟩

/-- Puts an operation in flight (R21, R22). -/
def Strand.fly (st : Strand) (due : Option Nat) (p : ResPort) (r : Result) (locked : Bool) : Strand :=
  { st with flights := st.flights ++ [⟨st.nextId, due, p, r, locked⟩], nextId := st.nextId + 1 }

/-- Puts an operation of the port's own mode in flight, landing at a cycle. -/
def Strand.flyAt (st : Strand) (due : Nat) (p : ResPort) (r : Result) : Strand := st.fly (some due) p r (st.lockedPort p)

/-- Gives the flight of an access its result and completion cycle. -/
def Strand.complete (st : Strand) (id due : Nat) (r : Result) : Strand :=
  { st with flights := st.flights.map (fun f => if f.id = id then { f with due := some due, res := r } else f) }

/-- Drops the flight of an access that delivers no result (R285). -/
def Strand.dropFlight (st : Strand) (id : Nat) : Strand := { st with flights := st.flights.filter (fun f => f.id != id) }

/-- Writes guard g1 to g3 (R49, R157). -/
def Strand.setG (st : Strand) (n : Fin 3) (b : Bool) : Strand := { st with g := st.g.set n.val b n.isLt }

/-- Writes xN (R49). -/
def Strand.setX (st : Strand) (n : Fin 64) (v : Word) : Strand := { st with x := st.x.set n.val v n.isLt }

/-- The guard write that comes with a result (R157). -/
def Strand.landGuard (st : Strand) (r : Result) : Strand :=
  match r.guard with
  | some (n, b) => st.setG n b
  | none => st

/-- The hi port of a unit's result port (R158). -/
def hiPort : ResPort → Option ResPort
  | .ix0Res => some .ix0Hi
  | .ix1Res => some .ix1Hi
  | _ => none

/-- Places a result on a port, with the hi value that comes with it (R21, R158). `full`: as an unread data-locked one. -/
def Strand.place (st : Strand) (p : ResPort) (r : Result) (full : Bool) : Strand :=
  let st := st.setPort p { st.port p with value := r.value, full := full }
  match hiPort p, r.hi with
  | some h, some v => st.setPort h { st.port h with value := v.setWidth 1024 }
  | _, _ => st

/-- Sets sticky flags of an engine (R111, R188). -/
def Vu.addFlags (u : Vu) (f : FlagUnit) (b : BitVec 7) : Vu :=
  match f with
  | .vx => { u with vxStat := u.vxStat ||| b }
  | .sf => { u with sfStat := u.sfStat ||| b }
  | .cv => { u with cvStat := u.cvStat ||| b }
  | .acc => { u with accStat := u.accStat ||| b }

/-- Flags that an operation sets at the end of a cycle (R188). -/
def Vu.flagsAt (u : Vu) (due : Nat) (f : FlagUnit) (b : BitVec 7) : Vu :=
  if b = 0 then u else { u with flagsDue := u.flagsDue ++ [(due, f, b)] }

/-- The flags of the operations that land in this cycle become set at its end (R188). -/
def Vu.applyFlags (u : Vu) (now : Nat) : Vu :=
  let u' := (u.flagsDue.filter (fun x => x.1 ≤ now)).foldl (fun u x => u.addFlags x.2.1 x.2.2) u
  { u' with flagsDue := u.flagsDue.filter (fun x => !(x.1 ≤ now)) }

/-- R21, R157, R158: the free-running results of one port that land in this cycle. Every compare writes its guard; the value
and hi of the one triggered last remain. -/
def Strand.landPort (st : Strand) (now : Nat) (p : ResPort) : Strand :=
  let due := st.flights.filter (fun f => f.port == p && !f.locked && f.due == some now)
  match due.getLast? with
  | none => st
  | some last =>
    let st := due.foldl (fun st f => st.landGuard f.res) st
    let st := st.place p last.res false
    { st with flights := st.flights.filter (fun f => !(f.port == p && !f.locked && f.due == some now)) }

/-- R22: the data-locked result that enters a port in this cycle: the oldest of the port's operations in flight, if it is complete
and the port is empty. The two ports of a socket each deliver in their own order (R163, R187, R206, R219, R249). -/
def Strand.entering (st : Strand) (now : Nat) (p : ResPort) : Option Flight :=
  match st.flights.find? (fun f => f.port == p) with
  | some f => if f.locked && !(st.port p).full && f.due.any (fun d => decide (d ≤ now)) then some f else none
  | none => none

/-- R22: that result enters its port, its hi value with it (R158). -/
def Strand.enterPort (st : Strand) (now : Nat) (p : ResPort) : Strand :=
  match st.entering now p with
  | some f => ((st.landGuard f.res).place p f.res true).dropFlight f.id
  | none => st

/-! ### Counters (R79) -/

/-- LDCNT (R79): the accesses that have not returned, and the local loads whose results land after the cycle. -/
def Strand.loads (st : Strand) (now : Nat) : Nat := st.ldcnt + (st.localLd.filter (fun d => decide (now < d))).length

/-- A local load that returns in a cycle counts in LDCNT until then (R79). -/
def Strand.addLocal (st : Strand) (now due : Nat) : Strand := { st with localLd := due :: st.localLd.filter (fun d => decide (now < d)) }

/-- Raises LDCNT. -/
def Strand.addLd (st : Strand) : Strand := { st with ldcnt := st.ldcnt + 1 }
/-- Lowers LDCNT. -/
def Strand.subLd (st : Strand) : Strand := { st with ldcnt := st.ldcnt - 1 }
/-- Raises STCNT. -/
def Strand.addSt (st : Strand) : Strand := { st with stcnt := st.stcnt + 1 }
/-- Lowers STCNT. -/
def Strand.subSt (st : Strand) : Strand := { st with stcnt := st.stcnt - 1 }
/-- Raises CPCNT. -/
def Strand.addCp (st : Strand) : Strand := { st with cpcnt := st.cpcnt + 1 }
/-- Lowers CPCNT. -/
def Strand.subCp (st : Strand) : Strand := { st with cpcnt := st.cpcnt - 1 }

/-- R139: counts one loss-of-decoupling event; at the limit CSAT is set, and set again by each further event after software has cleared it
(DESIGN CHOICE, entry 25). -/
def Strand.lodEvent (st : Strand) : Strand :=
  if st.lodc = 0xFFFFFFFF#32 then { st with sstat := st.sstat ||| 2 }
  else
    let n := st.lodc + 1
    { st with lodc := n, sstat := if n = 0xFFFFFFFF#32 then st.sstat ||| 2 else st.sstat }

/-! ### Faults (R140 to R143) -/

/-- The code of a fault in its record (R141). -/
def FaultCode.num : FaultCode → Nat
  | .illegalBundle => 0x01 | .illegalPort => 0x02 | .bundleDest => 0x03 | .bundleTrig => 0x04 | .bundlePort => 0x05
  | .pcOverrun => 0x06 | .operandFmt => 0x10 | .operandRm => 0x11 | .operandRange => 0x12 | .csrAccess => 0x13
  | .mxBank => 0x14 | .regionBounds => 0x20 | .regionPerm => 0x21 | .peerGone => 0x22 | .slotViolation => 0x23
  | .memPoison => 0x24 | .stack => 0x30 | .loopNest => 0x31 | .trap => 0x32 | .brk => 0x33 | .domainAbort => 0x40
  | .codeGone => 0x41 | .watchdog => 0x42

/-- The kind of a fault in its record (R143). -/
def FaultKind.num : FaultKind → Nat
  | .precise => 0 | .after => 1 | .deferred => 2 | .asynchronous => 3

/-- R23, R24: the cycle after the strand's last issue or idle cycle (R38), or that of its resume where it has issued none since; landing distances count
from the cycle before it. -/
def Strand.base (st : Strand) : Nat := max st.advancedAt (st.resumeAt.getD 0)

/-- R23: a strand stops at a bundle boundary: the shadows that have not landed since its resume get their distance from the last
bundle issued. -/
def Strand.halt (st : Strand) (r : RunState) : Strand :=
  let st := match st.resumeAt with
    | some c =>
      if c < st.advancedAt then
        { st with ports := st.ports.map (fun (p : Nat × PortState) => (p.1, { p.2 with shadow := p.2.shadow.map (fun (x : Result × Nat) => (x.1, c + x.2 - st.advancedAt)) })) }
      else st
    | none => st
  { st with run := r }

/-- Takes a fault at a strand: it issues nothing more, and its first fault waits to be recorded (R140, R142); a second one that is deferred
gets no record (DESIGN CHOICE, entry 29). This is the
one operation by which a strand takes an exception: the stop index is its program counter as it stands. -/
def Strand.takeFault (st : Strand) (f : FaultInfo) : Strand :=
  match st.fault with
  | some _ => st
  | none => { (if st.run = .ended then st else if st.run = .running then st.halt .halted else { st with run := .halted }) with fault := some f }

/-- A precise fault of the bundle at the program counter (R140). -/
def Strand.precise (st : Strand) (c : FaultCode) (detail : Nat) : Strand :=
  st.takeFault ⟨c, .precise, st.pc, word detail, none, false⟩

/-- A deferred fault of the operation that the bundle at pc triggered (R140). -/
def Strand.deferred (st : Strand) (c : FaultCode) (pc detail : Nat) : Strand :=
  st.takeFault ⟨c, .deferred, pc, word detail, none, false⟩

/-- The fault record of a strand (R143). -/
def faultRecord (f : FaultInfo) (strand spc taskid ltn : Nat) (ts : Word) : FaultRecord :=
  { w0 := word (f.code.num * 2 ^ 56 + strand * 2 ^ 54 + f.kind.num * 2 ^ 52 + f.fpc % 2048 * 2 ^ 32 + spc % 2048),
    w1 := word (taskid * 2 ^ 32 + ltn % 2048 * 2 ^ 16), w2 := f.detail, w3 := ts }

/-- Returns a halted strand to running at its program counter in a cycle: the return from an exception (R149, R24). Its mapped
values keep their distance (R168). An ended strand stays ended. -/
def Strand.resumeAtCycle (st : Strand) (now : Nat) : Strand :=
  let b := st.base
  let st := { st with mapped := st.mapped.map (fun (m : Mapped) => if m.pend then m else { m with due := now + m.due - b }) }
  if st.run = .ended then { st with resumeAt := some now, fault := none }
  else { st with run := .running, resumeAt := some now, fault := none, token := none }

/-- The strand may issue a bundle in this cycle. -/
def Strand.mayIssue (st : Strand) : Bool := decide (st.run = .running) && decide (st.repLeft = 0) && st.fault.isNone

/-! ### Where an issuing trigger stands -/

/-- The tile, strand and slot of a trigger, and its operand. -/
structure Iss where
  l : Nat
  k : StrandId
  slot : Nat
  v : Vec

/-- The 64-bit trigger operand. -/
def Iss.t (i : Iss) : Word := i.v.setWidth 64

/-- The tile of a trigger. -/
def Iss.tile (i : Iss) (s : State) : Tile := s.tile i.l

/-- The strand of a trigger. -/
def Iss.strand (i : Iss) (s : State) : Strand := (s.tile i.l).strand i.k

/-- Changes the strand of a trigger. -/
def Iss.modStrand (i : Iss) (s : State) (f : Strand → Strand) : State := s.modTile i.l (fun t => t.modStrand i.k f)

/-- The outcome of a check at issue: the fault and its detail (R16). -/
abbrev Check := Option (FaultCode × Nat)

/-- Fails with a fault unless the condition holds. -/
def need (c : Bool) (f : FaultCode) (d : Nat) : Check := if c then none else some (f, d)

/-- The first failing check. -/
def Check.andThen (a b : Check) : Check := match a with | some f => some f | none => b

end Sys2Proof.Machine
end

