-- ==== Sys2Proof/Machine/FxHome.lean ====
section
/-! DEFINITION. A one-sided fabric operation at its home (R372 to R378): its target, its errors and its effect there. -/

namespace Sys2Proof.Machine

/-- FXERR bit [0] (R374). -/
def fxGone : BitVec 5 := 1
/-- FXERR bit [1]. -/
def fxBounds : BitVec 5 := 2
/-- FXERR bit [2]. -/
def fxPerm : BitVec 5 := 4
/-- FXERR bit [3]. -/
def fxPoison : BitVec 5 := 8
/-- FXERR bit [4]. -/
def fxLink : BitVec 5 := 16

/-- The bytes that an operation acts on (R372). -/
def fxSize : FxOp → Nat
  | .vst => 128
  | _ => 8

/-- The operation is an atomic, and with it an acquire (R378). -/
def fxAtomic (o : FxOp) : Bool := o == .faa || o == .cas

/-- MODE of an export permits the operation (R370, R374, R408). -/
def Export.permits (e : Export) (o : FxOp) : Bool := if fxAtomic o then e.mode == 3 else e.mode == 2 || e.mode == 3

/-- The errors that an export gives an operation at an offset (R374), with the pages of the registered images (R399); poison is told apart. -/
def exportErrors (e : Export) (pages : List (Nat × Nat)) (o : FxOp) (off : Nat) : BitVec 5 :=
  if e.mode = 0 then fxGone
  else
    (if e.extent < off + fxSize o then fxBounds else 0) |||
    (if !e.permits o || touchesPage pages (e.base + off) (fxSize o) then fxPerm else 0)

/-- What an operation writes at its home, given the bytes there: none for a cas that fails (R372). -/
def fxNew (f : FxOpFlight) (old : List Byte) : Option (List Byte) :=
  match f.op with
  | .st | .fence => some (leBytes 8 f.d.toNat)
  | .vst => some (vecBytes f.xd)
  | .faa => some (leBytes 8 (leNat old + f.d.toNat))
  | .cas => if leNat old = f.e.toNat then some (leBytes 8 f.d.toNat) else none
  | _ => none

/-- The virtual address of an operation's first byte in the context of the job at its home. -/
def FxOpFlight.va (f : FxOpFlight) (exports : Vector Export 16) : Nat := exports[f.exp % 16].base + f.off

/-- The package of the fabric that an operation names, for a context's job. -/
def State.peer? (s : State) (fpid job : Nat) : Option Peer := s.peers.find? (fun p => p.fpid == fpid && p.job == job)

/-- The physical addresses of an operation that loops back to its own package (R370). A reserved one (R71) counts as no translation
(DESIGN CHOICE, entry 14). -/
def State.loopback (s : State) (c : Nat) (f : FxOpFlight) : Option (List Nat) :=
  ((s.ctx c).physical (f.va (s.ctx c).exports) (fxSize f.op)).toOption.filter (fun pas => !pas.any reservedPa)

/-- R377: a rollback leaves what fx writes in place: the bytes also go into the records that logs already hold of their lines. -/
def State.patchLogs (s : State) (ps : List (Nat × Byte)) : State :=
  let patch := fun (r : Nat × BitVec 1024) =>
    let mine := ps.filter (fun p => lineOf p.1 == r.1)
    if mine.isEmpty then r
    else (r.1, bytesVec ((vecBytes r.2).zipIdx.map (fun b => ((mine.find? (fun p => p.1 % 128 == b.2)).map (·.2)).getD b.1)))
  { s with ctxs := s.ctxs.map (fun p => (p.1, { p.2 with log := p.2.log.map patch })) }

/-- An operation at its own package (R370, R374, R377): the write at home is not logged, touches no die cache and outlasts a rollback. An
export without a translation gives GONE. -/
def State.fxOwn (s : State) (c : Nat) (f : FxOpFlight) : State × Word × BitVec 5 :=
  let x := s.ctx c
  let err := exportErrors x.exports[f.exp % 16] x.imagePages f.op f.off
  if err ≠ 0 then (s, 0, err)
  else match s.loopback c f with
  | none => (s, 0, fxGone)
  | some pas =>
    let pls := (pas.map lineOf).dedup
    let s := if fxAtomic f.op then pls.foldl (fun s pl => s.readHome pl) s
      else pls.foldl (fun s pl => s.writeErrors pl ((pas.filter (fun p => lineOf p == pl)).map (· % 128))) s
    if fxAtomic f.op && pls.any s.linePoison then (s, 0, fxPoison)
    else
      let old := readAt s.mem pas
      let s := match fxNew f old with
        | none => s
        | some bs =>
          let ps := (pas.zip bs).filter (fun p => !s.lineFenced (lineOf p.1))
          let whole := pls.filter (fun pl => (ps.filter (fun p => lineOf p.1 == pl)).length = 128)
          { s with mem := writeAt s.mem ps, poison := s.poison.filter (fun pl => !whole.contains pl) }.patchLogs ps
      (s, if fxAtomic f.op then word (leNat old) else 0, 0)

/-- An operation at another package (R374, R377, R348). -/
def State.fxPeer (s : State) (p : Peer) (f : FxOpFlight) : State × Word × BitVec 5 :=
  let err := exportErrors p.exports[f.exp % 16] p.images f.op f.off
  let va := f.va p.exports
  if err ≠ 0 then (s, 0, err)
  else
    let pls := ((span va (fxSize f.op)).map lineOf).dedup
    if fxAtomic f.op && pls.any p.poison.contains then (s, 0, fxPoison)
    else
      let old := readAt p.mem (span va (fxSize f.op))
      let q := match fxNew f old with
        | none => p
        | some bs =>
          { p with mem := writeAt p.mem ((span va (fxSize f.op)).zip bs),
                   poison := if f.op = .vst ∧ va % 128 = 0 then p.poison.filter (fun l => l != lineOf va) else p.poison }
      ({ s with peers := s.peers.map (fun y => if y.fpid = p.fpid ∧ y.job = p.job then q else y) },
        if fxAtomic f.op then word (leNat old) else 0, 0)

/-- Performs an operation at its home: the value of an atomic and the error bits (R372, R374). -/
def State.fxDo (s : State) (c : Nat) (f : FxOpFlight) : State × Word × BitVec 5 :=
  if f.fpid = s.fpid then s.fxOwn c f
  else match s.peer? f.fpid (s.ctx c).job with
  | none => (s, 0, fxGone)
  | some p => if p.routed then s.fxPeer p f else (s, 0, fxLink)

/-- Sets bits of FXERR (R374). -/
def Fx.note (x : Fx) (fpid : Nat) (b : BitVec 5) : Fx := { x with err := mputD 0 x.err fpid (mget x.err fpid 0 ||| b) }

/-- Performs a one-sided operation of a tile: a store leaves the interface, an atomic waits to land (R375). -/
def State.fxPerformOp (s : State) (l : Nat) (f : FxOpFlight) (due : Nat) : State :=
  let r := s.fxDo (s.ctxOf l) f
  r.1.modTile l (fun t =>
    let t := { t with fx := t.fx.note f.fpid r.2.2 }
    if fxAtomic f.op then
      { t with fx := { t.fx with ops := t.fx.ops.map (fun g =>
          if g.id = f.id then { g with performed := true, value := r.2.1, due := due } else g) } }
    else
      Tile.modStrand { t with fx := { t.fx with ops := t.fx.ops.filter (fun g => g.id != f.id) } } .drain Strand.subSt)

/-- The value of a performed atomic lands on fx.res (R371, R375). -/
def State.fxLand (s : State) (l : Nat) (f : FxOpFlight) : State :=
  s.modTile l (fun t =>
    Tile.modStrand { t with fx := { t.fx with ops := t.fx.ops.filter (fun g => g.id != f.id) } } .drain
      (fun st => (st.complete f.id s.cycle (res64 f.value)).subLd))

/-- R378: the atomics of the drain strand before a point of program order have landed. -/
def Tile.fxAcquired (t : Tile) (k : StrandId) (id : Nat) : Bool :=
  k != .drain || t.fx.ops.all (fun o => !fxAtomic o.op || decide (id ≤ o.id))

/-- Performs a fence: the flag is written at home and the result lands with the error bits, which it clears (R376). -/
def State.fencePerform (s : State) (l : Nat) (f : FxOpFlight) : State :=
  let r := s.fxDo (s.ctxOf l) f
  r.1.modTile l (fun t =>
    let bits := mget t.fx.err f.fpid 0 ||| r.2.2
    let w := word ((if bits = 0 then 0 else 1) * 2 ^ 56 + bits.toNat)
    let fx := { t.fx with err := mdel t.fx.err f.fpid, ops := t.fx.ops.filter (fun g => g.id != f.id) }
    Tile.modStrand { t with fx := fx } .drain (fun st => (st.complete f.id s.cycle (res64 w)).subSt))

/-- Two operations act on common bytes of one package's context (R378). -/
def State.fxOverlap (s : State) (c : Nat) (a b : FxOpFlight) : Bool :=
  a.fpid == b.fpid &&
  (match (if a.fpid = s.fpid then some (s.ctx c).exports else (s.peer? a.fpid (s.ctx c).job).map Peer.exports) with
   | some e => overlap (a.va e, fxSize a.op) (b.va e, fxSize b.op)
   | none => false)

end Sys2Proof.Machine
end

