-- ==== Sys2Proof/Machine/Access.lean ====
section
/-! DEFINITION. The accesses of a strand in flight: performing them in the orders of R76 to R86, returning their values (R163,
R166, R167, R285), and draining the store buffer (R77). -/

namespace Sys2Proof.Machine

/-! ### The interface of a power-gated tile (R291) -/

/-- LAT_WAKE (R291). -/
def latWake : Nat := 64

/-- R291: something reaches a tile. A gated tile opens and takes it LAT_WAKE cycles later; an armed one abandons gating where it is a message.
The answer is the first cycle in which the arrival is delivered. -/
def State.arrive (s : State) (tl : Nat) (message : Bool) : State × Nat :=
  let nx := (s.tile tl).nx
  match nx.gate with
  | .gated =>
    (s.modTile tl (fun t => { t with nx := { t.nx with gate := .opened, idleFor := 0, gateAt := s.cycle + latWake } }), s.cycle + latWake)
  | .armed => (if message then s.modTile tl (fun t => { t with nx := { t.nx with arrived := true } }) else s, s.cycle)
  | .opened => (s, max s.cycle nx.gateAt)

/-! ### Performing one access -/

/-- The value of a scalar load (R162). -/
def loadValue (n : Nat) (sg : Bool) (bs : List Byte) : Vec :=
  if n = 128 then bytesVec bs
  else if sg then (BitVec.ofInt 64 (signed (8 * n) (leNat bs))).setWidth 1024
  else BitVec.ofNat 1024 (leNat bs)

/-- R165, R316: the delta type when an accumulate goes through a handle of MODE ACC. -/
def Tile.accHandle (t : Tile) (h : Option Nat) : Option AccType :=
  match h with
  | some k => match t.regions[k]? with
    | some r => if r.mode = 3 then accTypeOf r.acct else none
    | none => none
  | none => none

/-- R283: an nx atomic at the home of global bytes: the issuing die writes back and drops their lines first. A handle whose BASE is no multiple
of 8 can make them cross a line. -/
def State.homeAtomic (s : State) (l va : Nat) (o : AtomicOp) (d e : Word) : State × Except Fail Vec :=
  let c := s.ctxOf l
  match s.physicalFor l va 8 with
  | (s, .error f) => (s, .error f)
  | (s, .ok pas) =>
    let pls := (pas.map lineOf).dedup
    let s := pls.foldl (fun s pl => (s.dropLine (dieOf l) pl).readHome pl) s
    match pas.zipIdx.find? (fun p => s.linePoison (lineOf p.1)) with
    | some p => (s, .error (.poison 0 (va + p.2)))
    | none =>
      let v := word (leNat (readAt s.mem pas))
      (s.homeBytes [c] (pas.zip (leBytes 8 (atomicNew o v d e).toNat)), .ok (v.setWidth 1024))

/-- Reads a location as a load of a strand does: from memory, with the strand's own earlier stores over it (R76, R77). -/
def State.loadLoc (s : State) (l : Nat) (k : StrandId) (before : Nat) (loc : Loc) (n : Nat) : State × Except Fail (List Byte) :=
  match s.readLoc l loc n with
  | (s, .error f) => (s, .error f)
  | (s, .ok bs) => (s, .ok (s.forward ((s.tile l).strand k) before (s.byteIds loc n) bs))

/-- R201: gathers the lanes in ascending order. -/
def State.gatherLanes (s : State) (l : Nat) (k : StrandId) (before w : Nat) : List (Nat × Loc) → State × Except Fail (List (Nat × Nat))
  | [] => (s, .ok [])
  | (i, loc) :: r =>
    match s.loadLoc l k before loc (w / 8) with
    | (s, .error f) => (s, .error f)
    | (s, .ok bs) =>
      match s.gatherLanes l k before w r with
      | (s, .error f) => (s, .error f)
      | (s, .ok vs) => (s, .ok ((i, leNat bs) :: vs))

/-- R201: scatters the lanes in ascending order. -/
def State.scatterLanes (s : State) (l w : Nat) (data : Vec) : List (Nat × Loc) → State × Option Fail
  | [] => (s, none)
  | (i, loc) :: r =>
    match s.writeLoc l loc (leBytes (w / 8) (lane w data i)) with
    | (s, some f) => (s, some f)
    | (s, none) => s.scatterLanes l w data r

/-- R201: ScatterAdd over SPM elements; lanes of one element are added in ascending order. -/
def scatterAdd (t : Tile) (ty : AccType) (data : Vec) (lanes : List (Nat × List (Option Nat))) : Tile :=
  lanes.foldl (fun t p =>
    let v := leNat (t.readSpm p.2)
    t.writeSpm (p.2.zip (leBytes ty.width (ty.sum v (lane (8 * ty.width) data p.1))))) t

/-- The entry of a tag in a match table and the number of its subscription (R292). -/
def Nx.entryOf (n : Nx) (tag : BitVec 16) : Option (Nat × Nat) :=
  (n.mtab.toList.zipIdx.find? (fun p => p.1.any (fun e => e.1 == tag))).bind (fun p => p.1.map (fun e => (p.2, e.2)))

/-- The live tile of a task. -/
def State.liveTile (s : State) (c : Nat) (t : Task) : Option Nat :=
  t.ltn.filter (fun l => (s.tile l).live && !(s.tile l).fenced && (s.tile l).owner == some (c, t.uid))

/-- R292, R293: the tasks of a context that subscribe a tag when a multicast issues, each with the number of its subscription; a stopped
task keeps its subscriptions, and one whose join is in progress may be taken (log entry 7). -/
def State.subscribers (s : State) (c : Nat) (tag : BitVec 16) : List (Nat × Nat) :=
  (s.ctx c).tasks.filterMap (fun t =>
    match s.liveTile c t with
    | some l => match (s.tile l).nx.entryOf tag with
      | some (e, stamp) =>
        if !((s.tile l).nx.subs.any (fun f => f.isSub && f.entry == some e)) || Config.choice (s.free + t.uid) then some (t.uid, stamp) else none
      | none => none
    | none => (t.mtab.findSome? (fun e => e.filter (fun x => x.1 == tag))).map (fun x => (t.uid, x.2)))

/-- R287: two tiles hold members of different gangs, so that a peer access between them finds no one. -/
def State.otherGang (s : State) (l tl : Nat) : Bool :=
  match s.taskOn l, s.taskOn tl with
  | some t, some u => t.gang && u.gang && t.gangUid != u.gangUid
  | _, _ => false

/-- R68, R287: the tile of a peer access, where it holds a member of another gang. -/
def State.strangeTile (s : State) (l : Nat) (a : Access) : Option Nat :=
  let locs : List Loc := match a.op with | .gather _ lanes => lanes.map (·.2) | .scatter _ lanes _ => lanes.map (·.2) | _ => [a.loc]
  if a.path != .peer then none
  else locs.findSome? (fun loc => match loc with | .window tl _ _ => if s.otherGang l tl then some tl else none | .global _ => none)

/-- Performs an access: its effect on memory and its value (R76, R82 to R86, R164, R165, R201, R283, R288, R289, R293). R74 makes an
unaligned or line-crossing access atomic per aligned 8-byte unit only, and each lane of a gather or scatter an access of its own;
here the whole access is one step (DESIGN CHOICE, entry 24). A peer gather or scatter with every lane disabled makes no access, so that it raises
nothing, whatever its target (R68, R202; DESIGN CHOICE, entry 30). -/
def State.doAccess (s : State) (l : Nat) (k : StrandId) (a : Access) : State × Except Fail Vec :=
  match s.strangeTile l a with
  | some tl => (s, .error (.gone tl))
  | none =>
  match a.op with
  | .load n sg =>
    match s.loadLoc l k a.id a.loc n with
    | (s, .error f) => (s, .error f)
    | (s, .ok bs) => (s, .ok (loadValue n sg bs))
  | .atomic o d e =>
    match a.home, a.loc with
    | true, .global va => s.homeAtomic l va o d e
    | _, _ =>
      match s.readLoc l a.loc 8 with
      | (s, .error f) => (s, .error f)
      | (s, .ok bs) =>
        let v := word (leNat bs)
        match s.writeLoc l a.loc (leBytes 8 (atomicNew o v d e).toNat) with
        | (s, some f) => (s, .error f)
        | (s, none) => (s, .ok (v.setWidth 1024))
  | .store n data =>
    match s.writeLoc l a.loc ((vecBytes data).take n) with
    | (s, some f) => (s, .error f)
    | (s, none) => (s, .ok 0)
  | .accumulate t d =>
    match (s.tile l).accHandle a.handle, a.loc, (s.tile l).owner with
    | some dt, .global va, some (c, uid) => (s.modDie (dieOf l) (fun e => e.addDelta c uid va dt d), .ok 0)
    | _, _, _ =>
      match s.readLoc l a.loc t.width with
      | (s, .error f) => (s, .error f)
      | (s, .ok bs) =>
        match s.writeLoc l a.loc (leBytes t.width (t.sum (leNat bs) d.toNat)) with
        | (s, some f) => (s, .error f)
        | (s, none) => (s, .ok 0)
  | .gather w lanes =>
    match s.gatherLanes l k a.id w lanes with
    | (s, .error f) => (s, .error f)
    | (s, .ok vs) => (s, .ok (ofLanes w ((List.range (1024 / w)).map (fun i => mget vs i 0))))
  | .scatter w lanes data =>
    match s.scatterLanes l w data lanes with
    | (s, some f) => (s, .error f)
    | (s, none) => (s, .ok 0)
  | .scatterAdd ty lanes data => (s.modTile l (fun t => scatterAdd t ty data lanes), .ok 0)
  | .release va n => (s.releaseRange (dieOf l) (s.ctxOf l) va n, .ok 0)
  | .acquire va n => (s.acquireRange (dieOf l) (s.ctxOf l) va n, .ok 0)
  | .message tl sk w =>
    if s.liveFor (s.ctxOf l) tl then
      let uid := ((s.tile tl).owner.map (·.2)).getD 0
      (s.modTile l (fun t => { t with nx := { t.nx with held := t.nx.held ++ [HeldMsg.mk tl uid sk w] } }), .ok 0)
    else (s, .error (.gone tl))
  | .multicast tag payload dsts =>
    let s := s.modTile l (fun t => { t with nx := { t.nx with
      mcasts := t.nx.mcasts ++ dsts.zipIdx.map (fun p => McastFlight.mk a.id p.1.1 tag p.1.2 payload (s.cycle + 1 + Config.latency (s.free + p.2))) } })
    ({ s with free := s.free + dsts.length }, .ok 0)

/-- The operation returns a value to its strand. -/
def AccessOp.returns : AccessOp → Bool
  | .load _ _ | .atomic _ _ _ | .gather _ _ => true
  | _ => false

/-- The operation is a plain load, which may pass earlier stores (R76). -/
def AccessOp.isLoad : AccessOp → Bool
  | .load _ _ | .gather _ _ => true
  | _ => false

/-- Removes an access, lowering the counters it is in (R79). -/
def Strand.dropAccess (st : Strand) (a : Access) : Strand :=
  let st := { st with accesses := st.accesses.filter (fun b => b.id != a.id) }
  let st := if a.countsLd then st.subLd else st
  if a.countsSt then st.subSt else st

/-- Takes the deferred fault of an access that failed (R285, R331). -/
def Strand.failed (st : Strand) (f : Fail) (pc detail : Nat) : Strand :=
  st.takeFault ⟨f.fault.1, .deferred, pc, word detail, match f with | .poison cause va => some (cause, va) | .gone _ => none, false⟩

/-- Marks an access as performed with its value; one without a value has left its strand. A failed one raises its deferred
fault and delivers nothing (R285, R331). -/
def State.performAccess (s : State) (l : Nat) (k : StrandId) (a : Access) : State :=
  match s.doAccess l k a with
  | (s, .error f) =>
    s.modTile l (fun t => t.modStrand k (fun st =>
      ((st.dropAccess a).dropFlight a.id).failed f a.pc f.fault.2))
  | (s, .ok v) =>
    s.modTile l (fun t => t.modStrand k (fun st =>
      if a.op.returns then
        { st with accesses := st.accesses.map (fun b => if b.id = a.id then { b with performed := true, value := v } else b) }
      else st.dropAccess a))

/-! ### The store buffer (R77) -/

/-- The store buffer holds no store earlier than a point of program order (R88). -/
def Strand.clearBefore (st : Strand) (id : Nat) : Bool := st.sb.all (fun e => decide (id ≤ e.id))

/-- Puts a store into the store buffer (R77, R79, R284). -/
def Strand.pushStore (st : Strand) (pc : Nat) (loc : Loc) (n : Nat) (data : Vec) (h : Option Nat) (rel peer : Bool) (due : Nat) : Strand :=
  ({ st with sb := st.sb ++ [StoreEntry.mk st.nextId pc loc n data h rel peer due], nextId := st.nextId + 1 }).addSt

/-- The oldest store leaves the store buffer and is performed (R77); at a tile that is gone it raises PEER_GONE (R68). -/
def State.drainHead (s : State) (l : Nat) (k : StrandId) : State :=
  match ((s.tile l).strand k).sb with
  | [] => s
  | e :: r =>
    let s := s.modTile l (fun t => t.modStrand k (fun st => { st with sb := r }.subSt))
    let gone := match e.loc with | .window tl _ _ => if e.peer && s.otherGang l tl then some (Fail.gone tl) else none | .global _ => none
    let r := match gone with | some f => (s, some f) | none => s.writeLoc l e.loc ((vecBytes e.data).take e.n)
    match r with
    | (s, none) => s
    | (s, some f) => s.modTile l (fun t => t.modStrand k (fun st => st.failed f e.pc f.fault.2))

/-! ### Order of performance -/

/-- An access belongs to the die domain (R75). -/
def Access.inDie (a : Access) : Bool := a.path != .far

/-- The global bytes of an access, as base and length. -/
def Access.globals (a : Access) : List (Nat × Nat) :=
  let at1 := fun (loc : Loc) (n : Nat) => match loc with | .global va => [(va, n)] | .window _ _ _ => []
  match a.op with
  | .load n _ | .store n _ => at1 a.loc n
  | .atomic _ _ _ => at1 a.loc 8
  | .accumulate t _ => at1 a.loc t.width
  | .gather w lanes | .scatter w lanes _ => lanes.flatMap (fun p => at1 p.2 (w / 8))
  | .scatterAdd _ _ _ | .release _ _ | .acquire _ _ | .message _ _ _ | .multicast _ _ _ => []

/-- Two accesses go to one target: the SPM of one tile, or common global bytes (R82). R82 orders two stores to one tile and accesses to
one byte; all accesses of a strand to one tile are performed in program order here, loads included (DESIGN CHOICE, entry 24). -/
def Access.sameTarget (a b : Access) : Bool :=
  (match a.op, b.op, a.loc, b.loc with
   | .message _ _ _, _, _, _ | _, .message _ _ _, _, _ => false
   | _, _, .window t _ _, .window u _ _ => t == u
   | _, _, _, _ => false) || a.globals.any (fun p => b.globals.any (overlap p))

/-- R83, R86: the access waits for every earlier access of its strand. -/
def Access.waitsAll (a : Access) : Bool :=
  a.rel || (match a.op with | .acquire _ _ => true | _ => false)

/-- No later load or store of the strand is performed before it: an acquire (R84), an ls atomic (R78) or an ls scatter (R201). -/
def Access.holdsLater (a : Access) : Bool :=
  a.acq || ((a.path == .peer || a.path == .handle) &&
    (match a.op with | .atomic _ _ _ | .accumulate _ _ | .scatter _ _ _ | .scatterAdd _ _ _ => true | _ => false))

/-- The earlier accesses that must be performed before one of a given place in program order: those of the die domain when it
is of the die domain (R76), and those that hold every later one (R78, R84, R201). -/
def mustPrecede (as : List Access) (id : Nat) (inDie : Bool) : List Access :=
  as.filter (fun a => decide (a.id < id) && !a.performed && ((inDie && a.inDie) || a.holdsLater))

/-- The fx operations of a strand before a point of program order are performed (R83). -/
def Tile.fxBefore (t : Tile) (k : StrandId) (id : Nat) : Bool :=
  k != .drain || t.fx.ops.all (fun o => o.performed || decide (id ≤ o.id))

/-- Every access of a strand earlier than a point of program order has been performed (R83). -/
def Tile.allBefore (t : Tile) (k : StrandId) (id : Nat) : Bool :=
  let st := t.strand k
  st.clearBefore id && st.accesses.all (fun a => a.performed || decide (id ≤ a.id)) && t.fxBefore k id

/-- R260: an rsave of the compute strand holds the performance of its later loads and stores. -/
def Tile.rsaveInFlight (t : Tile) (k : StrandId) : Bool :=
  k == .compute && t.vu.accPend.any (fun p => match p with | .rsave _ _ _ => true | _ => false)

/-- The orders of R76 to R86 and R260 allow an access to be performed now. -/
def State.mayPerform (s : State) (l : Nat) (k : StrandId) (a : Access) : Bool :=
  let t := s.tile l
  let st := t.strand k
  !t.rsaveInFlight k && t.fxAcquired k a.id && (mustPrecede st.accesses a.id a.inDie).isEmpty &&
  (a.op.isLoad || !a.inDie || st.clearBefore a.id) &&
  st.accesses.all (fun b => b.performed || decide (a.id ≤ b.id) || (a.inDie && b.inDie) || !b.sameTarget a) &&
  (a.inDie || st.sb.all (fun e => decide (a.id ≤ e.id) ||
    !(match e.loc with | .global va => a.globals.any (overlap (va, e.n)) | .window _ _ _ => false))) &&
  (match a.op with | .message _ _ _ => decide (t.nx.held.length < 8) | _ => true) &&
  (!a.waitsAll || t.allBefore k a.id) &&
  (match a.op with
   | .acquire _ _ => st.accesses.all (fun b => decide (a.id ≤ b.id) || !b.countsLd) && st.localLd.all (fun d => decide (d ≤ s.cycle))
   | _ => true)

/-- The orders of R76, R77, R83, R84 and R260 allow the oldest store of a strand to be performed now. -/
def State.mayDrain (s : State) (l : Nat) (k : StrandId) (e : StoreEntry) : Bool :=
  let t := s.tile l
  let st := t.strand k
  !t.rsaveInFlight k && t.fxAcquired k e.id &&
  st.accesses.all (fun a => a.performed || decide (e.id ≤ a.id) || !(a.inDie || a.holdsLater)) &&
  st.accesses.all (fun a => a.performed || decide (e.id ≤ a.id) || !a.home ||
    !(match e.loc with | .global va => a.globals.any (overlap (va, e.n)) | .window _ _ _ => false)) &&
  (!e.rel || t.allBefore k e.id)

/-- R78, R83, R84, R376, R378: the orders allow a one-sided operation or fence to be performed now. -/
def State.fxMay (s : State) (l : Nat) (f : FxOpFlight) : Bool :=
  let t := s.tile l
  let st := t.drain
  t.fxAcquired .drain f.id && st.accesses.all (fun a => !a.holdsLater || a.performed || decide (f.id ≤ a.id)) &&
  t.fx.ops.all (fun g => decide (f.id ≤ g.id) || g.performed || !s.fxOverlap (s.ctxOf l) g f) &&
  (f.op != .fence || (t.fx.ops.all (fun g => decide (f.id ≤ g.id) || g.performed || g.fpid != f.fpid) && st.clearBefore f.id &&
    st.accesses.all (fun a => a.performed || decide (f.id ≤ a.id))))

/-- The tile whose interface an access reaches (R291); none for its own or for global bytes. -/
def Access.target (a : Access) (l : Nat) : Option Nat :=
  match a.op, a.loc with
  | .message t _ _, _ => some t
  | .release _ _, _ | .acquire _ _, _ | .multicast _ _ _, _ => none
  | _, .window t _ _ => if t = l then none else some t
  | _, .global _ => none

/-- The access carries a message. -/
def Access.isMessage (a : Access) : Bool := match a.op with | .message _ _ _ => true | _ => false

/-- Performs an access whose turn has come; one that reaches a gated tile waits for it to wake (R291). A message enters its mailbox in the cycle
after. -/
def State.tryPerform (s : State) (l : Nat) (k : StrandId) (id : Nat) : State :=
  match ((s.tile l).strand k).accesses.find? (fun a => a.id == id) with
  | none => s
  | some a =>
    if a.performed || s.cycle < a.due || !s.mayPerform l k a then s
    else match a.target l with
    | none => s.performAccess l k a
    | some tl =>
      let r := s.arrive tl a.isMessage
      let at1 := r.2 - b2n a.isMessage
      if at1 ≤ s.cycle then r.1.performAccess l k a
      else r.1.modTile l (fun t => t.modStrand k (fun st =>
        { st with accesses := st.accesses.map (fun b => if b.id = id then { b with due := at1 } else b) }))

/-! ### Performing what must come first -/

/-- The places in program order of what a strand has still to perform before a point: accesses, buffered stores, and for the
drain strand one-sided operations and fences. -/
def Tile.owed (t : Tile) (k : StrandId) (id : Nat) : List Nat :=
  let st := t.strand k
  let ids := (st.accesses.filter (fun a => !a.performed)).map Access.id ++ st.sb.map StoreEntry.id ++
    (if k == .drain then t.fx.ops.map FxOpFlight.id else [])
  (ids.filter (fun n => decide (n < id))).insertionSort (· ≤ ·)

/-- Of these, what must be performed before an operation of the die domain (R76, R78, R84, R201, R378). -/
def Tile.needed (t : Tile) (k : StrandId) (id : Nat) : List Nat :=
  let st := t.strand k
  let ids := (mustPrecede st.accesses id true).map Access.id ++
    (if k == .drain then (t.fx.ops.filter (fun o => fxAtomic o.op && decide (o.id < id))).map FxOpFlight.id else [])
  ids.insertionSort (· ≤ ·)

/-- The oldest store leaves the buffer for a tile that it wakes where it is gated (R291). -/
def State.drainNow (s : State) (l : Nat) (k : StrandId) (e : StoreEntry) : State :=
  match e.loc with
  | .global _ => s.drainHead l k
  | .window tl _ _ => if tl = l then s.drainHead l k else (s.arrive tl false).1.drainHead l k

/-- Performs the owed operation of a place in program order where the orders allow it; an atomic of fx lands as well. -/
def State.performOwed (s : State) (l : Nat) (k : StrandId) (id : Nat) : State :=
  let t := s.tile l
  match (t.strand k).accesses.find? (fun a => a.id == id) with
  | some a =>
    if a.performed || !s.mayPerform l k a then s
    else match a.target l with
    | none => s.performAccess l k a
    | some tl => (s.arrive tl a.isMessage).1.performAccess l k a
  | none =>
    match (t.strand k).sb.head? with
    | some e => if e.id = id then (if s.mayDrain l k e then s.drainNow l k e else s) else fx t
    | none => fx t
where
  /-- The same for a one-sided operation or a fence. -/
  fx (t : Tile) : State :=
    match (if k == .drain then t.fx.ops.find? (fun o => o.id == id) else none) with
    | none => s
    | some o =>
      if o.performed then s.fxLand l o
      else if !s.fxMay l o then s
      else if o.op = .fence then s.fencePerform l o
      else
        let s := s.fxPerformOp l o s.cycle
        match (s.tile l).fx.ops.find? (fun g => g.id == id) with
        | some g => s.fxLand l g
        | none => s

/-- Performs the owed operations of some places in program order, and before each of these what it waits for itself. Their moment is not
fixed, so that they are performed no later than this is within R286. -/
def State.forceIds (s : State) (l : Nat) (k : StrandId) (ids : List Nat) : State :=
  ids.foldl (fun s n =>
    let s := s.performOwed l k n
    if ((s.tile l).owed k (n + 1)).contains n then (((s.tile l).owed k n).foldl (fun s m => s.performOwed l k m) s).performOwed l k n
    else s) s

/-- Performs, in program order, what must precede an operation of the die domain that is performed in this cycle. -/
def State.forceBefore (s : State) (l : Nat) (k : StrandId) (id : Nat) : State := s.forceIds l k ((s.tile l).needed k id)

/-- Performs what must precede a local atomic, a local scatter or an rsave: the same, and then the buffered stores earlier in program order,
each in its own order (R78, R83, R201, R260). -/
def State.forceStores (s : State) (l : Nat) (k : StrandId) (id : Nat) : State :=
  let s := s.forceBefore l k id
  s.forceIds l k ((((s.tile l).strand k).sb.map StoreEntry.id).filter (fun n => decide (n < id)))

/-- Every tile that an owed operation reaches is awake (R291). -/
def State.awake (s : State) (l : Nat) (k : StrandId) (id : Nat) : Bool :=
  let st := (s.tile l).strand k
  let up := fun (tl : Nat) => decide ((s.arrive tl false).2 ≤ s.cycle)
  st.accesses.all (fun a => a.performed || decide (id ≤ a.id) || (a.target l).all up) &&
  st.sb.all (fun e => match e.loc with | .window tl _ _ => decide (tl = l) || up tl | .global _ => true)

/-- What must precede an operation of the die domain can be performed in this cycle. -/
def State.canForce (s : State) (l : Nat) (k : StrandId) (id : Nat) : Bool :=
  ((s.tile l).needed k id).isEmpty || (s.awake l k id && (((s.forceBefore l k id).tile l).needed k id).isEmpty)

/-- What must precede a local atomic, a local scatter or an rsave can be performed in this cycle. -/
def State.canClear (s : State) (l : Nat) (k : StrandId) (id : Nat) : Bool :=
  s.canForce l k id && (((s.tile l).strand k).clearBefore id ||
    (s.awake l k id && (((s.forceStores l k id).tile l).strand k).clearBefore id && (((s.forceStores l k id).tile l).needed k id).isEmpty))

/-- A local access of ls may be performed in this cycle. Peer and handle accesses in flight do not hold it (R163); behind an acquire or a
fabric atomic it may wait until that is performed (R84): a free choice (entries 7 and 24). -/
def State.localTurn (s : State) (l : Nat) (k : StrandId) (id : Nat) : Bool :=
  let t := s.tile l
  s.canForce l k id &&
  (((t.strand k).accesses.all (fun a => a.performed || !a.acq) && t.fxAcquired k id) || Config.choice s.free)

/-! ### Returning a value (R163, R166) -/

/-- Returns the value of a performed access: to its port, or to its register from this cycle on (R166, R167). -/
def State.returnAccess (s : State) (l : Nat) (k : StrandId) (id : Nat) : State :=
  match ((s.tile l).strand k).accesses.find? (fun a => a.id == id) with
  | none => s
  | some a =>
    if !(a.performed && decide (a.ret ≤ s.cycle)) then s
    else s.modTile l (fun t => t.modStrand k (fun st =>
      let st := st.dropAccess a
      match a.map with
      | some n => { st with mapped := st.mapped ++ [Mapped.mk n (a.value.setWidth 64) s.cycle true (a.path == .near || a.path == .far)] }
      | none => st.complete a.id s.cycle (resV a.value)))

/-- Puts an access in flight with its counters, and a flight at its port where it delivers to one (R79, R163). -/
def Strand.pushAccess (st : Strand) (a : Access) : Strand :=
  let a := { a with id := st.nextId }
  let st := match a.port, a.map with
    | some p, none => st.fly none p (res64 0) true
    | _, _ => { st with nextId := st.nextId + 1 }
  let st := { st with accesses := st.accesses ++ [a] }
  let st := if a.countsLd then st.addLd else st
  if a.countsSt then st.addSt else st

/-- R167: register xN is pending. -/
def Strand.pending (st : Strand) (n : Fin 64) : Bool :=
  st.accesses.any (fun a => a.map == some n) || st.mapped.any (fun m => m.pend && m.reg == n)

/-- R167: a later access or state move to xN drops the mapped writes of xN that have not landed. -/
def Strand.dropMapped (st : Strand) (n : Fin 64) : Strand := { st with mapped := st.mapped.filter (fun m => m.reg != n) }

/-- R166, R167: the mapped values due in a cycle land in their registers; at a stopped strand only those of nx (R168, R281). -/
def Strand.landMapped (st : Strand) (now : Nat) (stopped : Bool) : Strand :=
  let lands := fun (m : Mapped) => decide (m.due ≤ now) && (!stopped || m.nx)
  let st := (st.mapped.filter lands).foldl (fun st m => st.setX m.reg m.value) st
  { st with mapped := st.mapped.filter (fun m => !lands m) }

end Sys2Proof.Machine
end

