-- ==== Sys2Proof/Machine/Seq.lean ====
section
/-! DEFINITION. The sequencer sockets sys, br, sem and mb (R122 to R139): control registers, waits, branches and hardware
loops, the metadata counter, semaphores and the mailbox, with the queues and heads a bundle pops (R11, R12, R137). -/

namespace Sys2Proof.Machine

/-- LAT_SYS (R122). -/
def latSys : Nat := 2
/-- LAT_MD (R122). -/
def latMd : Nat := 2
/-- LAT_SEM (R122). -/
def latSem : Nat := 1
/-- LAT_MB (R122). -/
def latMb : Nat := 1

/-! ### Control and status registers (R123, R124, R150) -/

/-- CNTS (R123). -/
def Strand.cnts (st : Strand) (now : Nat) : Nat := st.cpcnt * 2 ^ 16 + st.stcnt * 2 ^ 8 + st.loads now

/-- GORG of a task on a tile (R123). -/
def gorg (t : Option Task) (l : Nat) : Nat :=
  match t with
  | some t => if t.gang then t.gw * 2 ^ 22 + t.gh * 2 ^ 16 + t.origin else 2 ^ 22 + 2 ^ 16 + l
  | none => 2 ^ 22 + 2 ^ 16 + l

/-- TASKID of a task: of member 0 plus the member index (R29, R123). -/
def Task.idWord (t : Task) : Nat := (t.taskid + t.gidx) % 2 ^ 32

/-- The contents of a CSR by index; none where R123 lists none. -/
def State.csr (s : State) (l : Nat) (k : StrandId) (i : Nat) : Option Word :=
  let st := (s.tile l).strand k
  let t := s.taskOn l
  match i with
  | 0x00 => some (st.smode.setWidth 64)
  | 0x01 => some (st.sstat.setWidth 64)
  | 0x02 => some st.cyc
  | 0x03 => some st.issued
  | 0x04 => some st.stall
  | 0x05 => some (st.lodc.setWidth 64)
  | 0x06 => some st.lodcy
  | 0x07 => some (word (st.cnts s.cycle))
  | 0x08 => some (word ((st.inner.map Loop.count).getD 0))
  | 0x09 => some (word ((st.outer.map Loop.count).getD 0))
  | 0x0A => some (word st.mdc)
  | 0x0B => some (word st.rstack.length)
  | 0x10 => some (word l)
  | 0x11 => some (word ((t.map (fun t => if t.gang then t.gidx else 0)).getD 0))
  | 0x12 => some (word (gorg t l))
  | 0x13 => some (word ((t.map Task.idWord).getD 0))
  | 0x14 => some ((t.map Task.ts).getD 0)
  | 0x15 => some (word (s.ctxOf l % 2 ^ 16))
  | 0x20 => some st.bpa[0]
  | 0x21 => some st.bpa[1]
  | 0x22 => some st.bpa[2]
  | 0x23 => some st.bpa[3]
  | 0x24 => some st.dbgctl
  | _ => none

/-- The CSRs that a program may write (R123). -/
def csrWritable (i : Nat) : Bool := i == 0x00 || i == 0x01 || i == 0x05

/-- R20: an operation of the socket of an SMODE bit is in flight for a strand: one with a result, and of ls a peer or handle access, a
mapped value and a local scatter, of sf a racc, of mx a matrix operation, of acc an absorb, rload or rsave. A store in the store buffer has
left ls (R145 tells the two apart). After a resume a valid shadow that waits for its port is no operation in flight (DESIGN CHOICE, entry
29). -/
def Tile.socketBusy (t : Tile) (k : StrandId) (now b : Nat) : Bool :=
  let st := t.strand k
  st.flights.any (fun f => smodeBit f.port == some b) ||
  (match b with
   | 2 => st.accesses.any (fun a => a.path == .peer || a.path == .handle) || !st.mapped.isEmpty || decide (now < st.lsBusy)
   | 6 => !t.vu.raccs.isEmpty
   | 8 => !t.mx.flights.isEmpty
   | 9 => !t.vu.accPend.isEmpty
   | _ => false)

/-- The result ports of a strand that have an SMODE bit. -/
def modePorts : List ResPort := ResPort.all.filter (fun p => (smodeBit p).isSome)

/-- Writes SMODE: a port whose bit changes to free-running keeps its unread result as its value (R20). -/
def Strand.writeSmode (st : Strand) (k : StrandId) (v : Word) : Strand :=
  let m : BitVec 32 := BitVec.ofNat 32 (v.toNat % 2 ^ 32 &&& smodeMask k)
  let freed := modePorts.filter (fun p => match smodeBit p with | some b => bit st.smode b && !bit m b | none => false)
  { freed.foldl (fun st p => st.consume p) st with smode := m }

/-- Writes a CSR (R123, R124). A write that brings LODC to its limit sets no CSAT; the next event does (DESIGN CHOICE, entry 29). -/
def Strand.writeCsr (st : Strand) (k : StrandId) (i : Nat) (v : Word) : Strand :=
  match i with
  | 0x00 => st.writeSmode k v
  | 0x01 => { st with sstat := st.sstat &&& ~~~(v.setWidth 2) }
  | 0x05 => { st with lodc := v.setWidth 32 }
  | _ => st

/-- Bit ATT of DBGCTL (R150). -/
def Strand.att (st : Strand) : Bool := bit st.dbgctl 0
/-- Bit STEP of DBGCTL (R150). -/
def Strand.step? (st : Strand) : Bool := bit st.dbgctl 1
/-- Bit ALLH of DBGCTL (R150). -/
def Strand.allh (st : Strand) : Bool := bit st.dbgctl 2
/-- Bit TRACE of DBGCTL (R150). -/
def Strand.trace (st : Strand) : Bool := bit st.dbgctl 3
/-- Bit BRKM of DBGCTL (R150). -/
def Strand.brkm (st : Strand) : Bool := bit st.dbgctl 4

/-! ### sys (R122 to R128) -/

/-- The checks of a sys trigger at issue. sys.brk with a debugger attached halts instead (R128). -/
def sysCheck (o : SysOp) (i : Iss) (s : State) : Check :=
  match o with
  | .csrr =>
    (need (decide (i.t.toNat ≤ 255)) .operandRange i.slot).andThen
      (need (s.csr i.l i.k i.t.toNat).isSome .csrAccess i.slot)
  | .csrw =>
    (need (decide (i.t.toNat ≤ 255)) .operandRange i.slot).andThen (need (csrWritable i.t.toNat) .csrAccess i.slot)
  | .trap => need (decide (i.t.toNat ≤ 65535)) .operandRange i.slot
  | .brk => need ((i.strand s).brkm || (i.strand s).att) .brk i.slot
  | _ => none

/-- A sys trigger can accept: the counter waits of R125, which order what follows (R80), and the mode write of R20. -/
def sysAccept (o : SysOp) (i : Iss) (s : State) : Bool :=
  let st := i.strand s
  match o with
  | .waitLd => decide (st.loads s.cycle ≤ i.t.toNat)
  | .waitSt => decide (st.stcnt ≤ i.t.toNat)
  | .waitCp => decide (st.cpcnt ≤ i.t.toNat)
  | .csrw =>
    if i.t.toNat = 0 then
      let m : BitVec 32 := BitVec.ofNat 32 ((st.opw 0x001).toNat % 2 ^ 32 &&& smodeMask i.k)
      (List.range 10).all (fun b => bit m b == bit st.smode b || !(i.tile s).socketBusy i.k s.cycle b)
    else true
  | _ => true

/-- The effect of a sys trigger. sys.trap and sys.brk act through the issue of their bundle. -/
def sysStart (o : SysOp) (i : Iss) (s : State) : State :=
  match o with
  | .csrr =>
    i.modStrand s (fun st => st.flyAt (s.cycle + latSys) .sysRes (res64 ((s.csr i.l i.k i.t.toNat).getD 0)))
  | .csrw => i.modStrand s (fun st => st.writeCsr i.k i.t.toNat (st.opw 0x001))
  | .ending => i.modStrand s (fun st => { st with run := .ended, inner := none, outer := none, rstack := [] })
  | .waitLd | .waitSt | .waitCp | .trap | .brk => s

/-! ### br (R129 to R132) -/

/-- A word of the metadata store (R132). -/
def Tile.metaWord (t : Tile) (i : Nat) : Word := mget t.metaStore (i % 2048) 0

/-- The inner loop ends; the outer loop, if any, becomes the inner one (R130). -/
def Strand.dropInner (st : Strand) : Strand := { st with inner := st.outer, outer := none }

/-- SeqNext of R130: the loop step, at most twice over. -/
def Strand.seqNext (st : Strand) (pc : Nat) : Nat → Strand × Nat
  | 0 => (st, pc + 1)
  | n + 1 =>
    match st.inner with
    | none => (st, pc + 1)
    | some p =>
      if pc = p.stop then
        if 1 < p.count then ({ st with inner := some { p with count := p.count - 1 } }, p.start)
        else st.dropInner.seqNext pc n
      else (st, pc + 1)

/-- NextIndex of R130 for a bundle at pc and the br trigger it performs: the strand with its loops and return stack, and
the index it goes to. -/
def Strand.nextIndex (st : Strand) (t : Tile) (pc : Nat) (o : Option (BrOp × Word)) : Strand × Nat :=
  match o with
  | some (.jmp, v) => (st, v.toNat % 2048)
  | some (.ret, _) => ({ st with rstack := st.rstack.drop 1 }, st.rstack.headD 0)
  | some (.mdjmp, v) => (st, (t.metaWord (st.mdc + v.toNat % 2048)).toNat % 2048)
  | some (.lexit, _) => (st.dropInner, (st.inner.map (fun p => p.stop + 1)).getD (pc + 1))
  | some (.loop, v) =>
    let n := (st.opw 0x020).toNat % 2 ^ 32
    if n = 0 then (st, v.toNat + 1)
    else ({ st with inner := some ⟨pc + 1, v.toNat, n⟩, outer := st.inner }, pc + 1)
  | some (.call, v) =>
    let r := st.seqNext pc 3
    ({ r.1 with rstack := r.2 :: r.1.rstack }, v.toNat % 2048)
  | some (.mdset, _) | some (.mdrd, _) | none => st.seqNext pc 3

/-- R131: the index the strand would go to, or the return index a call would push, is 2048. -/
def Strand.overruns (st : Strand) (t : Tile) (pc : Nat) (o : Option (BrOp × Word)) : Bool :=
  let r := st.nextIndex t pc o
  decide (r.2 = 2048) || (match o with | some (.call, _) => r.1.rstack.headD 0 == 2048 | _ => false)

/-- The checks of a br trigger at issue (R122, R129, R130). -/
def brCheck (o : BrOp) (i : Iss) (s : State) : Check :=
  let st := i.strand s
  let limit := need (decide (i.t.toNat ≤ 2047)) .operandRange i.slot
  match o with
  | .jmp | .mdset | .mdjmp => limit
  | .call => limit.andThen (need (decide (st.rstack.length < 8)) .stack 0)
  | .ret => need (decide (st.rstack ≠ [])) .stack 1
  | .lexit => need st.inner.isSome .loopNest i.slot
  | .mdrd => none
  | .loop =>
    (limit.andThen (need (decide ((st.opw 0x020).toNat < 2 ^ 32)) .operandRange i.slot)).andThen
      (need (decide (st.pc + 1 ≤ i.t.toNat) &&
        (match st.inner, st.outer with
         | some _, some _ => false
         | some p, none => decide (p.start ≤ st.pc + 1) && decide (i.t.toNat ≤ p.stop)
         | none, _ => true)) .loopNest i.slot)

/-- The effects of a br trigger other than on the sequence, which `nextIndex` gives (R132). -/
def brStart (o : BrOp) (i : Iss) (s : State) : State :=
  match o with
  | .mdset => i.modStrand s (fun st => { st with mdc := i.t.toNat % 2048 })
  | .mdrd =>
    i.modStrand s (fun st =>
      { st.flyAt (s.cycle + latMd) .brRes (res64 ((i.tile s).metaWord st.mdc)) with mdc := (st.mdc + 1) % 2048 })
  | .mdjmp => i.modStrand s (fun st => { st with repLeft := st.repLeft + 1 })
  | .jmp | .call | .ret | .loop | .lexit => s

/-! ### sem (R133 to R135) -/

/-- A semaphore count (R13). -/
def Tile.sem (t : Tile) (n : Nat) : Nat := t.sems[n % 64].toNat

/-- Writes a semaphore count. -/
def Tile.setSem (t : Tile) (n v : Nat) : Tile := { t with sems := t.sems.set (n % 64) (BitVec.ofNat 16 v) }

/-- The checks of a sem trigger at issue (R122). -/
def semCheck (o : SemOp) (i : Iss) (s : State) : Check :=
  (need (decide (i.t.toNat ≤ 63)) .operandRange i.slot).andThen
    (match o with
     | .add | .takek => need (decide (((i.strand s).opw 0x040).toNat ≤ 65535)) .operandRange i.slot
     | _ => none)

/-- What a bundle asks of a semaphore: its number, how much it takes and whether it waits (R133, R134). -/
structure SemDemand where
  n : Nat
  take : Nat
  wait : Bool

/-- The demand of a sem trigger (R133). -/
def semDemand (o : SemOp) (t k : Word) : Option SemDemand :=
  match o with
  | .wait => some ⟨t.toNat, 0, true⟩
  | .take => some ⟨t.toNat, 1, false⟩
  | .takek => some ⟨t.toNat, k.toNat, false⟩
  | .post | .add | .rd => none

/-- The count a condition sees: that at the start of the cycle, less what earlier strands took in this cycle (R13). -/
def Tile.semAvail (t : Tile) (n : Nat) : Nat :=
  t.sem n - ((t.semTakes.filter (fun x => x.2.1 == n)).map (fun x => x.2.2)).sum

/-- R134: the demands of a bundle can be met: each semaphore holds the total taken from it, and at least 1 where the bundle
waits on it. -/
def Tile.semsReady (t : Tile) (ds : List SemDemand) : Bool :=
  ds.all (fun d =>
    decide (((ds.filter (fun e => e.n == d.n)).map SemDemand.take).sum ≤ t.semAvail d.n) &&
    (!d.wait || decide (1 ≤ t.sem d.n)))

/-- A strand's take of a semaphore, applied at the end of the cycle (R13). -/
def Tile.takeSem (t : Tile) (k : StrandId) (n m : Nat) : Tile :=
  if m = 0 then t else { t with semTakes := t.semTakes ++ [(k, n, m)] }

/-- A post that waits for the stores before a point of program order (R88). -/
def Strand.post (st : Strand) (p : PostKind) (after : Nat) : Strand := { st with posts := st.posts ++ [⟨p, after⟩] }

/-- The effect of a sem trigger of a bundle whose first operation has a place in program order (R133). -/
def semStart (o : SemOp) (after : Nat) (i : Iss) (s : State) : State :=
  let n := i.t.toNat
  let k := (i.strand s).opw 0x040
  match o with
  | .post => i.modStrand s (fun st => st.post (.sem n 1) after)
  | .add => i.modStrand s (fun st => st.post (.sem n k.toNat) after)
  | .wait => s
  | .take => s.modTile i.l (fun t => t.takeSem i.k n 1)
  | .takek => s.modTile i.l (fun t => t.takeSem i.k n k.toNat)
  | .rd => i.modStrand s (fun st => st.flyAt (s.cycle + latSem) .semRes (res64 (word ((i.tile s).sem n))))

/-- R13, R135: applies the posts of a cycle, then its takes; a count saturates at 0xFFFF, setting SOVF in the posting
strand. -/
def Tile.applySems (t : Tile) : Tile :=
  let t := t.semPosts.foldl (fun t p =>
    let v := t.sem p.2.1 + p.2.2
    if 0xFFFF < v then (t.setSem p.2.1 0xFFFF).modStrand p.1 (fun st => { st with sstat := st.sstat ||| 1 })
    else t.setSem p.2.1 v) t
  let t := t.semTakes.foldl (fun t p => t.setSem p.2.1 (t.sem p.2.1 - p.2.2)) t
  { t with semPosts := [], semTakes := [] }

/-- A post by an agent of the device: it saturates and sets SOVF in no strand (R135). -/
def Tile.agentPost (t : Tile) (n : Nat) : Tile := t.setSem n (min 0xFFFF (t.sem n + 1))

/-- R88: moves the posts of a strand that no earlier store holds back into the posts of the cycle, in program order. -/
def Tile.releasePosts (t : Tile) (k : StrandId) : Tile :=
  let st := t.strand k
  let ready := fun (p : Post) => match p.kind with | .sem _ _ => st.clearBefore p.after | _ => false
  let t := t.setStrand k { st with posts := st.posts.filter (fun p => !ready p) }
  { t with semPosts := t.semPosts ++
      (st.posts.filter ready).filterMap (fun p => match p.kind with | .sem n m => some (k, n, m) | _ => none) }

/-- R172: moves the ring commits of a strand that no earlier store holds back into those of the cycle. -/
def Tile.releaseRings (t : Tile) (k : StrandId) : Tile :=
  let st := t.strand k
  let ready := fun (p : Post) => match p.kind with | .sem _ _ => false | _ => st.clearBefore p.after
  let t := t.setStrand k { st with posts := st.posts.filter (fun p => !ready p) }
  { t with ringRel := t.ringRel ++ (st.posts.filter ready).map Post.kind }

/-! ### The mailbox (R136 to R138) -/

/-- The messages of a mailbox that a bundle of this cycle sees (R137). -/
def Strand.mail (st : Strand) (now : Nat) : List Word := (st.mailbox.filter (fun p => decide (p.1 < now))).map (·.2)

/-- A mailbox has room for a message in this cycle (R137: a pop frees its entry from the next cycle). -/
def Strand.mailRoom (st : Strand) (now : Nat) : Bool := decide (st.mailbox.length + b2n (st.mailPop == now + 1) < 16)

/-- A message enters a mailbox (R137). -/
def Strand.mailIn (st : Strand) (now : Nat) (w : Word) : Strand := { st with mailbox := st.mailbox ++ [(now, w)] }

/-- The frame of a mailbox message (R136). -/
def mailWord (type src body : Nat) : Word := word (type * 2 ^ 60 + src % 2 ^ 12 * 2 ^ 48 + body % 2 ^ 48)

/-- The checks of an mb trigger at issue (R122). -/
def mbCheck (o : MbOp) (i : Iss) : Check :=
  match o with
  | .wait => need (decide (i.t.toNat ≤ 16)) .operandRange i.slot
  | _ => none

/-- An mb trigger can accept (R137). -/
def mbAccept (o : MbOp) (i : Iss) (s : State) : Bool :=
  let n := ((i.strand s).mail s.cycle).length
  match o with
  | .wait => decide (i.t.toNat ≤ n)
  | .pop => decide (1 ≤ n)
  | .cnt => true

/-- The effect of an mb trigger; the pop of the entry is the bundle's (R137). -/
def mbStart (o : MbOp) (i : Iss) (s : State) : State :=
  let m := (i.strand s).mail s.cycle
  match o with
  | .wait => s
  | .pop => i.modStrand s (fun st => st.flyAt (s.cycle + latMb) .mbRes (res64 (m.headD 0)))
  | .cnt => i.modStrand s (fun st => st.flyAt (s.cycle + latMb) .mbRes (res64 (word m.length)))

/-! ### Inter-strand queues (R11, R12) -/

/-- The depth of an inter-strand queue (R11). -/
def queueDepth (n : Fin 8) : Nat := if n.val < 6 then 16 else 8

/-- The producer and consumer of an inter-strand queue (R11). -/
def queueEnds (n : Fin 8) : StrandId × StrandId :=
  if n.val < 4 then (.feed, .compute) else if n.val < 6 then (.compute, .drain)
  else if n.val = 6 then (.compute, .feed) else (.drain, .feed)

/-- The head entry that a bundle of this cycle sees, with its width (R12). -/
def Queue.head (q : Queue) (now : Nat) : Option (Nat × Vec) :=
  match q.entries with
  | (c, w, v) :: _ => if c < now then some (w, v) else none
  | [] => none

/-- The tail accepts a write in this cycle: the occupancy at the start of the cycle is below the depth (R12). `lastPop` holds
one more than the cycle of the last pop. -/
def Queue.room (q : Queue) (depth now : Nat) : Bool :=
  decide ((q.entries.filter (fun e => decide (e.1 < now))).length + b2n (q.lastPop == now + 1) < depth)

/-- Writes the tail (R12). -/
def Queue.push (q : Queue) (now w : Nat) (v : Vec) : Queue := { q with entries := q.entries ++ [(now, w, v)] }

/-- Pops the head (R12). -/
def Queue.pop (q : Queue) (now : Nat) : Queue := { entries := q.entries.drop 1, lastPop := now + 1 }

end Sys2Proof.Machine
end

