-- ==== Sys2Proof/Machine/Stream.lean ====
section
/-! DEFINITION. The stream generators st0 to st3 (R173 to R180), selectors and regions as accesses name them (R46, R160), and the
bytes that copies hold (R90). -/

namespace Sys2Proof.Machine

/-- LAT_LS (R163). -/
def latLs : Nat := 4

/-! ### Selectors and regions -/

/-- SPACE of a selector (R160). -/
def selSpace (v : Word) : Nat := field v 11 10
/-- P of a selector (R160). -/
def selP (v : Word) : Nat := field v 9 8
/-- T of a selector (R160). -/
def selT (v : Word) : Nat := field v 7 4
/-- IDX of a selector (R160). -/
def selIdx (v : Word) : Nat := field v 3 0

/-- The kinds of access that MODE limits (R70). -/
inductive AccessKind where
  | load | store | atomic | accumulate
  deriving DecidableEq, Repr

/-- R70: what a region's MODE permits. An aacc through a handle of MODE ACC has the type ACCT (R165). -/
def modePermits (mode : Nat) : AccessKind → Bool
  | .load => decide (mode = 0) || decide (mode = 2)
  | .store => decide (mode = 1) || decide (mode = 2)
  | .atomic => decide (mode = 2)
  | .accumulate => decide (mode = 2) || decide (mode = 3)

/-- R46: a handle as a source reads as its handle word; zero at or above NREG. -/
def Tile.handleWord (t : Tile) (k : Nat) : Word :=
  match t.regions[k]? with
  | some r => word (2 ^ 63 + r.mode * 2 ^ 56 + k * 2 ^ 52 + r.extent)
  | none => 0

/-- R46: a window as a source. -/
def Tile.windowWord (t : Tile) (k : Nat) : Word :=
  match t.windows[k]? with
  | some w => word (w.base * 2 ^ 32 + w.size)
  | none => 0

/-- The checks of an access through a handle of n bytes at an offset: the index, the extent, and MODE or a closed record
(R70, R161, R320). The details are the offset. -/
def Tile.checkHandle (t : Tile) (h off n : Nat) (kind : AccessKind) : Check :=
  match t.regions[h]? with
  | none => some (.regionBounds, off)
  | some r =>
    (need (decide (off + n ≤ r.extent)) .regionBounds off).andThen
      (need (modePermits r.mode kind && !r.closed) .regionPerm off)

/-- The base of a handle's region. -/
def Tile.handleBase (t : Tile) (h : Nat) : Nat := ((t.regions[h]?).map Region.base).getD 0

/-! ### The range scoreboard (R90) -/

/-- Unretired copies of the tile. -/
def Tile.copies (t : Tile) : List Copy := t.cpi.copies ++ t.cpo.copies

/-- A byte range, as base and length, holds an SPM byte. -/
def inRange (f : Option (Nat × Nat)) (a : Nat) : Bool :=
  match f with
  | some (b, n) => decide (b ≤ a) && decide (a < b + n)
  | none => false

/-- R260: a byte that an rsave in flight has still to write. -/
def Tile.rsaveHolds (t : Tile) (a : Nat) : Bool :=
  t.vu.accPend.any (fun p => match p with | .rsave as _ _ => as.contains a | _ => false)

/-- The format of a collective's elements; none for one that R382 does not accept (R381). -/
def collFmt (cn : Word) : Option Fmt :=
  match fmtOf (field cn 36 32) with
  | some .i32 => some .i32
  | some .i64 => some .i64
  | some .bf16 => some .bf16
  | some .fp32 => some .fp32
  | some .fp64 => some .fp64
  | _ => none

/-- The bytes of a collective's bucket; none for a barrier (R381, R386). -/
def Collective.bytes (x : Collective) : Nat :=
  if field x.ccfg 23 22 = 3 then 0 else field x.cn 31 0 * (((collFmt x.cn).map Fmt.bits).getD 0 / 8)

/-- R272, R383: the footprint of a ready collective's window bucket, as base and length. -/
def Collective.foot (x : Collective) (t : Tile) : Option (Nat × Nat) :=
  if !x.ready || field x.cb 13 12 ≠ 0 || x.bytes = 0 then none
  else
    let w := t.window (field x.cb 3 0)
    let a := wrapWindow x.off w.size
    if w.size = 0 then none
    else if x.bytes ≤ w.size ∧ wrapWindow (x.off + x.bytes - 1) w.size = a + (x.bytes - 1) then some (w.base + a, x.bytes) else some (w.base, w.size)

/-- R383: a byte lies in the bucket of a ready collective. -/
def Tile.collHolds (t : Tile) (a : Nat) : Bool := t.fx.colls.any (fun x => inRange (x.foot t) a)

/-- R90, R383: a load waits while it overlaps a copy's destination; a store or atomic while it overlaps a source or destination;
each waits for the bucket of a ready collective. -/
def Tile.copyHolds (t : Tile) (isLoad : Bool) (as : List (Option Nat)) : Bool :=
  as.any (fun a => match a with
    | some x => t.copies.any (fun c => inRange c.dfoot x || (!isLoad && inRange c.sfoot x)) || t.collHolds x
    | none => false)

/-- R260: an access of ls or a stream fetch waits for the bytes of an rsave in flight. -/
def Tile.rsaveStops (t : Tile) (as : List (Option Nat)) : Bool := as.any (fun a => a.any t.rsaveHolds)

/-- R240: a byte that a matrix operation inside its read span reads. -/
def Tile.mxReads (t : Tile) (now : Nat) (as : List (Option Nat)) : Bool :=
  t.mx.flights.any (fun f => decide (now ≤ f.spanEnd) && as.any (fun a => match a with | some x => f.bytes.contains x | none => false))

/-! ### Streams (R173 to R180) -/

/-- The owner of a generator (R173). -/
def stOwner (k : Fin 4) : StrandId := if k.val < 2 then .feed else .drain

/-- The destination number of port 0 of a generator (R173). -/
def stBase (k : Fin 4) : Nat := 0x280 + 0x20 * k.val

/-- NDIM (R174). -/
def stNdim (c : Word) : Nat := field c 9 8
/-- ORD (R174). -/
def stOrd (c : Word) : Bool := bit c 7
/-- SX (R174). -/
def stSx (c : Word) : Bool := bit c 6
/-- The element size in bytes, 2^ESZ (R174). -/
def stEsz (c : Word) : Nat := 2 ^ field c 2 0
/-- The count of a dimension word (R174). -/
def dimN (d : Word) : Nat := field d 63 32
/-- The signed byte stride of a dimension word (R174). -/
def dimS (d : Word) : Int := signed 32 (field d 31 0)

/-- The counts of the three dimensions; an unused one is 1 (R175). -/
def Stream.counts (x : Stream) : Nat × Nat × Nat :=
  (dimN x.d0, if 2 ≤ stNdim x.cfg then dimN x.d1 else 1, if 3 ≤ stNdim x.cfg then dimN x.d2 else 1)

/-- The number of elements of a stream. -/
def Stream.total (x : Stream) : Nat := x.counts.1 * x.counts.2.1 * x.counts.2.2

/-- The offset of element j (R175). -/
def Stream.offset (x : Stream) (j : Nat) : Nat :=
  let c := x.counts
  let o := (x.base.toNat : Int) + (j % c.1 : Nat) * dimS x.d0 + (j / c.1 % c.2.1 : Nat) * dimS x.d1 +
    (j / (c.1 * c.2.1) : Nat) * dimS x.d2
  unsign 64 o

/-- The first index of a run of N values from o in steps of s that lies outside [lo, hi] (R176). -/
def firstOut (o s : Int) (n : Nat) (lo hi : Int) : Option Nat :=
  if o < lo ∨ hi < o then (if n = 0 then none else some 0)
  else
    let i := if 0 < s then ((hi - o) / s).toNat + 1 else if s < 0 then ((o - lo) / (-s)).toNat + 1 else n
    if i < n then some i else none

/-- The interval of starts from which N steps of s stay inside [lo, hi]. -/
def inside (s : Int) (n : Nat) (lo hi : Int) : Int × Int :=
  let d := ((n - 1 : Nat) : Int) * s
  (max lo (lo - d), min hi (hi - d))

/-- R176: the first element of a handle stream with a byte at or above EXTENT. No run of a used dimension passes through
2^64 back into the region, since it spans at most 2^63 bytes. -/
def Stream.firstBad (x : Stream) (extent : Nat) : Option Nat :=
  let c := x.counts
  let o : Int := x.base.toNat
  let hi : Int := (extent : Int) - stEsz x.cfg
  let r0 := inside (dimS x.d0) c.1 0 hi
  let r1 := inside (dimS x.d1) c.2.1 r0.1 r0.2
  match firstOut o (dimS x.d2) c.2.2 r1.1 r1.2 with
  | none => none
  | some i2 =>
    let o2 : Int := unsign 64 (o + i2 * dimS x.d2)
    let i1 := (firstOut o2 (dimS x.d1) c.2.1 r0.1 r0.2).getD 0
    let o1 : Int := unsign 64 (o2 + i1 * dimS x.d1)
    let i0 := (firstOut o1 (dimS x.d0) c.1 0 hi).getD 0
    some (i0 + c.1 * (i1 + c.2.1 * i2))

/-- The parameters that an open captures (R176). -/
def stCapture (k : Fin 4) (i : Iss) (s : State) : Stream :=
  let st := i.strand s
  let b := stBase k
  { opened := true, pc := st.pc, sel := st.opw b, base := st.opw (b + 1), d0 := st.opw (b + 2), d1 := st.opw (b + 3),
    d2 := st.opw (b + 4), cfg := st.opw (b + 5), since := s.cycle, after := st.nextId, next := 0, elems := [], refetch := [],
    lastPop := 0 }

/-- The checks of open (R176, R320). -/
def stOpenCheck (k : Fin 4) (i : Iss) (s : State) : Check :=
  let t := i.tile s
  let x := stCapture k i s
  let nd := stNdim x.cfg
  let idx := selIdx x.sel
  (need (decide (nd ≠ 0) && decide (dimN x.d0 ≠ 0) && (decide (nd < 2) || decide (dimN x.d1 ≠ 0)) &&
      (decide (nd < 3) || decide (dimN x.d2 ≠ 0)) && (!stSx x.cfg || decide (stEsz x.cfg ≤ 8)) &&
      (decide (selSpace x.sel = 0) || decide (selSpace x.sel = 2))) .operandRange i.slot).andThen
    (if selSpace x.sel = 0 then need (decide (idx < t.windows.length)) .regionBounds i.slot
     else match t.regions[idx]? with
       | none => some (.regionBounds, i.slot)
       | some r =>
         (need ((decide (r.mode = 0) || decide (r.mode = 2)) && !r.closed) .regionPerm x.base.toNat).andThen
           (match x.firstBad r.extent with
            | some j => some (.regionBounds, x.offset j)
            | none => none))

/-- The checks of a stream trigger; close has none (R179). -/
def stCheck (k : Fin 4) (o : StOp) (i : Iss) (s : State) : Check :=
  match o with
  | .opening => stOpenCheck k i s
  | .closing => none

/-- Replaces a generator. -/
def Tile.setStream (t : Tile) (k : Fin 4) (x : Stream) : Tile := { t with streams := t.streams.set k.val x k.isLt }

/-- The effect of a stream trigger (R176, R179). -/
def stStart (k : Fin 4) (o : StOp) (i : Iss) (s : State) : State :=
  match o with
  | .opening => s.modTile i.l (fun t => t.setStream k (stCapture k i s))
  | .closing => s.modTile i.l (fun t => t.setStream k .idle)

/-- The location of element j. -/
def Stream.loc (x : Stream) (t : Tile) (l j : Nat) : Loc :=
  if selSpace x.sel = 0 then .window l (selIdx x.sel) (x.offset j)
  else .global (t.handleBase (selIdx x.sel) + x.offset j)

/-! ### The lines of speculative tasks (R325) -/

/-- The global bytes, as base and length, of what a tile has accepted and not performed: accesses, buffered stores and stream fetches (R325). -/
def Tile.pendingRanges (t : Tile) : List (Nat × Nat) :=
  allStrands.flatMap (fun k =>
    let st := t.strand k
    (st.accesses.filter (fun a => !a.performed)).flatMap Access.globals ++
    st.sb.filterMap (fun e => match e.loc with | .global va => some (va, e.n) | .window _ _ _ => none)) ++
  t.streams.toList.flatMap (fun x =>
    if selSpace x.sel = 0 then [] else (x.elems.filter (fun e => !e.returned)).map (fun e => (t.handleBase (selIdx x.sel) + x.offset e.j, stEsz x.cfg)))

/-- The physical lines of some virtual ranges of a context. -/
def Context.linesOf (x : Context) (rs : List (Nat × Nat)) : List Nat := (rs.flatMap (fun r => x.lines r.1 r.2)).dedup

/-- The lines of a speculative task that a die counts: those that it holds there, its deltas' among them, and while it is placed on the die those
that it has read and those of its accesses in flight. A line that a task both reads and writes counts once (R325; DESIGN CHOICE, entry 30). -/
def State.taskLines (s : State) (d : Fin 8) (c : Nat) (t : Task) : List Nat :=
  let x := s.ctx c
  let placed := match t.ltn with
    | some l => if dieOf l = d then t.readSet ++ x.linesOf (s.tile l).pendingRanges else []
    | none => []
  (((s.die d).held.filter (fun h => h.ctx == c && h.uid == t.uid)).map HeldLine.line ++
    ((s.die d).deltas.filter (fun e => e.ctx == c && e.uid == t.uid)).filterMap (fun e => (x.translate e.va).map lineOf) ++ placed).dedup

/-- The lines that a die counts for its speculative tasks (R325). -/
def State.specLines (s : State) (d : Fin 8) : Nat :=
  (s.ctxs.map (fun p => ((p.2.tasks.filter Task.speculating).map (fun t => (s.taskLines d p.1 t).length)).sum)).sum

/-- R325: the die has room for the lines that an access of a speculative task to some global bytes adds to those it counts already. -/
def State.specRoom (s : State) (l : Nat) (rs : List (Nat × Nat)) : Bool :=
  match (s.taskOn l).filter Task.speculating with
  | none => true
  | some t =>
    let d := dieOf l
    let c := s.ctxOf l
    let fresh := ((s.ctx c).linesOf rs).filter (fun n => !(s.taskLines d c t).contains n)
    fresh.isEmpty || decide (s.specLines d + fresh.length ≤ 32768)

/-- The global bytes of n bytes at a location. -/
def Loc.range (loc : Loc) (n : Nat) : List (Nat × Nat) := match loc with | .global va => [(va, n)] | .window _ _ _ => []

/-- The head entry of an element from its bytes (R175). -/
def Stream.entry (x : Stream) (bs : List Byte) : Vec :=
  if stEsz x.cfg ≤ 8 then loadValue (stEsz x.cfg) (stSx x.cfg) bs else bytesVec bs

/-- The width of the head entries of a stream (R175). -/
def Stream.width (x : Stream) : Nat := if stEsz x.cfg ≤ 8 then 64 else 1024

/-- The head entry that a bundle of this cycle sees (R177, R178). -/
def Stream.head (x : Stream) (now : Nat) : Option (Nat × Vec) :=
  match x.elems with
  | e :: _ => if e.returned && decide (e.ready ≤ now) && !x.refetch.contains e.j then some (x.width, e.value) else none
  | [] => none

/-- Pops the head; a stream whose last element has been popped becomes idle (R179). `lastPop` holds one more than the cycle of
the last pop. -/
def Stream.pop (x : Stream) (now : Nat) : Stream :=
  let es := x.elems.drop 1
  if es.isEmpty && decide (x.total ≤ x.next) then { Stream.idle with lastPop := now + 1 }
  else { x with elems := es, lastPop := now + 1 }

/-- Reads an element's bytes: from memory, and with ORD also from the store buffer of the owning strand (R177, R178). -/
def State.readElement (s : State) (l : Nat) (k : Fin 4) (x : Stream) (j : Nat) : State × Except Fail Vec :=
  let loc := x.loc (s.tile l) l j
  let r := if stOrd x.cfg then s.loadLoc l (stOwner k) ((s.tile l).strand (stOwner k)).nextId loc (stEsz x.cfg)
    else s.readLoc l loc (stEsz x.cfg)
  match r with
  | (s, .ok bs) => (s, .ok (x.entry bs))
  | (s, .error f) => (s, .error f)

/-- Whether the generator fetches its next element in this cycle: it is open, an element is left, fewer than 16 are fetched and
not popped, its strand's earlier acquires are performed (R84) no copy holds the bytes (R90, R177), nor an
rsave (R260), and the die has room for the lines of a speculative task (R325). -/
def State.streamReady (s : State) (l : Nat) (k : Fin 4) : Bool :=
  let t := s.tile l
  let x := t.streams[k.val]
  let st := t.strand (stOwner k)
  x.opened && decide (x.since < s.cycle) && decide (x.next < x.total) &&
  decide (x.elems.length < 16) &&
  st.accesses.all (fun a => !a.acq || a.performed || decide (x.after ≤ a.id)) && t.fxAcquired (stOwner k) x.after &&
  (match x.loc t l x.next with
   | .window _ w off => !t.copyHolds true ((t.window w).addrs off (stEsz x.cfg)) && !t.rsaveStops ((t.window w).addrs off (stEsz x.cfg))
   | .global va => s.specRoom l [(va, stEsz x.cfg)])

/-- R177, R320: fetches the next element. A window element is read now and is at the head LAT_LS cycles later; a handle element
returns later; a fetch through a closed record faults. R320 names no bundle for that fault, which is taken as deferred, at the bundle that
opened the stream (DEDUCED, entry 25). -/
def State.fetchElement (s : State) (l : Nat) (k : Fin 4) : State :=
  if !s.streamReady l k then s else
  let x := (s.tile l).streams[k.val]
  let j := x.next
  if selSpace x.sel = 0 then
    match s.readElement l k x j with
    | (s, .ok v) => s.modTile l (fun t => t.setStream k
        { x with next := j + 1, elems := x.elems ++ [⟨j, v, s.cycle + latLs, s.cycle, true⟩] })
    | (s, .error _) => s
  else if ((s.tile l).regions[selIdx x.sel]?).any Region.closed then
    s.modTile l (fun t => t.modStrand (stOwner k) (fun st => st.deferred .regionPerm x.pc (x.offset j)))
  else
    let due := s.nextDue
    s.bump.modTile l (fun t => t.setStream k { x with next := j + 1, elems := x.elems ++ [⟨j, 0, due, s.cycle, false⟩] })

/-- R177, R331: a handle stream's fetch returns, in element order, or meets poison. -/
def State.returnElement (s : State) (l : Nat) (k : Fin 4) : State :=
  let x := (s.tile l).streams[k.val]
  match x.elems.find? (fun e => !e.returned) with
  | none => s
  | some e =>
    if s.cycle < e.ready then s
    else match s.readElement l k x e.j with
    | (s, .ok v) =>
      s.modTile l (fun t => t.setStream k
        { x with elems := x.elems.map (fun y => if y.j = e.j then { y with value := v, returned := true, ready := s.cycle } else y) })
    | (s, .error f) =>
      s.modTile l (fun t => (t.setStream k { x with elems := x.elems.filter (fun y => y.j != e.j) }).modStrand (stOwner k)
        (fun st => st.failed f x.pc f.fault.2))

/-- R178: refetches the elements that stores of the previous cycle covered; they are at the head again LAT_LS cycles later. -/
def State.refetchElements (s : State) (l : Nat) (k : Fin 4) : State :=
  let x := (s.tile l).streams[k.val]
  x.refetch.foldl (fun s j =>
    match s.readElement l k x j with
    | (s, .ok v) =>
      s.modTile l (fun t =>
        let y := t.streams[k.val]
        t.setStream k { y with
          refetch := y.refetch.filter (fun i => i != j),
          elems := y.elems.map (fun e => if e.j = j then { e with value := v, ready := s.cycle + latLs, fetched := s.cycle } else e) })
    | (s, .error f) => s.modTile l (fun t => t.modStrand (stOwner k) (fun st => st.failed f x.pc f.fault.2))) s

/-- R178: the elements of an ORD stream that some bytes touch. -/
def State.coveredBy (s : State) (l : Nat) (k : Fin 4) (ids : List ByteId) : List Nat :=
  let t := s.tile l
  let x := t.streams[k.val]
  if x.opened && stOrd x.cfg then
    (x.elems.filter (fun e => (s.byteIds (x.loc t l e.j) (stEsz x.cfg)).any (fun b => b != .nowhere && ids.contains b))).map (·.j)
  else []

/-- R178, R91: a store or atomic of a strand marks the elements it covers for refetch, and counts one event, also where its own bundle pops
the covered element (DESIGN CHOICE, entry 25). -/
def State.noteStore (s : State) (l : Nat) (k : StrandId) (ids : List ByteId) : State :=
  let own : List (Fin 4) := match k with | .feed => [0, 1] | .drain => [2, 3] | .compute => []
  let hit := own.filter (fun n => !(s.coveredBy l n ids).isEmpty)
  if hit.isEmpty then s
  else
    let s := hit.foldl (fun s n =>
      let js := s.coveredBy l n ids
      s.modTile l (fun t =>
        let x := t.streams[n.val]
        t.setStream n { x with refetch := x.refetch ++ js.filter (fun j => !x.refetch.contains j) })) s
    s.modTile l (fun t => t.modStrand k Strand.lodEvent)

end Sys2Proof.Machine
end

