-- ==== Sys2Proof/Machine/LoadStore.lean ====
section
/-! DEFINITION. The ls socket (R159 to R172, R200 to R202): scalar and vector accesses, atomics, rings, gather, scatter and
scatter-add. -/

namespace Sys2Proof.Machine

/-- LAT_LSA (R163). -/
def latLsa : Nat := 6
/-- LAT_RING (R163). -/
def latRing : Nat := 1
/-- LAT_VG (R201). -/
def latVg : Nat := 8
/-- LAT_VSC (R201). -/
def latVsc : Nat := 4

/-! ### What a trigger does -/

/-- The ring triggers (R170). -/
inductive RingOp where
  | rcfg | racq | rpub | rget | rrel | rst
  deriving DecidableEq, Repr

/-- The kinds of ls triggers (R162, R164, R165, R170, R201). -/
inductive LsKind where
  | load (n : Nat) (signed : Bool)
  | store (n : Nat)
  | atomic (o : AtomicOp)
  | accumulate
  | ring (o : RingOp)
  | gather (w : Nat)
  | scatter (w : Nat)
  | scadd (t : AccType)
  deriving DecidableEq, Repr

/-- The kind of an ls trigger (R159, R200). -/
def lsKind : LsOp → LsKind
  | .ld8 => .load 1 true | .ld8u => .load 1 false | .ld16 => .load 2 true | .ld16u => .load 2 false
  | .ld32 => .load 4 true | .ld32u => .load 4 false | .ld64 => .load 8 false | .vld => .load 128 false
  | .st8 => .store 1 | .st16 => .store 2 | .st32 => .store 4 | .st64 => .store 8 | .vst => .store 128
  | .aadd => .atomic .add | .aswp => .atomic .swap | .acas => .atomic .cas | .amin => .atomic .min | .amax => .atomic .max
  | .aminu => .atomic .minu | .amaxu => .atomic .maxu | .aand => .atomic .and | .aor => .atomic .or | .axor => .atomic .xor
  | .aacc => .accumulate
  | .rcfg => .ring .rcfg | .racq => .ring .racq | .rpub => .ring .rpub | .rget => .ring .rget | .rrel => .ring .rrel
  | .rst => .ring .rst
  | .vg16 => .gather 16 | .vg32 => .gather 32 | .vg64 => .gather 64
  | .vs16 => .scatter 16 | .vs32 => .scatter 32 | .vs64 => .scatter 64
  | .vscaddI32 => .scadd .i32 | .vscaddI64 => .scadd .i64 | .vscaddF32 => .scadd .f32 | .vscaddF64 => .scadd .f64

/-- The type of an aacc: ACCT through a handle of MODE ACC, otherwise sel.T (R165). -/
def Tile.aaccType (t : Tile) (sel : Word) : Option AccType :=
  if selSpace sel = 2 then
    match t.accHandle (some (selIdx sel)) with
    | some x => some x
    | none => accTypeOf (selT sel)
  else accTypeOf (selT sel)

/-- The kind of access that MODE limits. -/
def LsKind.access : LsKind → AccessKind
  | .load _ _ | .gather _ => .load
  | .store _ | .scatter _ => .store
  | .atomic _ => .atomic
  | .accumulate | .scadd _ => .accumulate
  | .ring _ => .load

/-- The location of an offset under a selector (R161). -/
def selLoc (t : Tile) (l : Nat) (sel : Word) (off : Nat) : Loc :=
  match selSpace sel with
  | 0 => .window l (selIdx sel) off
  | 1 => .window (clusterTile l (selP sel)) (selIdx sel) off
  | _ => .global (t.handleBase (selIdx sel) + off)

/-- The local SPM bytes of an offset under a selector; none but for the tile's own windows. -/
def localBytes (t : Tile) (l : Nat) (sel : Word) (off n : Nat) : List (Option Nat) :=
  if selSpace sel = 0 ∨ (selSpace sel = 1 ∧ clusterTile l (selP sel) = l) then (t.window (selIdx sel)).addrs off n else []

/-! ### Gather and scatter lanes (R200 to R202) -/

/-- The lane width in bits of a vector form; 0 for the others. -/
def LsKind.laneWidth : LsKind → Nat
  | .gather w | .scatter w => w
  | .scadd t => 8 * t.width
  | _ => 0

/-- The enabled lanes of a vector form with their offsets (R200, R201). -/
def lsLanes (w : Nat) (idx : Vec) (d e : Word) : List (Nat × Nat) :=
  if w = 0 then [] else
  ((List.range (1024 / w)).filter (fun i => !bit e i)).map (fun i => (i, (d.toNat + lane w idx i * (w / 8)) % 2 ^ 64))

/-! ### Checks (R161, R164, R165, R169, R171, R202) -/

/-- The handle part of Locate for an access of n bytes. -/
def locateCheck (t : Tile) (sel : Word) (off n : Nat) (kind : AccessKind) : Check :=
  match selSpace sel with
  | 0 => need (decide (selIdx sel < t.windows.length)) .regionBounds off
  | 1 => none
  | _ => t.checkHandle (selIdx sel) off n kind

/-- The selector part of Locate: a reserved SPACE, or a peer window above 7. -/
def selectorCheck (sel : Word) (slot : Nat) : Check :=
  need (!(selSpace sel == 3) && !(selSpace sel == 1 && decide (7 < selIdx sel))) .operandRange slot

/-- Fields of a ring descriptor (R169). -/
def ringWin (d : Word) : Nat := field d 63 61
/-- OFF of a ring descriptor. -/
def ringOff (d : Word) : Nat := field d 60 42
/-- SLOTS of a ring descriptor. -/
def ringSlots (d : Word) : Nat := field d 28 16
/-- SLOTSZ of a ring descriptor. -/
def ringSize (d : Word) : Nat := field d 15 0

/-- A ring of the tile. -/
def Tile.ring (t : Tile) (k : Nat) : Ring := t.rings[k % 8]

/-- Replaces a ring. -/
def Tile.setRing (t : Tile) (k : Nat) (r : Ring) : Tile := { t with rings := t.rings.set (k % 8) r }

/-- A ring is idle (R169). -/
def Ring.idle (r : Ring) : Bool := decide (r.fill = 0) && decide (r.free = ringSlots r.desc) && decide (r.ph = 0) && decide (r.ch = 0)

/-- rcfg raises nothing on this descriptor (R169). -/
def Tile.ringDescOk (t : Tile) (d : Word) : Bool :=
  decide (ringWin d < t.windows.length) && decide (1 ≤ ringSlots d) && decide (ringSlots d ≤ 4096) &&
  decide (64 ≤ ringSize d) && decide (ringSize d ≤ 32768) && decide (ringOff d % 64 = 0) && decide (ringSize d % 64 = 0) &&
  decide (ringOff d + ringSlots d * ringSize d ≤ (t.window (ringWin d)).size)

/-- The checks of a ring trigger (R159, R169, R171). -/
def ringCheck (o : RingOp) (i : Iss) (s : State) : Check :=
  let t := i.tile s
  let k := i.t.toNat
  let r := t.ring k
  (need (decide (k ≤ 7)) .operandRange i.slot).andThen
    (match o with
     | .rcfg => need (t.ringDescOk ((i.strand s).opw 0x204) && (!r.cfg || r.idle)) .operandRange i.slot
     | .racq | .rget => need r.cfg .operandRange i.slot
     | .rpub => need (r.cfg && decide (r.ph ≠ 0)) .operandRange i.slot
     | .rrel => need (r.cfg && decide (r.ch ≠ 0)) .operandRange i.slot
     | .rst => none)

/-- The checks of a vector form (R202), in the order of Locate (R161): the lowest lane beyond EXTENT gives the detail. R202 names none for the
others: an index fault has the slot (R143), and one of MODE the base offset ls.d, as the offset of the access (DEDUCED, entry 29). -/
def laneCheck (k : LsKind) (i : Iss) (s : State) : Check :=
  let t := i.tile s
  let st := i.strand s
  let sel := st.opw 0x200
  let w := k.laneWidth
  let d := st.opw 0x201
  let isAdd := match k with | .scadd _ => true | _ => false
  ((selectorCheck sel i.slot).andThen
    (need (decide (d.toNat % (w / 8) = 0) && (!isAdd || decide (selSpace sel = 0))) .operandRange i.slot)).andThen
  (match selSpace sel with
   | 0 => need (decide (selIdx sel < t.windows.length)) .regionBounds i.slot
   | 1 => none
   | _ =>
     match t.regions[selIdx sel]? with
     | none => some (.regionBounds, i.slot)
     | some r =>
       match (lsLanes w i.v d (st.opw 0x202)).find? (fun p => decide (r.extent < p.2 + w / 8)) with
       | some p => some (.regionBounds, p.2)
       | none => need (modePermits r.mode k.access && !r.closed) .regionPerm d.toNat)

/-- The checks of an ls trigger at issue. Every OPERAND_RANGE check comes before those of bounds and permission (R161). -/
def lsCheck (o : LsOp) (i : Iss) (s : State) : Check :=
  let t := i.tile s
  let st := i.strand s
  let sel := st.opw 0x200
  let off := i.t.toNat
  match lsKind o with
  | .load n _ => (selectorCheck sel i.slot).andThen (locateCheck t sel off n .load)
  | .store n => (selectorCheck sel i.slot).andThen (locateCheck t sel off n .store)
  | .atomic _ =>
    ((selectorCheck sel i.slot).andThen (need (decide (off % 8 = 0)) .operandRange i.slot)).andThen (locateCheck t sel off 8 .atomic)
  | .accumulate =>
    match t.aaccType sel with
    | none => some (.operandRange, i.slot)
    | some ty =>
      ((selectorCheck sel i.slot).andThen (need (decide (off % ty.width = 0)) .operandRange i.slot)).andThen
        (locateCheck t sel off ty.width .accumulate)
  | .ring r => ringCheck r i s
  | .gather w => laneCheck (.gather w) i s
  | .scatter w => laneCheck (.scatter w) i s
  | .scadd ty => laneCheck (.scadd ty) i s

/-! ### Acceptance (R16, R163, R77, R78, R79, R90, R167, R170, R201, R313, R325, R328) -/

/-- The bytes an ls trigger reaches in the tile's own SPM. -/
def lsBytes (o : LsOp) (i : Iss) (s : State) : List (Option Nat) :=
  let t := i.tile s
  let st := i.strand s
  let sel := st.opw 0x200
  let off := i.t.toNat
  match lsKind o with
  | .load n _ | .store n => localBytes t i.l sel off n
  | .atomic _ => localBytes t i.l sel off 8
  | .accumulate => localBytes t i.l sel off (((t.aaccType sel).map AccType.width).getD 8)
  | .ring _ => []
  | k => (lsLanes k.laneWidth i.v (st.opw 0x201) (st.opw 0x202)).flatMap (fun p => localBytes t i.l sel p.2 (k.laneWidth / 8))

/-- The global bytes that an ls trigger reaches through a handle, as base and length (R325). -/
def lsRanges (o : LsOp) (i : Iss) (s : State) : List (Nat × Nat) :=
  let t := i.tile s
  let st := i.strand s
  let sel := st.opw 0x200
  if selSpace sel ≠ 2 then []
  else
    let at1 := fun (off n : Nat) => (t.handleBase (selIdx sel) + off, n)
    match lsKind o with
    | .load n _ | .store n => [at1 i.t.toNat n]
    | .atomic _ => [at1 i.t.toNat 8]
    | .accumulate => [at1 i.t.toNat (((t.aaccType sel).map AccType.width).getD 8)]
    | .ring _ => []
    | k => (lsLanes k.laneWidth i.v (st.opw 0x201) (st.opw 0x202)).map (fun p => at1 p.2 (k.laneWidth / 8))

/-- The result port of an ls trigger; none for those without one (R159). -/
def lsPort (o : LsOp) : Option ResPort :=
  match lsKind o with
  | .load 128 _ | .gather _ => some .lsVres
  | .load _ _ | .atomic _ => some .lsRes
  | .ring .racq | .ring .rget | .ring .rst => some .lsRes
  | _ => none

/-- The register that takes the value instead of ls.res (R166). -/
def mapTarget (m : Word) : Option (Fin 64) := if bit m 6 then some (Fin.ofNat 64 (field m 5 0)) else none

/-- The register of a mapped ls access: a scalar load or an atomic with a result (R166). -/
def lsMapped (o : LsOp) (st : Strand) : Option (Fin 64) :=
  match lsKind o with
  | .load 128 _ => none
  | .load _ _ | .atomic _ => mapTarget (st.opw 0x205)
  | _ => none

/-- R22, R163: a trigger that delivers to a port waits while it holds an unread result, and while a peer or handle result for it
is in flight. -/
def Strand.portFree (st : Strand) (p : ResPort) : Bool :=
  !(st.port p).full && !st.flights.any (fun f => f.port == p && f.due.isNone)

/-- R313: a byte that a STAGE_OUT of a closed record has still to read. -/
def Tile.stagePending (t : Tile) (as : List (Option Nat)) : Bool :=
  t.regions.any (fun r => (r.closed || r.ending) && !r.windowRead && r.stageOut && as.any (fun a => match a with
    | some x => inRange (some ((t.window r.win).base, r.extent)) x
    | none => false))

/-- The trigger performs an access in its issue cycle: it reaches the tile's own windows and is neither a store nor a ring operation. -/
def lsImmediate (o : LsOp) (st : Strand) : Bool :=
  selSpace (st.opw 0x200) == 0 && (match lsKind o with | .store _ | .ring _ => false | _ => true)

/-- An ls trigger can accept. R22 holds "a new trigger of that socket" while a result is unread, and R163 speaks of the port: a trigger is
held here only by an unread result of the port it delivers to, so that stores, ring operations without a result and triggers for the other of
ls.res and ls.vres pass (DEDUCED, entry 29). `copyHolds` uses the copies launched before this cycle and in earlier bundles of it. A local access of
the compute strand waits for an rsave in flight (R260). -/
def lsAccept (o : LsOp) (i : Iss) (s : State) : Bool :=
  let t := i.tile s
  let st := i.strand s
  let sel := st.opw 0x200
  let k := lsKind o
  let isLoad := match k with | .load _ _ | .gather _ => true | _ => false
  let remote := !(selSpace sel == 0)
  let ring := match k with | .ring _ => true | _ => false
  decide (st.lsBusy ≤ s.cycle) &&
  !(st.accesses.any (fun a => match a.op with | .scatter _ _ _ | .scatterAdd _ _ _ => !a.performed | _ => false)) &&
  (match lsPort o, lsMapped o st with
   | some p, none => st.portFree p
   | _, some n => !st.pending n
   | none, none => true) &&
  (match k with
   | .load _ _ | .gather _ | .atomic _ => decide (st.loads s.cycle < 255)
   | .store _ => decide (st.stcnt < 255) && decide (st.sb.length < 32)
   | .accumulate | .scatter _ | .scadd _ => decide (st.stcnt < 255)
   | .ring _ => true) &&
  (match k with
   | .atomic _ | .accumulate => remote || st.sb.isEmpty
   | .scatter _ | .scadd _ => st.sb.isEmpty
   | _ => true) &&
  (!lsImmediate o st || (!t.rsaveInFlight i.k && s.localTurn i.l i.k st.nextId)) &&
  !(t.copyHolds isLoad (lsBytes o i s)) && !t.rsaveStops (lsBytes o i s) && (isLoad || !t.mxReads s.cycle (lsBytes o i s)) &&
  (match k with | .load _ _ | .gather _ | .ring _ => true | _ => !t.stagePending (lsBytes o i s)) &&
  (ring || !(selSpace sel == 1) || !s.speculates i.l || isLoad) &&
  s.specRoom i.l (lsRanges o i s) &&
  (match k with
   | .ring .racq => decide (1 ≤ (t.ring i.t.toNat).free - (t.ringAcq.filter (fun a => a.1 == i.t.toNat && a.2)).length)
   | .ring .rget => decide (1 ≤ (t.ring i.t.toNat).fill - (t.ringAcq.filter (fun a => a.1 == i.t.toNat && !a.2)).length)
   | _ => true)

/-! ### Rings (R169 to R172) -/

/-- The status word of a ring (R170); zero when unconfigured (R171). -/
def Ring.status (r : Ring) : Word :=
  if r.cfg then word (2 ^ 63 + r.fill * 2 ^ 48 + r.free * 2 ^ 32 + r.head * 2 ^ 16 + r.tail) else 0

/-- The offset of a slot (R170). -/
def Ring.slotOff (r : Ring) (i : Nat) : Nat := ringOff r.desc + i * ringSize r.desc

/-- The effects of a cycle on the rings: first rpub and rrel, then racq and rget in the order taken (R172), then rcfg, whose effect is
visible from the next cycle (R169; that it comes last is a DESIGN CHOICE, entry 25). Of two rpub, or two rrel, that both passed R171
with one slot held, the second finds PH, or CH, at 0 and has no effect, so that FILL + FREE + PH + CH stays SLOTS (R170; DESIGN CHOICE,
entry 25). -/
def Tile.applyRings (t : Tile) : Tile :=
  let t := t.ringRel.foldl (fun t p => match p with
    | .rpub k => let r := t.ring k; if r.ph = 0 then t else t.setRing k { r with fill := r.fill + 1, ph := r.ph - 1 }
    | .rrel k => let r := t.ring k; if r.ch = 0 then t else t.setRing k { r with free := r.free + 1, ch := r.ch - 1 }
    | .sem _ _ => t) t
  let t := t.ringAcq.foldl (fun t p =>
    let r := t.ring p.1
    if p.2 then t.setRing p.1 { r with free := r.free - 1, ph := r.ph + 1, tail := (r.tail + 1) % ringSlots r.desc }
    else t.setRing p.1 { r with fill := r.fill - 1, ch := r.ch + 1, head := (r.head + 1) % ringSlots r.desc }) t
  let t := t.ringCfg.foldl (fun t p => t.setRing p.1 ⟨true, p.2, 0, ringSlots p.2, 0, 0, 0, 0⟩) t
  { t with ringRel := [], ringAcq := [], ringCfg := [] }

/-- The effect of a ring trigger (R169, R170). -/
def ringStart (o : RingOp) (after : Nat) (i : Iss) (s : State) : State :=
  let t := i.tile s
  let k := i.t.toNat
  let r := t.ring k
  let acq := fun (isP : Bool) => (t.ringAcq.filter (fun a => a.1 == k && a.2 == isP)).length
  let deliver := fun (s : State) (v : Nat) => i.modStrand s (fun st => st.flyAt (s.cycle + latRing) .lsRes (res64 (word v)))
  match o with
  | .rcfg =>
    s.modTile i.l (fun t => { t with ringCfg := t.ringCfg ++ [(k, (i.strand s).opw 0x204)] })
  | .racq =>
    deliver (s.modTile i.l (fun t => { t with ringAcq := t.ringAcq ++ [(k, true)] }))
      (r.slotOff ((r.tail + acq true) % ringSlots r.desc))
  | .rget =>
    deliver (s.modTile i.l (fun t => { t with ringAcq := t.ringAcq ++ [(k, false)] }))
      (r.slotOff ((r.head + acq false) % ringSlots r.desc))
  | .rpub => i.modStrand s (fun st => st.post (.rpub k) after)
  | .rrel => i.modStrand s (fun st => st.post (.rrel k) after)
  | .rst => deliver s r.status.toNat

/-! ### Starting (R162 to R167, R201) -/

/-- The path of a selector's access (R75). -/
def selPath (sel : Word) : AccessPath := if selSpace sel = 1 then .peer else .handle

/-- The handle of a selector's access. -/
def selHandle (sel : Word) : Option Nat := if selSpace sel = 2 then some (selIdx sel) else none

/-- A fixed-latency value of ls: on its port, or mapped to a register, dropping that register's earlier mapped writes (R163, R166,
R167). -/
def Strand.deliverLocal (st : Strand) (due : Nat) (p : ResPort) (m : Option (Fin 64)) (v : Vec) : Strand :=
  match m with
  | some n => { st.dropMapped n with mapped := (st.dropMapped n).mapped ++ [Mapped.mk n (v.setWidth 64) due false false] }
  | none => st.flyAt due p (resV v)

/-- The unloaded latency of a peer or handle access (R163). -/
def selLatency (sel : Word) : Nat := if selSpace sel = 1 then 24 else 48

/-- Starts an access that has no fixed latency: it is performed later, and its value returns no earlier than R163 gives for an unloaded
network (R163, R285). -/
def lsPush (i : Iss) (s : State) (sel : Word) (op : AccessOp) (loc : Loc) (p : Option ResPort) (m : Option (Fin 64)) : State :=
  let due := s.nextDue
  i.modStrand s.bump (fun st =>
    let st := match m with | some n => st.dropMapped n | none => st
    st.pushAccess
      { id := 0, pc := st.pc, op := op, loc := loc, path := selPath sel, home := false, port := p, map := m, rel := false,
        acq := false, handle := selHandle sel, countsLd := op.returns, countsSt := !op.returns, performed := false,
        value := 0, due := due, ret := s.cycle + selLatency sel })

/-- An access to the tile's own windows is performed in its issue cycle; one that comes after an rsave of its own bundle is performed after
the rsave, and its latency counts from there (R260; DESIGN CHOICE, entry 29). -/
def Iss.localNow (i : Iss) (s : State) (sel : Word) : Bool := decide (selSpace sel = 0) && !(i.tile s).rsaveInFlight i.k

/-- Starts a scalar or vector load (R162, R163). A local one is performed in its issue cycle. -/
def lsLoad (n : Nat) (sg : Bool) (p : ResPort) (i : Iss) (s : State) : State :=
  let st := i.strand s
  let sel := st.opw 0x200
  let loc := selLoc (i.tile s) i.l sel i.t.toNat
  let m := if n = 128 then none else mapTarget (st.opw 0x205)
  if i.localNow s sel then
    let s := s.forceBefore i.l i.k st.nextId
    match s.loadLoc i.l i.k st.nextId loc n with
    | (s, .ok bs) => i.modStrand s (fun st => (st.deliverLocal (s.cycle + latLs) p m (loadValue n sg bs)).addLocal s.cycle (s.cycle + latLs))
    | (s, .error _) => s
  else lsPush i s sel (.load n sg) loc (some p) m

/-- Starts a store: it enters the store buffer (R77, R162). -/
def lsStore (n : Nat) (i : Iss) (s : State) : State :=
  let st := i.strand s
  let sel := st.opw 0x200
  let loc := selLoc (i.tile s) i.l sel i.t.toNat
  let data := if n = 128 then st.opnd 0x203 else (st.opw 0x201).setWidth 1024
  let due := s.nextDue
  (i.modStrand s.bump (fun st => st.pushStore st.pc loc n data (selHandle sel) false (selSpace sel == 1) due)).noteStore i.l i.k (s.byteIds loc n)

/-- What comes before a local atomic or scatter is performed: also the stores that its own bundle has put into the store buffer from a lower
slot (R73, R78, R201). -/
def Iss.clearAll (i : Iss) (s : State) : State := s.forceStores i.l i.k (i.strand s).nextId

/-- Performs a local atomic in its issue cycle (R78). -/
def localAtomic (i : Iss) (s : State) (op : AccessOp) (loc : Loc) : State × Vec :=
  let s := i.clearAll s
  let a : Access :=
    { id := (i.strand s).nextId, pc := (i.strand s).pc, op := op, loc := loc, path := .peer, home := false, port := none,
      map := none, rel := false, acq := false, handle := none, countsLd := false, countsSt := false, performed := false,
      value := 0, due := 0, ret := 0 }
  match s.doAccess i.l i.k a with
  | (s, .ok v) => (s, v)
  | (s, .error _) => (s, 0)

/-- Starts an atomic with a result (R163, R164). -/
def lsAtomic (o : AtomicOp) (i : Iss) (s : State) : State :=
  let st := i.strand s
  let sel := st.opw 0x200
  let loc := selLoc (i.tile s) i.l sel i.t.toNat
  let op := AccessOp.atomic o (st.opw 0x201) (st.opw 0x202)
  let m := mapTarget (st.opw 0x205)
  let s := s.noteStore i.l i.k (s.byteIds loc 8)
  if i.localNow s sel then
    let r := localAtomic i s op loc
    i.modStrand r.1 (fun st => (st.deliverLocal (s.cycle + latLsa) .lsRes m r.2).addLocal s.cycle (s.cycle + latLsa))
  else lsPush i s sel op loc (some .lsRes) m

/-- Starts an aacc (R165). -/
def lsAcc (i : Iss) (s : State) : State :=
  let st := i.strand s
  let sel := st.opw 0x200
  let loc := selLoc (i.tile s) i.l sel i.t.toNat
  let ty := ((i.tile s).aaccType sel).getD .i64
  let op := AccessOp.accumulate ty (st.opw 0x201)
  let s := s.noteStore i.l i.k (s.byteIds loc ty.width)
  if i.localNow s sel then (localAtomic i s op loc).1 else lsPush i s sel op loc none none

/-- The locations of the enabled lanes. -/
def laneLocs (w : Nat) (i : Iss) (s : State) : List (Nat × Loc) :=
  let st := i.strand s
  (lsLanes w i.v (st.opw 0x201) (st.opw 0x202)).map (fun p => (p.1, selLoc (i.tile s) i.l (st.opw 0x200) p.2))

/-- Starts a gather (R201); with every lane disabled it reads nothing (DESIGN CHOICE, entry 30). -/
def lsGather (w : Nat) (i : Iss) (s : State) : State :=
  let st := i.strand s
  let sel := st.opw 0x200
  let op := AccessOp.gather w (laneLocs w i s)
  if i.localNow s sel then
    let s := s.forceBefore i.l i.k st.nextId
    match s.gatherLanes i.l i.k st.nextId w (laneLocs w i s) with
    | (s, .ok vs) =>
      i.modStrand s (fun st => (st.flyAt (s.cycle + latVg) .lsVres (resV (ofLanes w ((List.range (1024 / w)).map (fun j => mget vs j 0))))).addLocal s.cycle
        (s.cycle + latVg))
    | (s, .error _) => s
  else
    let loc := ((laneLocs w i s).headD (0, .window i.l 0 0)).2
    lsPush i s sel op loc (some .lsVres) none

/-- The bytes of the enabled lanes, as R178 compares them. -/
def laneIds (w : Nat) (i : Iss) (s : State) : List ByteId := (laneLocs w i s).flatMap (fun p => s.byteIds p.2 (w / 8))

/-- Starts a scatter: its lanes are performed at home, in ascending order (R201); with every lane disabled it
writes nothing (DESIGN CHOICE, entry 30). -/
def lsScatter (w : Nat) (i : Iss) (s : State) : State :=
  let st := i.strand s
  let sel := st.opw 0x200
  let lanes := laneLocs w i s
  let s := s.noteStore i.l i.k (laneIds w i s)
  if i.localNow s sel then
    let s := i.clearAll s
    i.modStrand (s.scatterLanes i.l w (st.opnd 0x203) lanes).1 (fun st => { st with lsBusy := s.cycle + latVsc })
  else
    let loc := (lanes.headD (0, .window i.l 0 0)).2
    lsPush i s sel (.scatter w lanes (st.opnd 0x203)) loc none none

/-- Starts a scatter-add (R201); it is local (R202). -/
def lsScatterAdd (ty : AccType) (i : Iss) (s : State) : State :=
  let st := i.strand s
  let w := 8 * ty.width
  let sel := st.opw 0x200
  let s := s.noteStore i.l i.k (laneIds w i s)
  let win := (i.tile s).window (selIdx sel)
  let lanes := (lsLanes w i.v (st.opw 0x201) (st.opw 0x202)).map (fun p => (p.1, win.addrs p.2 ty.width))
  if i.localNow s sel then
    let s := i.clearAll s
    i.modStrand (s.modTile i.l (fun t => scatterAdd t ty (st.opnd 0x203) lanes)) (fun st => { st with lsBusy := s.cycle + latVsc })
  else lsPush i s sel (.scatterAdd ty lanes (st.opnd 0x203)) (.window i.l (selIdx sel) 0) none none

/-- Starts an ls trigger. -/
def lsStart (o : LsOp) (after : Nat) (i : Iss) (s : State) : State :=
  match lsKind o with
  | .load n sg => lsLoad n sg (if n = 128 then .lsVres else .lsRes) i s
  | .store n => lsStore n i s
  | .atomic a => lsAtomic a i s
  | .accumulate => lsAcc i s
  | .ring r => ringStart r after i s
  | .gather w => lsGather w i s
  | .scatter w => lsScatter w i s
  | .scadd ty => lsScatterAdd ty i s

end Sys2Proof.Machine
end

