-- ==== Sys2Proof/Machine/Vector.lean ====
section
/-! DEFINITION. The vector engine vx (R183 to R199): configuration, lane operands, the value of each trigger, its start. -/

namespace Sys2Proof.Machine

/-! ### Latencies (R184) -/

/-- LAT_VX. -/
def latVx : Nat := 4
/-- LAT_VFMA. -/
def latVfma : Nat := 5
/-- LAT_VDIV. -/
def latVdiv : Nat := 16
/-- LAT_VRED. -/
def latVred : Nat := 8
/-- LAT_VRND. -/
def latVrnd : Nat := 6
/-- LAT_VBIN. -/
def latVbin : Nat := 6
/-- LAT_VSTAT. -/
def latVstat : Nat := 1

/-- R197: the counter-based generator. -/
def counterHash (key ctr : Nat) : Nat :=
  let z := (key % 2 ^ 64) ^^^ (ctr * 0x9E3779B97F4A7C15 % 2 ^ 64)
  let z := z ^^^ (z / 2 ^ 30)
  let z := z * 0xBF58476D1CE4E5B9 % 2 ^ 64
  let z := z ^^^ (z / 2 ^ 27)
  let z := z * 0x94D049BB133111EB % 2 ^ 64
  z ^^^ (z / 2 ^ 31)

/-- The 32-bit random word that stochastic rounding draws (R112). -/
def srDraw (key ctr : Nat) : Nat := counterHash key ctr % 2 ^ 32

/-! ### Configuration (R183, R185) -/

/-- The element types vx accepts (R183). -/
def vxType (code : Nat) : Option Fmt :=
  if code ∈ [2, 3, 4, 5, 6, 7, 10, 11, 12, 13] then fmtOf code else none

/-- The operands of a vx trigger as they stand after the writes of its bundle (R48, R186). -/
structure VxIn where
  f : Fmt
  a : Vec
  c : Vec
  t : Vec
  m : Word
  k : Word
  mode : RMode
  sat : Bool
  bs : Bool
  masked : Bool

/-- Lane width (R183). -/
def VxIn.w (x : VxIn) : Nat := x.f.bits
/-- Lane count (R183). -/
def VxIn.n (x : VxIn) : Nat := 1024 / x.f.bits
/-- Lane i is enabled (R186). -/
def VxIn.en (x : VxIn) (i : Nat) : Bool := !x.masked || bit x.m i
/-- A_i (R186). -/
def VxIn.ai (x : VxIn) (i : Nat) : Nat := lane x.f.bits x.a i
/-- C_i (R186). -/
def VxIn.ci (x : VxIn) (i : Nat) : Nat := lane x.f.bits x.c i
/-- T_i, with BS applied (R186). -/
def VxIn.ti (x : VxIn) (i : Nat) : Nat := lane x.f.bits x.t (if x.bs then 0 else i)

/-- Reads the operands of a trigger (R185). A reserved type or mode reads as FP32 or RNE: the checks have refused it. -/
def vxIn (st : Strand) (t : Vec) : VxIn :=
  let cfg := st.opw 0x303
  { f := (vxType (field cfg 4 0)).getD .fp32, a := st.opnd 0x300, c := st.opnd 0x301, t := t, m := st.opw 0x302,
    k := st.opw 0x304, mode := (rmodeOf (field cfg 14 12)).getD .rne, sat := bit cfg 11, bs := bit cfg 10, masked := bit cfg 9 }

/-! ### Lanes -/

/-- A lane-wise result (R186): an enabled lane takes the value of the rule and its flags, a disabled one C_i and no flag. -/
def lanewise (x : VxIn) (g : Nat → Nat × StFlags) : Vec × StFlags :=
  let rs := (List.range x.n).map (fun i => if x.en i then g i else (x.ci i, 0))
  (ofLanes x.w (rs.map (·.1)), rs.foldl (fun fl r => fl ||| r.2) 0)

/-- A lane-wise result without flags. -/
def lanewise' (x : VxIn) (g : Nat → Nat) : Vec × StFlags := lanewise x (fun i => (g i, 0))

/-- The signed or unsigned reading of an integer lane (R97). -/
def laneInt (f : Fmt) (v : Nat) : Int := if f.int = some true then signed f.bits v else (v % 2 ^ f.bits : Nat)

/-- R190: an exact integer result, wrapped or (SAT) clamped to the type's range. -/
def satInt (f : Fmt) (sat : Bool) (v : Int) : Nat × StFlags :=
  let (lo, hi) := intRange f
  if sat then
    (if hi < v then (unsign f.bits hi, flSAT) else if v < lo then (unsign f.bits lo, flSAT) else (unsign f.bits v, 0))
  else (unsign f.bits v, 0)

/-- The rounding word of lane i (R189). -/
def VxIn.rnd (x : VxIn) (i : Nat) : Nat := srDraw x.k.toNat i

/-- Whether the element type is floating point (R183). -/
def VxIn.isFp (x : VxIn) : Bool := x.f.fp.isSome

/-- add (R189, R190). -/
def vxAdd (x : VxIn) : Vec × StFlags :=
  lanewise x (fun i =>
    if x.isFp then fAdd x.f x.mode (x.rnd i) (x.ai i) (x.ti i)
    else satInt x.f x.sat (laneInt x.f (x.ai i) + laneInt x.f (x.ti i)))

/-- sub (R189, R190). -/
def vxSub (x : VxIn) : Vec × StFlags :=
  lanewise x (fun i =>
    if x.isFp then fSub x.f x.mode (x.rnd i) (x.ai i) (x.ti i)
    else satInt x.f x.sat (laneInt x.f (x.ai i) - laneInt x.f (x.ti i)))

/-- mul (R189, R190). -/
def vxMul (x : VxIn) : Vec × StFlags :=
  lanewise x (fun i =>
    if x.isFp then fMul x.f x.mode (x.rnd i) (x.ai i) (x.ti i)
    else satInt x.f x.sat (laneInt x.f (x.ai i) * laneInt x.f (x.ti i)))

/-- fma: A × T + C (R189, R190). -/
def vxFma (x : VxIn) : Vec × StFlags :=
  lanewise x (fun i =>
    if x.isFp then fFma false x.f x.mode (x.rnd i) (x.ai i) (x.ti i) (x.ci i)
    else satInt x.f x.sat (laneInt x.f (x.ai i) * laneInt x.f (x.ti i) + laneInt x.f (x.ci i)))

/-- fnma: C - A × T (R189, R190). -/
def vxFnma (x : VxIn) : Vec × StFlags :=
  lanewise x (fun i =>
    if x.isFp then fFma true x.f x.mode (x.rnd i) (x.ai i) (x.ti i) (x.ci i)
    else satInt x.f x.sat (laneInt x.f (x.ci i) - laneInt x.f (x.ai i) * laneInt x.f (x.ti i)))

/-- div: A / T (R191). -/
def vxDiv (x : VxIn) : Vec × StFlags := lanewise x (fun i => fDiv x.f x.mode (x.rnd i) (x.ai i) (x.ti i))

/-- sqrt of T (R191). -/
def vxSqrt (x : VxIn) : Vec × StFlags := lanewise x (fun i => fSqrt x.f x.mode (x.rnd i) (x.ti i))

/-- a < b with -0 < +0 (R189). -/
def ltZero (a b : Num) : Bool := ltNum a b || (a.isZero && b.isZero && a.neg && !b.neg)

/-- The larger of two lanes: canonical NaN when either is NaN, -0 < +0 (R189). -/
def fpMax (f : Fmt) (a b : Nat) : Nat :=
  let x := decodeNum f a
  let y := decodeNum f b
  if x = .nan ∨ y = .nan then canonNan f else if ltZero x y then b else a

/-- The smaller of two lanes (R189). -/
def fpMin (f : Fmt) (a b : Nat) : Nat :=
  let x := decodeNum f a
  let y := decodeNum f b
  if x = .nan ∨ y = .nan then canonNan f else if ltZero x y then a else b

/-- The larger of two lanes by the element type. -/
def laneMax (f : Fmt) (a b : Nat) : Nat :=
  if f.fp.isSome then fpMax f a b else if laneInt f a < laneInt f b then b else a

/-- The smaller of two lanes by the element type. -/
def laneMin (f : Fmt) (a b : Nat) : Nat :=
  if f.fp.isSome then fpMin f a b else if laneInt f a < laneInt f b then a else b

/-- min (R189, R190). -/
def vxMin (x : VxIn) : Vec × StFlags := lanewise' x (fun i => laneMin x.f (x.ai i) (x.ti i))

/-- max (R189, R190). -/
def vxMax (x : VxIn) : Vec × StFlags := lanewise' x (fun i => laneMax x.f (x.ai i) (x.ti i))

/-- abs of T (R189, R190). -/
def vxAbs (x : VxIn) : Vec × StFlags :=
  lanewise x (fun i =>
    let t := x.ti i
    if x.isFp then (if decodeNum x.f t = .nan then canonNan x.f else t % 2 ^ (x.w - 1), 0)
    else satInt x.f x.sat ((laneInt x.f t).natAbs : Int))

/-- neg of T (R189, R190). -/
def vxNeg (x : VxIn) : Vec × StFlags :=
  lanewise x (fun i =>
    let t := x.ti i
    if x.isFp then (if decodeNum x.f t = .nan then canonNan x.f else (t + 2 ^ (x.w - 1)) % 2 ^ x.w, 0)
    else satInt x.f x.sat (-(laneInt x.f t)))

/-- and (R192). -/
def vxAnd (x : VxIn) : Vec × StFlags := lanewise' x (fun i => x.ai i &&& x.ti i)
/-- or (R192). -/
def vxOr (x : VxIn) : Vec × StFlags := lanewise' x (fun i => x.ai i ||| x.ti i)
/-- xor (R192). -/
def vxXor (x : VxIn) : Vec × StFlags := lanewise' x (fun i => x.ai i ^^^ x.ti i)
/-- andn: A and (not T) (R192). -/
def vxAndn (x : VxIn) : Vec × StFlags := lanewise' x (fun i => x.ai i &&& (2 ^ x.w - 1 - x.ti i))
/-- shl by T mod w (R192). -/
def vxShl (x : VxIn) : Vec × StFlags := lanewise' x (fun i => x.ai i * 2 ^ (x.ti i % x.w) % 2 ^ x.w)
/-- shr with zeros by T mod w (R192). -/
def vxShr (x : VxIn) : Vec × StFlags := lanewise' x (fun i => x.ai i / 2 ^ (x.ti i % x.w))
/-- sra with copies of bit w - 1 by T mod w (R192). -/
def vxSra (x : VxIn) : Vec × StFlags :=
  lanewise' x (fun i => unsign x.w (asr (signed x.w (x.ai i)) (x.ti i % x.w)))

/-- Trailing zeros among the low n bits. -/
def ctzNat (v : Nat) : Nat → Nat
  | 0 => 0
  | n + 1 => if v % 2 = 1 then 0 else 1 + ctzNat (v / 2) n

/-- clz of T (R192). -/
def vxClz (x : VxIn) : Vec × StFlags :=
  lanewise' x (fun i => if x.ti i = 0 then x.w else x.w - 1 - Nat.log2 (x.ti i))
/-- ctz of T (R192). -/
def vxCtz (x : VxIn) : Vec × StFlags := lanewise' x (fun i => ctzNat (x.ti i) x.w)
/-- popc of T (R192). -/
def vxPopc (x : VxIn) : Vec × StFlags :=
  lanewise' x (fun i => (List.range x.w).countP (fun b => (x.ti i).testBit b))

/-- A compare lane: all ones when the relation holds (R193). -/
def cmpLane (x : VxIn) (b : Bool) : Nat := if b then 2 ^ x.w - 1 else 0

/-- A_i = T_i by value (R193). -/
def VxIn.eqv (x : VxIn) (i : Nat) : Bool :=
  if x.isFp then eqNum (decodeNum x.f (x.ai i)) (decodeNum x.f (x.ti i)) else x.ai i == x.ti i

/-- A_i < T_i by value (R193). -/
def VxIn.ltv (x : VxIn) (i : Nat) : Bool :=
  if x.isFp then ltNum (decodeNum x.f (x.ai i)) (decodeNum x.f (x.ti i))
  else decide (laneInt x.f (x.ai i) < laneInt x.f (x.ti i))

/-- ceq (R193). -/
def vxCeq (x : VxIn) : Vec × StFlags := lanewise' x (fun i => cmpLane x (x.eqv i))
/-- cne: true where either is NaN (R193). -/
def vxCne (x : VxIn) : Vec × StFlags := lanewise' x (fun i => cmpLane x (!x.eqv i))
/-- clt (R193). -/
def vxClt (x : VxIn) : Vec × StFlags := lanewise' x (fun i => cmpLane x (x.ltv i))
/-- cle (R193). -/
def vxCle (x : VxIn) : Vec × StFlags := lanewise' x (fun i => cmpLane x (x.ltv i || x.eqv i))

/-- sel: A where vx.m is set, T elsewhere, whatever MK and BS hold (R186, R194). -/
def vxSel (x : VxIn) : Vec × StFlags :=
  (ofLanes x.w ((List.range x.n).map (fun i => if bit x.m i then x.ai i else lane x.w x.t i)), 0)

/-- mskof: bit i tells whether lane i of the trigger operand is non-zero (R194). -/
def vxMskof (x : VxIn) : Word :=
  word (packNat 1 ((List.range x.n).map (fun i => b2n (lane x.w x.t i != 0))))

/-- One level of ReduceAdd (R195): an absent lane passes the other one through. -/
def reduceLevel (f : Fmt) (mode : RMode) : List (Option (Nat × StFlags)) → List (Option (Nat × StFlags))
  | some a :: some b :: r => some (addFlagged f mode a b) :: reduceLevel f mode r
  | some a :: none :: r => some a :: reduceLevel f mode r
  | none :: b :: r => b :: reduceLevel f mode r
  | l => l

/-- ReduceAdd's levels (R195). -/
def reduceFold (f : Fmt) (mode : RMode) : Nat → List (Option (Nat × StFlags)) → List (Option (Nat × StFlags))
  | 0, l => l
  | n + 1, l => reduceFold f mode n (reduceLevel f mode l)

/-- The enabled lanes of the trigger operand; the reductions ignore BS (R195). -/
def VxIn.reds (x : VxIn) : List Nat := ((List.range x.n).filter x.en).map (lane x.w x.t)

/-- radd (R195): a NaN result is the canonical NaN, of one enabled lane too (R99; DEDUCED, entry 25). -/
def vxRadd (x : VxIn) : Word × StFlags :=
  if x.isFp then
    let ls := (List.range x.n).map (fun i => if x.en i then some (lane x.w x.t i, (0 : StFlags)) else none)
    match (reduceFold x.f x.mode (Nat.log2 x.n) ls).head? with
    | some (some r) => (word (if decodeNum x.f r.1 == .nan then canonNan x.f else r.1), r.2)
    | _ => (0, 0)
  else (BitVec.ofInt 64 ((x.reds.map (laneInt x.f)).foldl (· + ·) 0), 0)

/-- A lane in the low bits of a word: sign-extended for an INT type (R195, R196). -/
def laneWord (f : Fmt) (v : Nat) : Word :=
  if f.int = some true then BitVec.ofInt 64 (signed f.bits v) else word (v % 2 ^ f.bits)

/-- rmax (R195). -/
def vxRmax (x : VxIn) : Word :=
  match x.reds with
  | [] => laneWord x.f (if x.isFp then withSign true x.w (infBits x.f) else unsign x.w (intRange x.f).1)
  | a :: r => laneWord x.f (r.foldl (laneMax x.f) (if x.isFp && decodeNum x.f a == .nan then canonNan x.f else a))

/-- rmin (R195). -/
def vxRmin (x : VxIn) : Word :=
  match x.reds with
  | [] => laneWord x.f (if x.isFp then infBits x.f else unsign x.w (intRange x.f).2)
  | a :: r => laneWord x.f (r.foldl (laneMin x.f) (if x.isFp && decodeNum x.f a == .nan then canonNan x.f else a))

/-- perm: lane T_i mod L of vx.a (R196). -/
def vxPerm (x : VxIn) : Vec × StFlags := lanewise' x (fun i => x.ai (x.ti i % x.n))
/-- bcast (R196). -/
def vxBcast (x : VxIn) : Vec × StFlags :=
  (ofLanes x.w (List.replicate x.n (x.ai (field x.t 5 0 % x.n))), 0)
/-- rot (R196). -/
def vxRot (x : VxIn) : Vec × StFlags :=
  (ofLanes x.w ((List.range x.n).map (fun i => x.ai ((i + field x.t 5 0) % x.n))), 0)
/-- ext (R196). -/
def vxExt (x : VxIn) : Word := laneWord x.f (x.ai (field x.t 5 0 % x.n))
/-- iota (R196). -/
def vxIota (x : VxIn) : Vec × StFlags :=
  (ofLanes x.w ((List.range x.n).map (fun i => (lane x.w x.t 0 + i) % 2 ^ x.w)), 0)

/-- rnd: the upper w bits of CounterHash (R197). -/
def vxRnd (x : VxIn) : Vec × StFlags := lanewise' x (fun i => counterHash x.k.toNat (x.ti i) / 2 ^ (64 - x.w))

/-- The cell of a coordinate (R198). -/
def binCell (f : Fmt) (n a c t : Nat) : Int :=
  match decodeNum f a, decodeNum f c, decodeNum f t with
  | .fin sa ma ea, .fin sc mc ec, .fin s m e =>
    let e0 := min ea ec
    let d := scaleTo sa ma ea e0 - scaleTo sc mc ec e0
    let v := d * (if s then -(m : Int) else (m : Int))
    let x := e0 + e
    let cell := if 0 ≤ x then v * ((2 ^ x.toNat : Nat) : Int) else asr v (-x).toNat
    if cell < 0 ∨ (n : Int) ≤ cell then -1 else cell
  | _, _, _ => -1

/-- bin (R198): a disabled lane delivers -1. A cell from 2^31 on, which needs N above 2^31, delivers its low 32 bits (DESIGN CHOICE, entry 29). -/
def vxBin (x : VxIn) : Vec × StFlags :=
  (ofLanes x.w ((List.range x.n).map (fun i =>
    unsign x.w (if x.en i then binCell x.f (field x.k 31 0) (x.ai i) (x.ci i) (x.ti i) else -1))), 0)

/-- hist (R199). -/
def vxHist (x : VxIn) : Vec × StFlags :=
  (ofLanes x.w ((List.range x.n).map (fun (j : Nat) =>
    (List.range x.n).countP (fun i => x.en i && laneInt x.f (x.ti i) == (j : Int)))), 0)

/-- rank (R199). -/
def vxRank (x : VxIn) : Vec × StFlags :=
  (ofLanes x.w ((List.range x.n).map (fun i =>
    if x.en i then (List.range i).countP (fun j => x.en j && x.ti j == x.ti i) else 0)), 0)

/-! ### Checks, acceptance and start -/

/-- The triggers that round with a floating-point type (R185). -/
def vxRounds : VxOp → Bool
  | .add | .sub | .mul | .fma | .fnma | .div | .sqrt | .radd => true
  | _ => false

/-- The element types a trigger's row excludes (R184). -/
def vxAccepts (o : VxOp) (f : Fmt) : Bool :=
  match o with
  | .div | .sqrt => f.fp.isSome
  | .rnd | .hist | .rank => f.int.isSome
  | .bin => f == .fp32 || f == .fp64
  | _ => true

/-- R185: the checks of a vx trigger, in the order in which R185 names them: reserved bits, ET, RM (DESIGN CHOICE, entry 30). -/
def vxCheck (o : VxOp) (i : Iss) (s : State) : Check :=
  match o with
  | .stat => none
  | .sclr => none
  | _ =>
    let cfg := (i.strand s).opw 0x303
    if cfg.toNat / 2 ^ 15 ≠ 0 ∨ field cfg 8 5 ≠ 0 then some (.operandRange, i.slot)
    else match vxType (field cfg 4 0) with
    | none => some (.operandFmt, i.slot)
    | some f =>
      if !vxAccepts o f then some (.operandFmt, i.slot)
      else if vxRounds o && f.fp.isSome && decide (4 < field cfg 14 12 ∨ (o = .radd ∧ field cfg 14 12 = 4)) then
        some (.operandRm, i.slot)
      else none

/-- R187: the divider holds a div or sqrt for the three cycles after one. R418: the governor may space the issue. -/
def vxAccept (o : VxOp) (i : Iss) (s : State) : Bool :=
  !(s.governor.vxSpaced && Config.choice s.cycle) && match o with
  | .div | .sqrt => decide ((i.tile s).vu.divBusy ≤ s.cycle)
  | _ => true

/-- The port a trigger delivers to (R184). -/
def vxPort : VxOp → Option ResPort
  | .mskof | .radd | .rmax | .rmin | .ext | .stat => some .vxSres
  | .sclr => none
  | _ => some .vxRes

/-- The latency of a trigger (R184). -/
def vxLat : VxOp → Nat
  | .fma | .fnma => latVfma
  | .div | .sqrt => latVdiv
  | .radd | .rmax | .rmin => latVred
  | .rnd => latVrnd
  | .bin | .hist | .rank => latVbin
  | .stat => latVstat
  | _ => latVx

/-- A scalar result beside no flags. -/
def scalarOut (w : Word) : Vec × StFlags := (w.setWidth 1024, 0)

/-- What a trigger delivers, with its flags; the status word for stat (R188). -/
def vxOut (o : VxOp) (x : VxIn) (stat : BitVec 7) : Vec × StFlags :=
  match o with
  | .add => vxAdd x
  | .sub => vxSub x
  | .mul => vxMul x
  | .fma => vxFma x
  | .fnma => vxFnma x
  | .div => vxDiv x
  | .sqrt => vxSqrt x
  | .min => vxMin x
  | .max => vxMax x
  | .abs => vxAbs x
  | .neg => vxNeg x
  | .and => vxAnd x
  | .or => vxOr x
  | .xor => vxXor x
  | .andn => vxAndn x
  | .shl => vxShl x
  | .shr => vxShr x
  | .sra => vxSra x
  | .clz => vxClz x
  | .ctz => vxCtz x
  | .popc => vxPopc x
  | .ceq => vxCeq x
  | .cne => vxCne x
  | .clt => vxClt x
  | .cle => vxCle x
  | .sel => vxSel x
  | .mskof => scalarOut (vxMskof x)
  | .radd => ((vxRadd x).1.setWidth 1024, (vxRadd x).2)
  | .rmax => scalarOut (vxRmax x)
  | .rmin => scalarOut (vxRmin x)
  | .perm => vxPerm x
  | .bcast => vxBcast x
  | .rot => vxRot x
  | .ext => scalarOut (vxExt x)
  | .iota => vxIota x
  | .rnd => vxRnd x
  | .bin => vxBin x
  | .hist => vxHist x
  | .rank => vxRank x
  | .stat => scalarOut (stat.setWidth 64)
  | .sclr => (0, 0)

/-- Starts a vx operation (R184, R187, R188). -/
def vxStart (o : VxOp) (i : Iss) (s : State) : State :=
  s.modTile i.l (fun t =>
    let out := vxOut o (vxIn (t.strand i.k) i.v) t.vu.vxStat
    let due := s.cycle + vxLat o
    let t := match vxPort o with
      | some p => t.modStrand i.k (fun st => st.flyAt due p (resV out.1))
      | none => { t with vu := { t.vu with vxStat := 0 } }
    let t := { t with vu := t.vu.flagsAt due .vx out.2 }
    match o with
    | .div => { t with vu := { t.vu with divBusy := s.cycle + 4 } }
    | .sqrt => { t with vu := { t.vu with divBusy := s.cycle + 4 } }
    | _ => t)

end Sys2Proof.Machine
end

