-- ==== Sys2Proof/Machine/Accum.lean ====
section
/-! DEFINITION. The carry-save accumulator engine acc (R104 to R107, R246 to R262): entries, alignment, resolve, sign, emit and
absorb, raw save and load. -/

namespace Sys2Proof.Machine

/-- LAT_ACC_RES (R249). -/
def latAccRes : Nat := 8
/-- LAT_ACC_CMP (R249). -/
def latAccCmp : Nat := 4
/-- LAT_ACC_EMIT (R249). -/
def latAccEmit : Nat := 8
/-- LAT_ACC_ABS (R249). -/
def latAccAbs : Nat := 6
/-- LAT_ACC_RAW (R249). -/
def latAccRaw : Nat := 8
/-- LAT_ACC_STAT (R249). -/
def latAccStat : Nat := 1

/-! ### Entries as exact values (R104 to R106) -/

/-- A narrow or wide entry with its words as integers. -/
structure CsEntry where
  s : Int
  c : Int
  e : Int
  stk : Bool
  nan : Bool
  pinf : Bool
  ninf : Bool
  deriving DecidableEq, Repr

/-- The value word W = S + C (R105). -/
def CsEntry.w (x : CsEntry) : Int := x.s + x.c

/-- A narrow entry (R104). -/
def AccEntry.narrow (a : AccEntry) : CsEntry := ⟨a.s.toInt, a.c.toInt, a.e.toInt, a.stk, a.nan, a.pinf, a.ninf⟩

/-- A wide entry from its lower and upper halves (R106). -/
def wideEntry (lo hi : AccEntry) : CsEntry :=
  ⟨(hi.s ++ lo.s).toInt, (hi.c ++ lo.c).toInt, hi.e.toInt, hi.stk, hi.nan, hi.pinf, hi.ninf⟩

/-- Stores a narrow entry. -/
def CsEntry.toNarrow (x : CsEntry) : AccEntry :=
  ⟨BitVec.ofInt 80 x.s, BitVec.ofInt 80 x.c, BitVec.ofInt 12 x.e, x.stk, x.nan, x.pinf, x.ninf⟩

/-- Stores a wide entry: zero in the E and flag fields of the lower half (R106). -/
def CsEntry.toWide (x : CsEntry) : AccEntry × AccEntry :=
  (⟨BitVec.ofInt 80 x.s, BitVec.ofInt 80 x.c, 0, false, false, false, false⟩,
   ⟨BitVec.ofInt 80 (asr x.s 80), BitVec.ofInt 80 (asr x.c 80), BitVec.ofInt 12 x.e, x.stk, x.nan, x.pinf, x.ninf⟩)

/-- The value an entry denotes (R105). -/
def CsEntry.num (x : CsEntry) : Num :=
  if x.nan || (x.pinf && x.ninf) then .nan else if x.pinf then .inf false else if x.ninf then .inf true else ofScaled x.w x.e

/-! ### Align (R248) -/

/-- The number of bits of a magnitude. -/
def bitLen (n : Nat) : Nat := if n = 0 then 0 else Nat.log2 n + 1

/-- CsAdd: the carry-save sum of an entry and an aligned value (R248). -/
def CsEntry.csAdd (x : CsEntry) (l : Nat) (a : Int) : CsEntry :=
  let lim : Int := 2 ^ (l + 1)
  let x := if x.s < -lim ∨ lim ≤ x.s ∨ x.c < -lim ∨ lim ≤ x.c then { x with s := x.s + x.c, c := 0 } else x
  let s : BitVec 200 := BitVec.ofInt 200 x.s
  let c : BitVec 200 := BitVec.ofInt 200 x.c
  let b : BitVec 200 := BitVec.ofInt 200 a
  { x with s := (s ^^^ c ^^^ b).toInt, c := 2 * ((s &&& c) ||| (s &&& b) ||| (c &&& b)).toInt }

/-- Align: an arrival m × 2^e, m ≠ 0, with L as window limit; the flag is OF (R248). -/
def CsEntry.align (x : CsEntry) (l : Nat) (m : Int) (e : Int) : CsEntry × Bool :=
  let f := max x.e (max ((bitLen x.w.natAbs : Int) + x.e - l) ((bitLen m.natAbs : Int) + e - l))
  if 2047 < f then (if 0 < m then { x with pinf := true } else { x with ninf := true }, true)
  else
    let x := if x.e < f then
        let k := (f - x.e).toNat
        let w2 := asr x.w k
        { x with s := w2, c := 0, e := f, stk := x.stk || decide (w2 * 2 ^ k ≠ x.w) }
      else x
    let d := e - x.e
    let a : Int := if 0 ≤ d then m * 2 ^ d.toNat else asr m (-d).toNat
    let x := if d < 0 ∧ a * 2 ^ (-d).toNat ≠ m then { x with stk := true } else x
    (x.csAdd l a, false)

/-- The window limit L of narrow and wide entries (R248). -/
def limitOf (wide : Bool) : Nat := if wide then 157 else 77

/-- An arrival of any value: nothing for zero, a flag for an infinity or NaN. -/
def CsEntry.arrive (x : CsEntry) (wide : Bool) (v : Num) : CsEntry × Bool :=
  match v with
  | .nan => ({ x with nan := true }, false)
  | .inf false => ({ x with pinf := true }, false)
  | .inf true => ({ x with ninf := true }, false)
  | .fin n m e => if m = 0 then (x, false) else x.align (limitOf wide) (if n then -(m : Int) else m) e

/-! ### Accumulators of a tile (R247) -/

/-- A physical entry. -/
def accGet (a : SMap AccEntry) (row col : Nat) : AccEntry := mget a (32 * row + col) .cleared

/-- Writes a physical entry; a cleared one is not listed. -/
def accPut (a : SMap AccEntry) (row col : Nat) (x : AccEntry) : SMap AccEntry := mputD .cleared a (32 * row + col) x

/-- Entry (row, col) of an accumulator, narrow or wide (R247). -/
def csGet (a : SMap AccEntry) (wide : Bool) (row col : Nat) : CsEntry :=
  if wide then wideEntry (accGet a row (2 * col)) (accGet a row (2 * col + 1)) else (accGet a row col).narrow

/-- Writes an entry, narrow or wide. -/
def csPut (a : SMap AccEntry) (wide : Bool) (row col : Nat) (x : CsEntry) : SMap AccEntry :=
  if wide then accPut (accPut a row (2 * col) x.toWide.1) row (2 * col + 1) x.toWide.2 else accPut a row col x.toNarrow

/-- Clears an entry (R246). -/
def csClear (a : SMap AccEntry) (wide : Bool) (row col : Nat) : SMap AccEntry :=
  if wide then accPut (accPut a row (2 * col) .cleared) row (2 * col + 1) .cleared else accPut a row col .cleared

/-- Changes an accumulator. -/
def Vu.modAcc (u : Vu) (k : Fin 8) (f : SMap AccEntry → SMap AccEntry) : Vu := { u with acc := u.acc.set k.val (f u.acc[k.val]) k.isLt }

/-- Changes the vector-side engines of a tile. -/
def Tile.modVu (t : Tile) (f : Vu → Vu) : Tile := { t with vu := f t.vu }

/-! ### Descriptors (R250, R251) -/

/-- WD of a descriptor. -/
def adWd (d : Word) : Bool := bit d 15
/-- RC of a descriptor. -/
def adRc (d : Word) : Bool := bit d 14
/-- G of a descriptor. -/
def adG (d : Word) : Nat := field d 13 12
/-- ROW of a descriptor. -/
def adRow (d : Word) : Nat := field d 9 5
/-- ACC of a descriptor. -/
def adAcc (d : Word) : Fin 8 := Fin.ofNat 8 (field d 2 0)
/-- A descriptor's RSV fields are zero (R250). -/
def adRsvOk (d : Word) : Bool := decide (field d 63 16 = 0) && decide (field d 11 10 = 0) && decide (field d 4 3 = 0)

/-- The columns that a trigger's descriptor names (R250). -/
def accCols (o : AccOp) (d : Word) : List Nat :=
  match o with
  | .resF32 | .resBf16 | .resI32 | .cmpz => List.range (if adWd d then 16 else 32)
  | .resF64 => if adWd d then List.range 16 else (List.range 16).map (fun c => 16 * adG d + c)
  | .emit | .absorb => (List.range 8).map (fun c => 8 * adG d + c)
  | .rsave | .rload => List.range 32
  | .clr | .stat | .sclr => []

/-- The largest G of a trigger (R250). -/
def accMaxG (o : AccOp) (wd : Bool) : Nat :=
  match o with
  | .resF64 => if wd then 0 else 1
  | .emit | .absorb => if wd then 1 else 3
  | _ => 0

/-- The descriptor in use: acc.d for absorb, the trigger operand otherwise (R250). -/
def accDesc (o : AccOp) (i : Iss) (s : State) : Word :=
  match o with
  | .absorb => (i.strand s).opw 0x500
  | _ => i.t

/-- The SPM descriptor: window and offset (R251). -/
def spWin (d : Word) : Nat := field d 21 19
/-- OFF of an SPM descriptor. -/
def spOff (d : Word) : Nat := field d 18 0

/-- The bytes of an rsave or rload (R259). -/
def rawAddrs (t : Tile) (sp : Word) : List (Option Nat) := (t.window (spWin sp)).addrs (spOff sp) 704

/-- A trigger that resolves. -/
def accResolves : AccOp → Bool
  | .resF32 | .resBf16 | .resF64 | .resI32 => true
  | _ => false

/-- The checks of an acc trigger (R262). -/
def accCheck (o : AccOp) (i : Iss) (s : State) : Check :=
  let st := i.strand s
  let d := accDesc o i s
  let sp := st.opw 0x501
  let cfg := st.opw 0x502
  let raw := o == .rsave || o == .rload
  match o with
  | .clr | .stat | .sclr => none
  | _ =>
    ((((need (adRsvOk d && (!raw || decide (field sp 63 22 = 0)) && (!accResolves o || decide (field cfg 63 3 = 0)))
        .operandRange i.slot).andThen
      (need ((!adWd d || decide (adRow d ≤ 15)) && decide (adG d ≤ accMaxG o (adWd d))) .operandRange i.slot)).andThen
      (need (!(adRc d && (raw || o == .cmpz || o == .absorb))) .operandRange i.slot)).andThen
      (need (!accResolves o || (rmodeOf (field cfg 2 0)).isSome) .operandRm i.slot)).andThen
      (need (!raw || decide (spWin sp < (i.tile s).windows.length)) .regionBounds i.slot)

/-! ### Acceptance (R252, R260) -/

/-- The result port of an acc trigger (R249). -/
def accPort : AccOp → Option ResPort
  | .resF32 | .resBf16 | .resF64 | .resI32 | .emit => some .accRes
  | .cmpz | .stat => some .accSres
  | _ => none

/-- The accumulator that a matrix operation word names (R232). -/
def mxAccOf (w : Word) : Fin 8 := Fin.ofNat 8 (field w 2 0)

/-- An mx operation into an accumulator is in flight (R234). -/
def Tile.mxInto (t : Tile) (k : Fin 8) : Bool := t.mx.flights.any (fun f => mxAccOf f.word == k)

/-- The accumulator of a pending absorb or rload. -/
def AccPending.acc : AccPending → Option (Fin 8)
  | .absorb d _ _ => some (adAcc d)
  | .rload d _ _ _ _ => some (adAcc d)
  | .rsave _ _ _ => none

/-- An absorb of the list names an accumulator. -/
def absorbInto (ps : List AccPending) (k : Fin 8) : Bool :=
  ps.any (fun p => match p with | .absorb d _ _ => adAcc d == k | _ => false)

/-- An rload of the list names an accumulator. -/
def rloadInto (ps : List AccPending) (k : Fin 8) : Bool :=
  ps.any (fun p => match p with | .rload d _ _ _ _ => adAcc d == k | _ => false)

/-- The store buffer of a strand holds a store to one of some SPM bytes of its tile (R232, R260). -/
def State.storeHits (s : State) (l : Nat) (k : StrandId) (as : List (Option Nat)) : Bool :=
  ((s.tile l).strand k).sb.any (fun e => (s.byteIds e.loc e.n).any (fun b => match b with
    | .spm m a => m == l && as.contains (some a)
    | _ => false))

/-- An acc trigger can accept (R22, R252, R260). An rsave, whose bytes are performed at a fixed cycle, also waits until the accesses that must
precede it are performed (R76; DEDUCED, entry 29); an rload, which reads in its issue cycle, waits as a local load does, for an rsave in flight as
well (R76, R84, R260; DEDUCED, entry 30). -/
def accAccept (o : AccOp) (i : Iss) (s : State) : Bool :=
  let t := i.tile s
  let st := i.strand s
  let k := match o with | .clr => Fin.ofNat 8 (field i.t 2 0) | _ => adAcc (accDesc o i s)
  (match accPort o with | some p => !(st.port p).full | none => true) &&
  (match o with
   | .stat | .sclr => true
   | _ => !t.mxInto k && (o == .absorb || !absorbInto t.vu.accPend k) && !rloadInto t.vu.accPend k) &&
  (match o with
   | .rsave => st.sb.isEmpty && (t.needed i.k st.nextId).isEmpty
   | .rload =>
     let as := rawAddrs t (st.opw 0x501)
     !t.copyHolds true as && !t.rsaveStops as && !s.storeHits i.l i.k as && !t.rsaveInFlight i.k && s.localTurn i.l i.k st.nextId
   | _ => true)

/-! ### Resolve, sign, emit (R254 to R257) -/

/-- The format of a resolve. -/
def resFmt : AccOp → Fmt
  | .resBf16 => .bf16 | .resF64 => .fp64 | .resI32 => .i32
  | _ => .fp32

/-- R115, R254: resolves one entry. -/
def resolveEntry (f : Fmt) (mode : RMode) (rnd : Nat) (x : CsEntry) : Nat × StFlags :=
  let r := roundTo x.num x.stk f mode rnd
  if x.pinf && x.ninf then (r.1, r.2 ||| flNV) else r

/-- R254: the index that names an entry's draw. -/
def drawIdx (d : Word) (col : Nat) : Nat := if adWd d then 16 * adRow d + col else 32 * adRow d + col

/-- R254: resolves a run of entries into lanes. -/
def accResolve (o : AccOp) (a : SMap AccEntry) (d cfg k n : Word) : Vec × StFlags :=
  let f := resFmt o
  let mode := (rmodeOf (field cfg 2 0)).getD .rne
  let rs := (accCols o d).map (fun c =>
    resolveEntry f mode (srDraw k.toNat ((n.toNat + drawIdx d c) % 2 ^ 64)) (csGet a (adWd d) (adRow d) c))
  (ofLanes f.bits (rs.map (·.1)), rs.foldl (fun fl r => fl ||| r.2) 0)

/-- R255: the sign code of an entry. -/
def signCode (x : CsEntry) : Nat :=
  if x.nan || (x.pinf && x.ninf) then 3
  else if x.pinf then 0
  else if x.ninf then 2
  else if x.w < 0 then 2
  else if x.w = 0 ∧ !x.stk then 1
  else 0

/-- R256, R257: EmitPair, as the words MW and XW. -/
def emitPair (x : CsEntry) : Nat :=
  let w := x.w
  let sh : Int := if 0 < w then (bitLen w.natAbs : Int) - 62 else (bitLen (w.natAbs - 1) : Int) - 62
  let m : Int := if 0 ≤ sh then asr w sh.toNat else w * 2 ^ (-sh).toNat
  let back : Int := if 0 ≤ sh then m * 2 ^ sh.toNat else w
  let st := x.stk || (decide (w ≠ 0) && decide (back ≠ w))
  let m := if w = 0 then 0 else m
  let e := if w = 0 then x.e else x.e + sh
  unsign 64 (2 * m + b2n st) +
    2 ^ 64 * (b2n x.nan * 2 ^ 63 + b2n x.pinf * 2 ^ 62 + b2n x.ninf * 2 ^ 61 + 2 ^ 60 + unsign 32 e)

/-- R256, R258: AbsorbPair; the flag is OF. -/
def absorbPair (wide : Bool) (x : CsEntry) (p : Nat) : CsEntry × Bool :=
  let mw := p % 2 ^ 64
  let xw := p / 2 ^ 64
  if xw / 2 ^ 60 % 2 = 0 then (x, false)
  else
    let x := { x with
      nan := x.nan || decide (xw / 2 ^ 63 % 2 = 1),
      pinf := x.pinf || decide (xw / 2 ^ 62 % 2 = 1),
      ninf := x.ninf || decide (xw / 2 ^ 61 % 2 = 1) }
    if xw / 2 ^ 61 % 8 ≠ 0 then (x, false)
    else
      let m := signed 63 (mw / 2)
      let e := signed 32 xw
      let r := if m = 0 then (x, false) else x.align (limitOf wide) m e
      (if mw % 2 = 1 then { r.1 with stk := true } else r.1, r.2)

/-- R258: absorbs eight pairs into the run a descriptor names. -/
def absorbRun (a : SMap AccEntry) (d : Word) (pairs : Vec) : SMap AccEntry × Bool :=
  (accCols .absorb d).zipIdx.foldl (fun r ci =>
    let x := absorbPair (adWd d) (csGet r.1 (adWd d) (adRow d) ci.1) (lane 128 pairs ci.2)
    (if lane 128 pairs ci.2 / 2 ^ 124 % 2 = 0 then r.1 else csPut r.1 (adWd d) (adRow d) ci.1 x.1, r.2 || x.2)) (a, false)

/-! ### Raw images (R107, R259) -/

/-- The 22-byte image of an entry (R104, R107). -/
def AccEntry.image (x : AccEntry) : List Byte :=
  leBytes 22 (x.s.toNat + x.c.toNat * 2 ^ 80 + x.e.toNat * 2 ^ 160 + b2n x.stk * 2 ^ 172 + b2n x.ninf * 2 ^ 173 +
    b2n x.pinf * 2 ^ 174 + b2n x.nan * 2 ^ 175)

/-- The entry of an image; the lower half of a wide entry takes zero in its E and flag fields (R107). -/
def AccEntry.ofImage (lower : Bool) (bs : List Byte) : AccEntry :=
  let v := leNat bs
  let b := fun k => !lower && decide (v / 2 ^ k % 2 = 1)
  ⟨BitVec.ofNat 80 v, BitVec.ofNat 80 (v / 2 ^ 80), if lower then 0 else BitVec.ofNat 12 (v / 2 ^ 160), b 172, b 175, b 174, b 173⟩

/-- The images of a row (R259). -/
def rowImage (a : SMap AccEntry) (row : Nat) : List Byte := (List.range 32).flatMap (fun c => (accGet a row c).image)

/-- Loads a row from its images (R259). -/
def rowLoad (a : SMap AccEntry) (d : Word) (bs : List Byte) : SMap AccEntry :=
  (List.range 32).foldl (fun a c =>
    accPut a (adRow d) c (.ofImage (adWd d && decide (c % 2 = 0)) ((bs.drop (22 * c)).take 22))) a

/-! ### Starting and finishing (R252, R260, R261) -/

/-- Clears the entries that a trigger with RC has read (R254, R257). -/
def accAfter (o : AccOp) (d : Word) (u : Vu) : Vu :=
  if adRc d then u.modAcc (adAcc d) (fun a => (accCols o d).foldl (fun a c => csClear a (adWd d) (adRow d) c) a) else u

/-- The state in which an rload reads its bytes: what comes before it is performed, and the stores of lower slots of its own bundle as well
where one of them is to a byte that it reads (R73, R76, R260; DEDUCED, entry 30). -/
def Iss.beforeRload (i : Iss) (s : State) : State :=
  let st := i.strand s
  if s.storeHits i.l i.k (rawAddrs (i.tile s) (st.opw 0x501)) then s.forceStores i.l i.k st.nextId else s.forceBefore i.l i.k st.nextId

/-- Starts an acc trigger (R249, R253 to R261). What comes before an rsave, the stores of lower slots of its own bundle among it, is performed
when it issues (R73, R76, R260; DEDUCED, entry 29). -/
def accStart (o : AccOp) (i : Iss) (s : State) : State :=
  let st := i.strand s
  let u := (i.tile s).vu
  let d := accDesc o i s
  let a := u.acc[(adAcc d).val]
  let deliver := fun (s : State) (lat : Nat) (p : ResPort) (v : Vec) => i.modStrand s (fun st => st.flyAt (s.cycle + lat) p (resV v))
  let onVu := fun (f : Vu → Vu) => s.modTile i.l (fun t => t.modVu f)
  match o with
  | .clr => onVu (fun u => u.modAcc (Fin.ofNat 8 (field i.t 2 0)) (fun _ => []))
  | .resF32 | .resBf16 | .resF64 | .resI32 =>
    let r := accResolve o a d (st.opw 0x502) (st.opw 0x503) (st.opw 0x504)
    deliver (onVu (fun u => accAfter o d (u.flagsAt (s.cycle + latAccRes) .acc r.2))) latAccRes .accRes r.1
  | .cmpz =>
    deliver s latAccCmp .accSres (ofLanes 2 ((accCols o d).map (fun c => signCode (csGet a (adWd d) (adRow d) c))))
  | .emit =>
    deliver (onVu (accAfter o d)) latAccEmit .accRes
      (ofLanes 128 ((accCols o d).map (fun c => emitPair (csGet a (adWd d) (adRow d) c))))
  | .absorb => onVu (fun u => { u with accPend := u.accPend ++ [.absorb d i.v (s.cycle + latAccAbs - 1)] })
  | .rsave =>
    let s := s.forceStores i.l i.k st.nextId
    let as := (rawAddrs (i.tile s) (st.opw 0x501))
    let ps := (as.zip (rowImage a (adRow d))).filterMap (fun p => p.1.map (fun x => (x, p.2)))
    s.modTile i.l (fun t => t.modVu (fun u => { u with accPend := u.accPend ++ [.rsave (ps.map (·.1)) (ps.map (·.2)) (s.cycle + latAccRaw - 1)] }))
  | .rload =>
    let s := i.beforeRload s
    let as := rawAddrs (i.tile s) (st.opw 0x501)
    let bs := (i.tile s).readSpm as
    s.modTile i.l (fun t => t.modVu fun u => { u with accPend := u.accPend ++ [.rload d as bs s.cycle (s.cycle + latAccRaw - 1)] })
  | .stat => deliver s latAccStat .accSres (u.accStat.setWidth 1024)
  | .sclr => onVu (fun u => { u with accStat := 0 })

/-- The cycle at whose end a pending acc operation writes. -/
def AccPending.due : AccPending → Nat
  | .absorb _ _ d => d
  | .rload _ _ _ _ d => d
  | .rsave _ _ d => d

/-- R252: the absorbs due write their entries, in trigger order, setting OF on overflow. -/
def Tile.writeAbsorbs (t : Tile) (now : Nat) : Tile :=
  let due := fun (p : AccPending) => match p with | .absorb _ _ c => decide (c ≤ now) | _ => false
  let u := (t.vu.accPend.filter due).foldl (fun u p => match p with
    | .absorb d pairs _ =>
      let r := absorbRun u.acc[(adAcc d).val] d pairs
      let u := u.modAcc (adAcc d) (fun _ => r.1)
      if r.2 then u.flagsAt now .acc flOF else u
    | _ => u) t.vu
  { t with vu := { u with accPend := u.accPend.filter (fun p => !due p) } }

/-- R252: the rloads due write their entries. -/
def Tile.writeRloads (t : Tile) (now : Nat) : Tile :=
  let due := fun (p : AccPending) => match p with | .rload _ _ _ _ c => decide (c ≤ now) | _ => false
  let u := (t.vu.accPend.filter due).foldl (fun u p => match p with
    | .rload d _ bs _ _ => u.modAcc (adAcc d) (fun a => rowLoad a d bs)
    | _ => u) t.vu
  { t with vu := { u with accPend := u.accPend.filter (fun p => !due p) } }

/-- R260: the rsaves due perform their bytes at home. -/
def Tile.writeRsaves (t : Tile) (now : Nat) : Tile :=
  let due := fun (p : AccPending) => match p with | .rsave _ _ c => decide (c ≤ now) | _ => false
  let t' := (t.vu.accPend.filter due).foldl (fun t p => match p with
    | .rsave as bs _ => t.writeSpm ((as.map some).zip bs)
    | _ => t) t
  t'.modVu (fun u => { u with accPend := u.accPend.filter (fun p => !due p) })

end Sys2Proof.Machine
end

