-- ==== Sys2Proof/Machine/Special.lean ====
section
/-! DEFINITION. The special function and row statistics engine sf (R204 to R214). 2^x and log2 x of operands whose result is
irrational are formed from a lower bound with hundreds of bits and a sticky mark, which rounds as the exact value does. -/

namespace Sys2Proof.Machine

/-- LAT_SF (R204). -/
def latSf : Nat := 10
/-- LAT_SGATE (R204). -/
def latSgate : Nat := 14
/-- LAT_SRACC (R204). -/
def latSracc : Nat := 4
/-- LAT_SROW (R204). -/
def latSrow : Nat := 8
/-- LAT_SSTAT (R204). -/
def latSstat : Nat := 1

/-! ### Bounds of 2^x and log2 x -/

/-- Fraction bits of the bounds. -/
def sfBits : Nat := 640

/-- Newton's iteration for the integer square root, falling from a start at or above it. -/
def newtonSqrt (n : Nat) : Nat → Nat → Nat
  | 0, x => x
  | f + 1, x =>
    let y := (x + n / x) / 2
    if y < x then newtonSqrt n f y else x

/-- The integer square root. -/
def sqrtFloor (n : Nat) : Nat := if n = 0 then 0 else newtonSqrt n (Nat.log2 n + 2) (2 ^ (Nat.log2 n / 2 + 1))

/-- A lower bound of 2^(k / 2^n) · 2^sfBits for k < 2^n: the product of the square roots that the bits of k select. `t` is the
bound of 2^(2^-i) reached so far. -/
def pow2Frac (k : Nat) : Nat → Nat → Nat → Nat
  | 0, _, acc => acc
  | n + 1, t, acc =>
    let t := sqrtFloor (t * 2 ^ sfBits)
    pow2Frac k n t (if k / 2 ^ n % 2 = 1 then acc * t / 2 ^ sfBits else acc)

/-- 2^q for q = m × 2^e: its exponent and a mantissa lower bound over 2^sfBits, exact when q is an integer. -/
def exp2Bound (neg : Bool) (m : Nat) (e : Int) : Int × Nat × Bool :=
  let q : Int := if neg then -(m : Int) else m
  if 0 ≤ e then (q * 2 ^ e.toNat, 2 ^ sfBits, true)
  else
    let n := (-e).toNat
    let fl := asr q n
    let k := (q - fl * 2 ^ n).toNat
    if k = 0 then (fl, 2 ^ sfBits, true) else (fl, pow2Frac k n (2 * 2 ^ sfBits) (2 ^ sfBits), false)

/-- The binary digits of log2 y, for y = v / 2^400 in [1, 2), by repeated squaring. -/
def log2Digits : Nat → Nat → Nat → Nat
  | 0, _, acc => acc
  | n + 1, v, acc =>
    let w := v * v / 2 ^ 400
    if 2 * 2 ^ 400 ≤ w then log2Digits n (w / 2) (2 * acc + 1) else log2Digits n w (2 * acc)

/-! ### exp2 and log2 (R208) -/

/-- Rounds ±2^x · n / 2^sfBits with its sticky mark; exponents beyond every format are brought near it. -/
def roundPow (f : Fmt) (mode : RMode) (x : Int) (n : Nat) (exact : Bool) : Nat × StFlags :=
  let x := max (-400) (min x 400)
  let y := x - sfBits
  if 0 ≤ y then roundRat f false (n * 2 ^ y.toNat) 1 (!exact) mode 0 else roundRat f false n (2 ^ (-y).toNat) (!exact) mode 0

/-- exp2 of one lane (R208): RoundTo of the exact result. Between half of the smallest subnormal and the whole of it, RNE gives the smallest
subnormal by RoundTo and +0 by the rule's later sentence; RoundTo is followed (DESIGN CHOICE, entry 29). -/
def sfExp2 (f : Fmt) (mode : RMode) (v : Nat) : Nat × StFlags :=
  match decodeNum f v with
  | .nan => (canonNan f, 0)
  | .inf true => (0, 0)
  | .inf false => (infBits f, 0)
  | .fin s m e =>
    if m = 0 then roundRat f false 1 1 false mode 0
    else if magLt 1 9 m e then roundPow f mode (if s then -400 else 400) (2 ^ sfBits) true
    else
      let b := exp2Bound s m e
      roundPow f mode b.1 b.2.1 b.2.2

/-- log2 of one lane (R208). -/
def sfLog2 (f : Fmt) (mode : RMode) (v : Nat) : Nat × StFlags :=
  match decodeNum f v with
  | .nan => (canonNan f, 0)
  | .inf false => (infBits f, 0)
  | .inf true => (canonNan f, flNV)
  | .fin s m e =>
    if m = 0 then (withSign true f.bits (infBits f), flDZ)
    else if s then (canonNan f, flNV)
    else
      let b := Nat.log2 m
      let n : Int := e + b
      if m = 2 ^ b then roundTo (numOfInt n) false f mode 0
      else
        let d := log2Digits 160 (m * 2 ^ (400 - b)) 0
        roundTo (ofScaled (n * 2 ^ 160 + d) (-160)) true f mode 0

/-! ### The fused gate (R209) -/

/-- Rounds ab / (1 + 2^q) with a and b finite and non-zero, q = m × 2^e with its sign. -/
def gateFinite (f : Fmt) (mode : RMode) (neg : Bool) (n : Nat) (x : Int) (qs : Bool) (qm : Nat) (qe : Int) : Nat × StFlags :=
  -- |ab| = n · 2^x
  let num := if 0 ≤ x then n * 2 ^ x.toNat else n
  let den := if 0 ≤ x then 1 else 2 ^ (-x).toNat
  if qm = 0 then roundRat f neg num (den * 2) false mode 0
  else if magLt 1 10 qm qe then
    if qs then
      -- just below |ab|
      (if neg then roundRat f true num den true mode 0 else roundRat f false (num * 2 ^ 400 - 1) (den * 2 ^ 400) true mode 0)
    else roundRat f neg 1 (2 ^ 400) true mode 0
  else
    let b := exp2Bound qs qm qe
    let ex := b.1 - sfBits
    -- 2^q = b.2.1 · 2^ex, exactly or from below
    let pn := if 0 ≤ ex then b.2.1 * 2 ^ ex.toNat else b.2.1
    let pd := if 0 ≤ ex then 1 else 2 ^ (-ex).toNat
    if b.2.2 then roundRat f neg (num * pd) (den * (pd + pn)) false mode 0
    else
      -- 2^q lies in (pn, pn + 2^200 units) / pd
      let up := pn + (if 0 ≤ ex then 2 ^ (200 + ex.toNat) else 2 ^ 200)
      (if neg then roundRat f true (num * pd) (den * (pd + pn)) true mode 0
       else roundRat f false (num * pd) (den * (pd + up)) true mode 0)

/-- gate of one lane (R209). -/
def sfGate (f : Fmt) (mode : RMode) (k a b : Nat) : Nat × StFlags :=
  let na := decodeNum f a
  let nb := decodeNum f b
  let nk := decodeNum .fp32 k
  let p := (mulNum nk nb).1
  let sign := na.neg != nb.neg
  if na = .nan ∨ nb = .nan ∨ nk = .nan then (canonNan f, 0)
  else match p with
  | .nan => (canonNan f, flNV)
  | .inf true =>
    (match na with
     | .inf _ => (canonNan f, flNV)
     | _ => (withSign sign f.bits 0, 0))
  | .inf false => roundOp (mulNum na nb) f mode 0
  | .fin ps pm pe =>
    match na, nb with
    | .inf _, _ => if nb.isZero then (canonNan f, flNV) else (withSign sign f.bits (infBits f), 0)
    | .fin _ ma ea, .fin _ mb eb =>
      if ma = 0 ∨ mb = 0 then (withSign sign f.bits 0, 0)
      else gateFinite f mode sign (ma * mb) (ea + eb) (!ps) pm pe
    | _, _ => (canonNan f, flNV)

/-! ### Row statistics (R210 to R214) -/

/-- A set's sum as an exact entry. -/
def RowSet.sum1 (r : RowSet) : CsEntry := wideEntry r.s1.1 r.s1.2
/-- A set's sum of squares as an exact entry. -/
def RowSet.sum2 (r : RowSet) : CsEntry := wideEntry r.s2.1 r.s2.2

/-- R211: adds one lane to a set. A lane of value zero writes S1 and S2 as another does, so that the lower half of a cleared entry takes zero in its
E and flags (R106; DESIGN CHOICE, entry 30). -/
def RowSet.add (r : RowSet) (f : Fmt) (v : Nat) : RowSet :=
  let x := decodeNum f v
  let sq : Num := match x with | .nan => .nan | .inf _ => .inf false | .fin _ m e => .fin false (m * m) (2 * e)
  { cnt := r.cnt + 1,
    max := BitVec.ofNat 32 (fpMax .fp32 r.max.toNat (convert f .fp32 .rne 0 v).1),
    s1 := (r.sum1.arrive true x).1.toWide, s2 := (r.sum2.arrive true sq).1.toWide }

/-- R213: resolves an entry divided by n, with NV for an entry that holds both infinities, a NaN beside them or not. -/
def rowResolve (x : CsEntry) (n : Nat) (mode : RMode) : Nat × StFlags :=
  match x.num with
  | .nan => (canonNan .fp32, if x.pinf && x.ninf then flNV else 0)
  | .inf s => (withSign s 32 (infBits .fp32), 0)
  | .fin s m e =>
    if 0 ≤ e then roundRat .fp32 s (m * 2 ^ e.toNat) n x.stk mode 0 else roundRat .fp32 s m (n * 2 ^ (-e).toNat) x.stk mode 0

/-- rmean (R213). -/
def RowSet.mean (r : RowSet) (mode : RMode) : Nat × StFlags :=
  if r.cnt = 0 then (canonNan .fp32, flNV) else rowResolve r.sum1 r.cnt mode

/-- RowVar (R214). An entry that denotes NaN delivers it without a flag, one that holds both infinities as well, for the text of RowVar is the narrower
rule beside R213 (DEDUCED, entry 30). -/
def RowSet.var (r : RowSet) (mode : RMode) : Nat × StFlags :=
  let a := r.sum1
  let b := r.sum2
  let n := r.cnt
  match a.num, b.num with
  | .nan, _ => (canonNan .fp32, 0)
  | _, .nan => (canonNan .fp32, 0)
  | .fin _ _ _, .fin _ _ _ =>
    if n = 0 then (canonNan .fp32, flNV)
    else
      let inexact := a.stk || b.stk
      let e0 := min b.e (2 * a.e)
      let num := (n : Int) * b.w * 2 ^ (b.e - e0).toNat - a.w * a.w * 2 ^ (2 * a.e - e0).toNat
      if num ≤ 0 then (0, if inexact then flNX ||| flUF else 0)
      else
        let m := num.natAbs
        let y := if 0 ≤ e0 then roundRat .fp32 false (m * 2 ^ e0.toNat) (n * n) false mode 0
          else roundRat .fp32 false m (n * n * 2 ^ (-e0).toNat) false mode 0
        let fl := y.2 ||| (if inexact then flNX else 0)
        (y.1, fl ||| (if fl &&& flNX ≠ 0 ∧ y.1 < 0x00800000 then flUF else 0))
  | _, _ => (canonNan .fp32, flNV)

/-! ### Configuration, checks and acceptance (R205, R206, R212) -/

/-- The operands of an sf trigger as lanes of R186. A reserved type or mode reads as FP32 or RNE: the checks have refused it. -/
def sfIn (st : Strand) (t : Vec) : VxIn :=
  let cfg := st.opw 0x3A3
  { f := (fmtOf (field cfg 4 0)).getD .fp32, a := st.opnd 0x3A0, c := st.opnd 0x3A1, t := t, m := st.opw 0x3A2, k := 0,
    mode := (rmodeOf (field cfg 14 12)).getD .rne, sat := false, bs := bit cfg 10, masked := bit cfg 9 }

/-- The row-statistics set of a configuration. -/
def sfSet (cfg : Word) : Fin 4 := Fin.ofNat 4 (field cfg 6 5)

/-- The enabled lanes of an operand, in ascending order. -/
def VxIn.enabled (x : VxIn) : List Nat := ((List.range x.n).filter x.en).map x.ti

/-- The elements of a set that are counted or in flight. -/
def Vu.rowCount (u : Vu) (k : Fin 4) : Nat :=
  u.rowSets[k.val].cnt + ((u.raccs.filter (fun r => r.set == k)).map (fun r => r.lanes.length)).sum

/-- The checks of an sf trigger (R205, R211). One that breaks several gives the first in the order reserved bits, ET, RM, racc's count (DESIGN CHOICE,
entry 29). -/
def sfCheck (o : SfOp) (i : Iss) (s : State) : Check :=
  let st := i.strand s
  let cfg := st.opw 0x3A3
  match o with
  | .stat | .sclr => none
  | _ =>
    (((need (decide (field cfg 63 15 = 0) && !bit cfg 11 && decide (field cfg 8 7 = 0)) .operandRange i.slot).andThen
      (need (decide (field cfg 4 0 ∈ [10, 11, 12])) .operandFmt i.slot)).andThen
      (need (decide (field cfg 14 12 ≤ 3)) .operandRm i.slot)).andThen
      (match o with
       | .racc => need (decide ((i.tile s).vu.rowCount (sfSet cfg) + (sfIn st i.v).enabled.length ≤ 2 ^ 32 - 1)) .operandRange i.slot
       | _ => none)

/-- R212: a rclr or a row read waits for the raccs of its set. R418: the governor may space the issue. -/
def sfAccept (o : SfOp) (i : Iss) (s : State) : Bool :=
  let k := sfSet ((i.strand s).opw 0x3A3)
  !(s.governor.vxSpaced && Config.choice s.cycle) && match o with
  | .rclr | .rcnt | .rmax | .rsum | .rssq | .rmean | .rvar => !(i.tile s).vu.raccs.any (fun r => r.set == k)
  | _ => true

/-- The port an sf trigger delivers to (R204). -/
def sfPort : SfOp → Option ResPort
  | .exp2 | .log2 | .gate => some .sfRes
  | .rclr | .racc | .sclr => none
  | _ => some .sfSres

/-- The latency of an sf trigger with a result (R204). -/
def sfLat : SfOp → Nat
  | .exp2 | .log2 => latSf
  | .gate => latSgate
  | .stat => latSstat
  | _ => latSrow

/-- What an sf trigger delivers, with its flags. -/
def sfOut (o : SfOp) (x : VxIn) (gk : Nat) (r : RowSet) (stat : BitVec 7) : Vec × StFlags :=
  let sc := fun (p : Nat × StFlags) => ((BitVec.ofNat 1024 p.1, p.2) : Vec × StFlags)
  match o with
  | .exp2 => lanewise x (fun i => sfExp2 x.f x.mode (x.ti i))
  | .log2 => lanewise x (fun i => sfLog2 x.f x.mode (x.ti i))
  | .gate => lanewise x (fun i => sfGate x.f x.mode gk (x.ai i) (x.ti i))
  | .rcnt => sc (r.cnt, 0)
  | .rmax => sc (if r.cnt = 0 then 0xFF800000 else r.max.toNat, 0)
  | .rsum => sc (rowResolve r.sum1 1 x.mode)
  | .rssq => sc (rowResolve r.sum2 1 x.mode)
  | .rmean => sc (r.mean x.mode)
  | .rvar => sc (r.var x.mode)
  | .stat => (stat.setWidth 1024, 0)
  | .rclr | .racc | .sclr => (0, 0)

/-- Starts an sf trigger (R204, R206, R207, R212). -/
def sfStart (o : SfOp) (i : Iss) (s : State) : State :=
  s.modTile i.l (fun t =>
    let st := t.strand i.k
    let cfg := st.opw 0x3A3
    let x := sfIn st i.v
    let k := sfSet cfg
    let out := sfOut o x (field (st.opw 0x3A4) 31 0) t.vu.rowSets[k.val] t.vu.sfStat
    let due := s.cycle + sfLat o
    match sfPort o with
    | some p => (t.modVu (fun u => u.flagsAt due .sf out.2)).modStrand i.k (fun st => st.flyAt due p (resV out.1))
    | none =>
      match o with
      | .racc => t.modVu (fun u =>
          { u with raccs := u.raccs ++ [⟨k, field cfg 4 0, x.enabled.map word, s.cycle + latSracc - 1⟩] })
      | .sclr => t.modVu (fun u => { u with sfStat := 0 })
      | _ => t.modVu (fun u => { u with rowSets := u.rowSets.set k.val .cleared k.isLt }))

/-- R212: the raccs due take effect, in trigger order. -/
def Tile.applyRaccs (t : Tile) (now : Nat) : Tile :=
  let due := fun (r : Racc) => decide (r.due ≤ now)
  let sets := (t.vu.raccs.filter due).foldl (fun (sets : Vector RowSet 4) r =>
    sets.set r.set.val (r.lanes.foldl (fun x v => x.add ((fmtOf r.et).getD .fp32) v.toNat) sets[r.set.val]) r.set.isLt) t.vu.rowSets
  { t with vu := { t.vu with rowSets := sets, raccs := t.vu.raccs.filter (fun r => !due r) } }

end Sys2Proof.Machine
end

