-- ==== Sys2Proof/Machine/Convert.lean ====
section
/-! DEFINITION. The conversion and quantisation engine cv (R216 to R223). -/

namespace Sys2Proof.Machine

/-- LAT_CV (R216). -/
def latCv : Nat := 6
/-- LAT_CVQ (R216). -/
def latCvq : Nat := 8
/-- LAT_CVSTAT (R216). -/
def latCvstat : Nat := 1

/-- CV_NONFINITE, bit 6 of the status word (R219). -/
def flNonfinite : StFlags := 64

/-! ### Configuration (R217) -/

/-- PART. -/
def cvPart (c : Word) : Nat := field c 21 19
/-- SSEL. -/
def cvSsel (c : Word) : Nat := field c 18 17
/-- DFMT. -/
def cvDst (c : Word) : Fmt := (fmtOf (field c 9 5)).getD .fp32
/-- SFMT. -/
def cvSrc (c : Word) : Fmt := (fmtOf (field c 4 0)).getD .fp32
/-- RM. -/
def cvMode (c : Word) : RMode := (rmodeOf (field c 14 12)).getD .rne
/-- Blocks of a qnt or dqt whose lanes have w bits (R222, R223). -/
def cvBlocks (w : Nat) : Nat := 1024 / w / 32
/-- The bytes of a block (R103). -/
def blockBytes (b : Nat) : Nat := 4 * b

/-- Elements of a cvt (R221). -/
def cvtCount (c : Word) : Nat := 1024 / max (cvSrc c).bits (cvDst c).bits

/-- The limit of PART for a trigger (R221 to R223). -/
def cvPartLimit (o : CvOp) (c : Word) : Nat :=
  let ws := (cvSrc c).bits
  let wd := (cvDst c).bits
  match o with
  | .cvt => max ws wd / min ws wd
  | .qnt => 128 / (cvBlocks ws * blockBytes wd)
  | .dqt => 128 / (cvBlocks wd * blockBytes ws)
  | .stat | .sclr => 0

/-- The formats a trigger accepts (R218). -/
def cvFormatsOk (o : CvOp) (c : Word) : Bool :=
  let a := field c 4 0
  let b := field c 9 5
  match o with
  | .cvt => decide (a ≤ 14) && decide (b ≤ 14)
  | .qnt => decide (a ∈ [10, 11, 12]) && decide (b ∈ [16, 17, 18])
  | .dqt => decide (a ∈ [16, 17, 18]) && decide (b ∈ [10, 11, 12])
  | .stat | .sclr => true

/-- The checks of a cv trigger, in the order of the rows of R218 (DESIGN CHOICE, entry 30). -/
def cvCheck (o : CvOp) (i : Iss) (s : State) : Check :=
  let c := (i.strand s).opw 0x402
  match o with
  | .stat | .sclr => none
  | _ =>
    ((((need (decide (field c 63 22 = 0) && !bit c 15 && decide (field c 11 10 = 0) && (o != .qnt || decide (cvSsel c ≤ 1)))
        .operandRange i.slot).andThen
      (need (cvFormatsOk o c) .operandFmt i.slot)).andThen
      (need (decide (field c 14 12 ≤ 4)) .operandRm i.slot)).andThen
      (need (decide (cvPart c < cvPartLimit o c)) .operandRange i.slot)).andThen
      (need (!(o == .cvt && bit c 16 && cvtCount c == 128)) .operandRange i.slot)

/-! ### Values -/

/-- R220: the rounding word of element i. -/
def cvRnd (k n : Word) (i : Nat) : Nat := srDraw k.toNat ((n.toNat + i) % 2 ^ 64)

/-- Element i is enabled (R217). -/
def cvEnabled (c m : Word) (i : Nat) : Bool := !bit c 16 || bit m i

/-- Puts a w-bit lane into a word. -/
def setLane (w : Nat) (v : Vec) (i x : Nat) : Vec :=
  ofLanes w ((List.range (1024 / w)).map (fun j => if j = i then x else lane w v j))

/-- Replaces lanes of a word, given as lane and value. -/
def mergeLanes (w : Nat) (c : Vec) (ps : SMap Nat) : Vec :=
  ofLanes w ((List.range (1024 / w)).map (fun j => (mfind ps j).getD (lane w c j)))

/-- cvt: Convert of R221. -/
def cvCvt (t c : Vec) (m cfg k n : Word) : Vec × StFlags :=
  let ws := (cvSrc cfg).bits
  let wd := (cvDst cfg).bits
  let cnt := cvtCount cfg
  let part := cvPart cfg
  let rs := ((List.range cnt).filter (cvEnabled cfg m)).map (fun i =>
    let j := if ws < wd then part * cnt + i else i
    let p := if wd < ws then part * cnt + i else i
    (p, convert (cvSrc cfg) (cvDst cfg) (cvMode cfg) (cvRnd k n i) (lane ws t j)))
  (mergeLanes wd c (rs.map (fun r => (r.1, r.2.1))), rs.foldl (fun fl r => fl ||| r.2.2) 0)

/-- R120: encodes a finite value as an element under a scale. -/
def quantElement (b k : Nat) (mode : RMode) (rnd : Nat) (x : Num) : Nat × StFlags :=
  let hi : Int := 2 ^ (b - 1) - 1
  match x with
  | .fin s m e =>
    let e' := e + 127 - k + b - 2
    let r := if 0 ≤ e' then roundIntTo (-hi) hi s (m * 2 ^ e'.toNat) 1 false mode rnd
      else roundIntTo (-hi) hi s m (2 ^ (-e').toNat) false mode rnd
    (unsign b r.1, r.2)
  | _ => (0, 0)

/-- The magnitude of a finite value as a fraction. -/
def magnitude : Num → Nat × Nat
  | .fin _ m e => if 0 ≤ e then (m * 2 ^ e.toNat, 1) else (m, 2 ^ (-e).toNat)
  | _ => (0, 1)

/-- R222: the scale selected from a block. -/
def selectScale (xs : List Num) : Nat :=
  let top := xs.foldl (fun (a : Nat × Nat) x => let q := magnitude x; if a.1 * q.2 < q.1 * a.2 then q else a) (0, 1)
  if top.1 = 0 then 127 else (max 0 (ilog2 top.1 top.2 + 127)).toNat

/-- QuantBlock (R222): scale, elements and flags. -/
def quantBlock (xs : List Num) (b : Nat) (cfg : Word) (given : Nat) (rnd : Nat → Nat) : Nat × List Nat × StFlags :=
  if xs.any (fun x => match x with | .fin _ _ _ => false | _ => true) then (0xFF, xs.map (fun _ => 0), flNonfinite)
  else if cvSsel cfg = 1 ∧ given = 0xFF then (0xFF, xs.map (fun _ => 0), flNV)
  else
    let k := if cvSsel cfg = 1 then given else selectScale xs
    let qs := xs.zipIdx.map (fun p => quantElement b k (cvMode cfg) (rnd p.2) p.1)
    (k, qs.map (·.1), qs.foldl (fun fl q => fl ||| q.2) 0)

/-- qnt (R222): the word, the scales and the flags. -/
def cvQnt (t c : Vec) (cfg k n s : Word) : Vec × Word × StFlags :=
  let f := cvSrc cfg
  let b := (cvDst cfg).bits
  let cnt := cvBlocks f.bits
  let bb := blockBytes b
  let blocks := (List.range cnt).map (fun j =>
    quantBlock ((List.range 32).map (fun i => decodeNum f (lane f.bits t (32 * j + i)))) b cfg (lane 8 (s.setWidth 1024) j)
      (fun i => cvRnd k n (32 * j + i)))
  let bytes := leBytes (cnt * bb) (packNat b (blocks.flatMap (fun q => q.2.1)))
  let out := mergeLanes 8 c (bytes.zipIdx.map (fun p => (cvPart cfg * cnt * bb + p.2, p.1.toNat)))
  (out, word (packNat 8 (blocks.map (·.1))), blocks.foldl (fun fl q => fl ||| q.2.2) 0)

/-- dqt (R223). -/
def cvDqt (t c : Vec) (m cfg k n s : Word) : Vec × StFlags :=
  let f := cvDst cfg
  let b := (cvSrc cfg).bits
  let cnt := cvBlocks f.bits
  let bits := t.toNat / 2 ^ (8 * (cvPart cfg * cnt * blockBytes b))
  let rs := ((List.range (32 * cnt)).filter (cvEnabled cfg m)).map (fun i =>
    (i, roundTo (decodeMx b (lane 8 (s.setWidth 1024) (i / 32)) (bits / 2 ^ (b * i) % 2 ^ b)) false f (cvMode cfg) (cvRnd k n i)))
  (mergeLanes f.bits c (rs.map (fun r => (r.1, r.2.1))), rs.foldl (fun fl r => fl ||| r.2.2) 0)

/-- The ports a cv trigger delivers to (R216). -/
def cvPorts : CvOp → List ResPort
  | .cvt | .dqt => [.cvRes]
  | .qnt => [.cvRes, .cvSres]
  | .stat => [.cvSres]
  | .sclr => []

/-- Starts a cv trigger (R216, R219). -/
def cvStart (o : CvOp) (i : Iss) (s : State) : State :=
  s.modTile i.l (fun t =>
    let st := t.strand i.k
    let c := st.opnd 0x400
    let m := st.opw 0x401
    let cfg := st.opw 0x402
    let k := st.opw 0x403
    let n := st.opw 0x404
    let sc := st.opw 0x405
    let put := fun (due : Nat) (fl : StFlags) (ps : List (ResPort × Vec)) =>
      (t.modVu (fun u => u.flagsAt due .cv fl)).modStrand i.k (fun st => ps.foldl (fun st p => st.flyAt due p.1 (resV p.2)) st)
    match o with
    | .cvt => let r := cvCvt i.v c m cfg k n; put (s.cycle + latCv) r.2 [(.cvRes, r.1)]
    | .qnt => let r := cvQnt i.v c cfg k n sc; put (s.cycle + latCvq) r.2.2 [(.cvRes, r.1), (.cvSres, r.2.1.setWidth 1024)]
    | .dqt => let r := cvDqt i.v c m cfg k n sc; put (s.cycle + latCv) r.2 [(.cvRes, r.1)]
    | .stat => put (s.cycle + latCvstat) 0 [(.cvSres, t.vu.cvStat.setWidth 1024)]
    | .sclr => t.modVu (fun u => { u with cvStat := 0 }))

end Sys2Proof.Machine
end

