-- ==== Sys2Proof/Machine/Matrix.lean ====
section
/-! DEFINITION. The matrix engine mx (R225 to R245): operands, hold latches, the exact dot products and their landing. -/

namespace Sys2Proof.Machine

/-! ### Formats (R225) -/

/-- The shape and formats of a format trigger: element formats, M, N, K, scale bytes per row, II and the sparse depth (0: none). -/
structure MxShape where
  fa : Fmt
  fb : Fmt
  m : Nat
  n : Nat
  k : Nat
  nb : Nat
  ii : Nat
  sk : Nat
  deriving DecidableEq, Repr

/-- R225: the table of format triggers; UA and UB choose UINT8 (R227). -/
def mxShape (o : MxOp) (ua ub : Bool) : MxShape :=
  match o with
  | .f64 => ⟨.fp64, .fp64, 16, 16, 48, 0, 144, 0⟩
  | .f32 => ⟨.fp32, .fp32, 32, 32, 96, 0, 216, 0⟩
  | .f16 => ⟨.fp16, .fp16, 32, 32, 192, 0, 108, 384⟩
  | .bf16 => ⟨.bf16, .bf16, 32, 32, 192, 0, 48, 384⟩
  | .i8 => ⟨if ua then .u8 else .i8, if ub then .u8 else .i8, 32, 32, 384, 0, 96, 768⟩
  | .mx8 => ⟨.mx8, .mx8, 32, 32, 384, 12, 96, 0⟩
  | .mx6 => ⟨.mx6, .mx6, 32, 32, 512, 16, 72, 0⟩
  | .mx4 => ⟨.mx4, .mx4, 32, 32, 768, 24, 48, 0⟩
  | .e4e4 => ⟨.e4m3, .e4m3, 32, 32, 384, 0, 24, 768⟩
  | .e4e5 => ⟨.e4m3, .e5m2, 32, 32, 384, 0, 24, 768⟩
  | .e5e4 => ⟨.e5m2, .e4m3, 32, 32, 384, 0, 24, 768⟩
  | .e5e5 => ⟨.e5m2, .e5m2, 32, 32, 384, 0, 24, 768⟩
  | .mdset => ⟨.i8, .i8, 0, 0, 0, 0, 0, 0⟩

/-- The shape of an operation word. -/
def mxShapeOf (o : MxOp) (w : Word) : MxShape := mxShape o (bit w 9) (bit w 8)

/-- LAT_MX = II + 12 (R225). -/
def MxShape.lat (h : MxShape) : Nat := h.ii + 12

/-- SP of an operation word (R227). -/
def mxSp (w : Word) : Bool := bit w 10
/-- HB of an operation word. -/
def mxHb (w : Word) : Bool := bit w 5
/-- HA of an operation word. -/
def mxHa (w : Word) : Bool := bit w 4

/-- The row bytes of B (R229). -/
def mxRbB (w : Word) : Nat := if mxSp w then 768 else 384

/-- The metadata words per A row: K / 32 with K the stored depth (R242). -/
def MxShape.mdWords (h : MxShape) : Nat := h.k / 32

/-! ### Operands in SPM (R228, R229) -/

/-- STRIDE of a descriptor. -/
def mdStride (d : Word) : Nat := field d 47 32
/-- WIN of a descriptor. -/
def mdWin (d : Word) : Nat := field d 21 19
/-- OFF of a descriptor. -/
def mdOff (d : Word) : Nat := field d 18 0
/-- A descriptor's RSV fields are zero. -/
def mdRsvOk (d : Word) : Bool := decide (field d 63 48 = 0) && decide (field d 31 22 = 0)

/-- The addresses of rows of rb bytes under a descriptor (R229). -/
def rowAddrs (t : Tile) (d : Word) (rows rb : Nat) : List (List (Option Nat)) :=
  (List.range rows).map (fun r => (t.window (mdWin d)).addrs (mdOff d + r * mdStride d) rb)

/-- What a latch holds after an operand is read: rows, scale rows and metadata (R238, R242). -/
def readOperand (t : Tile) (d sd : Word) (rows rb nb : Nat) (sp : Bool) (md mdn : Nat) : Latch :=
  let ra := rowAddrs t d rows rb
  let sa := if nb = 0 then [] else rowAddrs t sd rows nb
  { lv := true, rows := ra.map t.readSpm, scales := sa.map t.readSpm, lrows := rows, lrb := rb, lsc := nb, lsp := sp,
    lmd := md, mdw := (List.range mdn).map (fun i => mget t.metaStore ((md + i) % 2048) 0), desc := d, sdesc := sd,
    src := ra.flatten ++ sa.flatten }

/-- The A operand that an operation reads (R229, R242). A sparse one is latched with the metadata of the widest row, of 48 words, so that an
operation of another format that holds it finds its own words (R238, R245; DEDUCED, entry 25). -/
def mxReadA (t : Tile) (st : Strand) (o : MxOp) (w : Word) : Latch :=
  let h := mxShapeOf o w
  readOperand t (st.opw 0x480) (st.opw 0x482) h.m 384 h.nb (mxSp w) (if mxSp w then t.mx.mdc else 0)
    (if mxSp w then h.m * 48 else 0)

/-- The B operand that an operation reads. -/
def mxReadB (t : Tile) (st : Strand) (o : MxOp) (w : Word) : Latch :=
  let h := mxShapeOf o w
  readOperand t (st.opw 0x481) (st.opw 0x483) h.n (mxRbB w) h.nb false 0 0

/-- The bank groups that addresses lie in (R67, R230). -/
def bankGroups (as : List (Option Nat)) : List Nat := (as.filterMap (fun a => a.map (fun x => x / 2 ^ 17 % 4))).dedup

/-- The addresses of an operand, without reading it. -/
def operandAddrs (t : Tile) (d sd : Word) (rows rb nb : Nat) : List (Option Nat) :=
  (rowAddrs t d rows rb).flatten ++ (if nb = 0 then [] else (rowAddrs t sd rows nb).flatten)

/-- The bytes an operation reads for A; none when it is taken from the latch. -/
def mxAddrsA (t : Tile) (st : Strand) (o : MxOp) (w : Word) : List (Option Nat) :=
  let h := mxShapeOf o w
  if mxHa w then [] else operandAddrs t (st.opw 0x480) (st.opw 0x482) h.m 384 h.nb

/-- The bytes an operation reads for B. -/
def mxAddrsB (t : Tile) (st : Strand) (o : MxOp) (w : Word) : List (Option Nat) :=
  let h := mxShapeOf o w
  if mxHb w then [] else operandAddrs t (st.opw 0x481) (st.opw 0x483) h.n (mxRbB w) h.nb

/-! ### Checks and acceptance (R230 to R232, R238) -/

/-- R238: the A latch serves an operation. -/
def latchServesA (x : Latch) (h : MxShape) (w : Word) : Bool :=
  x.lv && decide (h.m ≤ x.lrows) && decide (x.lrb = 384) && (x.lsp == mxSp w) && (decide (h.nb = 0) || decide (x.lsc = h.nb))

/-- R238: the B latch serves an operation. -/
def latchServesB (x : Latch) (h : MxShape) (w : Word) : Bool :=
  x.lv && decide (h.n ≤ x.lrows) && decide (mxRbB w ≤ x.lrb) && (decide (h.nb = 0) || decide (x.lsc = h.nb))

/-- The descriptors in use: data ones with true, scale ones with false (R228). -/
def mxDescs (st : Strand) (h : MxShape) (w : Word) : List (Word × Bool) :=
  (if mxHa w then [] else (st.opw 0x480, true) :: (if h.nb = 0 then [] else [(st.opw 0x482, false)])) ++
  (if mxHb w then [] else (st.opw 0x481, true) :: (if h.nb = 0 then [] else [(st.opw 0x483, false)]))

/-- The checks of an mx trigger (R226, R231). -/
def mxCheck (o : MxOp) (i : Iss) (s : State) : Check :=
  let t := i.tile s
  let st := i.strand s
  let w := i.t
  let h := mxShapeOf o w
  match o with
  | .mdset => need (decide (w.toNat ≤ 2047)) .operandRange i.slot
  | _ =>
    let ds := mxDescs st h w
    let ga := bankGroups (mxAddrsA t st o w)
    let gb := bankGroups (mxAddrsB t st o w)
    (((((need (decide (field w 63 11 = 0) && decide (field w 7 6 = 0) && !bit w 3 && ds.all (fun d => mdRsvOk d.1) &&
        (o == .i8 || (!bit w 9 && !bit w 8)) && (!mxSp w || decide (h.sk ≠ 0)) &&
        ds.all (fun d => !d.2 || (decide (mdOff d.1 % 64 = 0) && decide (mdStride d.1 % 64 = 0))) &&
        (!mxHa w || latchServesA t.mx.a h w) && (!mxHb w || latchServesB t.mx.b h w)) .operandRange i.slot).andThen
      (need (ds.all (fun d => decide (mdWin d.1 < t.windows.length))) .regionBounds i.slot)).andThen
      (need (decide (ga.length ≤ 1)) .mxBank 0)).andThen
      (need (decide (gb.length ≤ 1)) .mxBank 1)).andThen
      (need (ga.isEmpty || gb.isEmpty || ga != gb) .mxBank 2))

/-- A format trigger can accept (R232, R234). mx issue that the power limiter spaces is held by a free choice (R243; log entry 7). -/
def mxAccept (o : MxOp) (i : Iss) (s : State) : Bool :=
  let t := i.tile s
  let st := i.strand s
  match o with
  | .mdset => true
  | _ =>
    let as := mxAddrsA t st o i.t ++ mxAddrsB t st o i.t
    let k := mxAccOf i.t
    decide (t.mx.busy ≤ s.cycle) && !(st.port .mxRes).full &&
    !t.vu.accPend.any (fun p => p.acc == some k) &&
    !s.storeHits i.l i.k as && !t.copyHolds true as && !(s.governor.mxSpaced && Config.choice s.cycle)

/-! ### Starting and landing (R233 to R238, R240 to R242) -/

/-- Starts an mx trigger: its operands are read, latches are loaded and MXMDC advances. -/
def mxStart (o : MxOp) (i : Iss) (s : State) : State :=
  s.modTile i.l (fun t =>
    let st := t.strand i.k
    let w := i.t
    match o with
    | .mdset => { t with mx := { t.mx with mdc := w.toNat % 2048 } }
    | _ =>
      let h := mxShapeOf o w
      let a := if mxHa w then t.mx.a else mxReadA t st o w
      let b := if mxHb w then t.mx.b else mxReadB t st o w
      let bytes := (mxAddrsA t st o w ++ mxAddrsB t st o w).filterMap id
      let mdc := if mxSp w && !mxHa w then (t.mx.mdc + h.m * h.mdWords) % 2048 else t.mx.mdc
      let f : MxFlight := ⟨st.nextId, o, w, a, b, s.cycle + h.lat, s.cycle + h.ii - 1, bytes⟩
      { t with mx := { t.mx with mdc := mdc, a := a, b := b, flights := t.mx.flights ++ [f], busy := s.cycle + h.ii } }.modStrand i.k
        (fun st => st.fly none .mxRes (res64 0) (st.lockedPort .mxRes)))

/-- Element k of a row with its scale byte (R102, R229). -/
def rowElem (f : Fmt) (row : Nat) (scale : List Byte) (k : Nat) : Num :=
  let v := row / 2 ^ (f.bits * k) % 2 ^ f.bits
  if f.isMx then decodeMx f.bits (scale.getD (k / 32) 0).toNat v else decodeNum f v

/-- R241: the sparse expansion of a row at logical position k. -/
def sparseElem (f : Fmt) (row : Nat) (md : List Word) (k : Nat) : Num :=
  let g := k / 4
  let nib := (md.getD (g / 16) 0).toNat / 2 ^ (4 * (g % 16)) % 16
  let e0 := if nib % 4 = k % 4 then rowElem f row [] (2 * g) else .fin false 0 0
  let e1 := if nib / 4 = k % 4 then rowElem f row [] (2 * g + 1) else .fin false 0 0
  (addNum .rne e0 e1).1

/-- The running sum of a dot product: an exact integer in units of 2^-2200, and the non-finite marks (R235). -/
structure DotSum where
  sum : Int
  nan : Bool
  pinf : Bool
  ninf : Bool
  deriving DecidableEq, Repr

/-- The exponent of the unit of a dot product; no product of two elements of any format is finer. -/
def dotUnit : Int := -2200

/-- Adds one product (R235). -/
def DotSum.add (d : DotSum) (p : Num) : DotSum :=
  match p with
  | .nan => { d with nan := true }
  | .inf false => { d with pinf := true }
  | .inf true => { d with ninf := true }
  | .fin s m e => { d with sum := d.sum + scaleTo s m e dotUnit }

/-- DotTerm over rows of decoded elements (R235). -/
def dotTerm (a b : List Num) : DotSum := (a.zip b).foldl (fun d p => d.add (mulNum p.1 p.2).1) ⟨0, false, false, false⟩

/-- AddTerm (R235, R236): one arrival; the flag says that the term was not finite. -/
def addTerm (x : CsEntry) (wide : Bool) (d : DotSum) : CsEntry :=
  let x := { x with nan := x.nan || d.nan, pinf := x.pinf || d.pinf, ninf := x.ninf || d.ninf }
  if d.nan || d.pinf || d.ninf || decide (d.sum = 0) then x else (x.align (limitOf wide) d.sum dotUnit).1

/-- The decoded A rows of an operation. -/
def mxRowsA (f : MxFlight) : List (List Num) :=
  let h := mxShapeOf f.op f.word
  (f.a.rows.take h.m).zipIdx.map (fun r =>
    let v := leNat (r.1.take 384)
    if mxSp f.word then (List.range h.sk).map (sparseElem h.fa v ((f.a.mdw.drop (r.2 * h.mdWords)).take h.mdWords))
    else (List.range h.k).map (rowElem h.fa v (f.a.scales.getD r.2 [])))

/-- The decoded B rows of an operation. -/
def mxRowsB (f : MxFlight) : List (List Num) :=
  let h := mxShapeOf f.op f.word
  (f.b.rows.take h.n).zipIdx.map (fun r =>
    let v := leNat (r.1.take (mxRbB f.word))
    (List.range (if mxSp f.word then h.sk else h.k)).map (rowElem h.fb v (f.b.scales.getD r.2 [])))

/-- The sum of an operation into its accumulator, and NONF (R233, R235, R237). -/
def mxApply (f : MxFlight) (acc : SMap AccEntry) : SMap AccEntry × Bool :=
  let wide := f.op == .f64
  let bs := mxRowsB f
  (mxRowsA f).zipIdx.foldl (fun r a =>
    bs.zipIdx.foldl (fun r b =>
      let d := dotTerm a.1 b.1
      if d.nan || d.pinf || d.ninf || decide (d.sum ≠ 0) then
        (csPut r.1 wide a.2 b.2 (addTerm (csGet r.1 wide a.2 b.2) wide d), r.2 || d.nan || d.pinf || d.ninf)
      else r) r) (acc, false)

/-- The result word (R233). -/
def mxWord (seq : BitVec 32) (o : MxOp) (w : Word) (nonf : Bool) : Word :=
  word (seq.toNat * 2 ^ 32 + o.port * 2 ^ 16 + b2n nonf * 2 ^ 10 + (mxAccOf w).val)

/-- R233: the operation that lands in this cycle updates its accumulator and completes. -/
def Tile.landMx (t : Tile) (now : Nat) : Tile :=
  match t.mx.flights.find? (fun f => decide (f.due ≤ now)) with
  | none => t
  | some f =>
    let k := mxAccOf f.word
    let r := mxApply f t.vu.acc[k.val]
    let seq := t.mx.seq + 1
    let t := { t with mx := { t.mx with seq := seq, flights := t.mx.flights.filter (fun g => g.id != f.id) } }
    (t.modVu (fun u => u.modAcc k (fun _ => r.1))).modStrand .compute
      (fun st => st.complete f.id now (res64 (mxWord seq f.op f.word r.2)))

/-- R239: at the end of a cycle the latches whose source bytes were written become invalid. A latch that an operation reloads in the cycle in
which bytes of its earlier source were written, before the reload, becomes invalid as well, for those were the source bytes of a valid latch when
they were written; a write of that cycle before the reload to the new source bytes alone leaves it valid, for the operation reads what was written
(DEDUCED, entry 30). -/
def Mx.settle (m : Mx) : Mx :=
  { m with a := if m.staleA then { m.a with lv := false } else m.a, b := if m.staleB then { m.b with lv := false } else m.b,
           staleA := false, staleB := false }

end Sys2Proof.Machine
end

