-- ==== Sys2Proof/Machine/Copy.lean ====
section
/-! DEFINITION. The copy engine (R264 to R279, R422): the launch by a go port, the movement of elements, completion,
retirement, query, cancel and errors. -/

namespace Sys2Proof.Machine

/-- LAT_CPQ (R264). -/
def latCpq : Nat := 2

/-- The stat port of a channel (R264). -/
def cpStat : Channel → ResPort
  | .cpi => .cpiStat
  | .cpo => .cpoStat

/-- The destination number of port 0 of a channel (R264). -/
def cpBase : Channel → Nat
  | .cpi => 0x580
  | .cpo => 0x5C0

/-- The strand that owns a channel (R264). -/
def cpOwner : Channel → StrandId
  | .cpi => .feed
  | .cpo => .drain

/-- CH of a channel (R268). -/
def cpNum : Channel → Nat
  | .cpi => 0
  | .cpo => 1

/-- A copy channel of a tile. -/
def Tile.channel (t : Tile) : Channel → CopyChannel
  | .cpi => t.cpi
  | .cpo => t.cpo

/-- Changes a copy channel. -/
def Tile.modChannel (t : Tile) (c : Channel) (f : CopyChannel → CopyChannel) : Tile :=
  match c with
  | .cpi => { t with cpi := f t.cpi }
  | .cpo => { t with cpo := f t.cpo }

/-! ### The parameters (R265 to R267) -/

/-- SPACE of a copy selector (R265). -/
def cpSpace (v : Word) : Nat := field v 13 12
/-- IDX of a copy selector. -/
def cpIdx (v : Word) : Nat := field v 3 0
/-- LTN of a copy selector. -/
def cpLtn (v : Word) : Nat := field v 26 16
/-- The reserved bits of a selector are zero. -/
def cpSelOk (v : Word) : Bool := decide (field v 63 27 = 0) && decide (field v 15 14 = 0) && decide (field v 11 4 = 0)

/-- The effective space of a selector: its own tile's number makes it local (R265). -/
def cpKind (l : Nat) (v : Word) : Nat := if cpSpace v = 1 ∧ cpLtn v = l then 0 else cpSpace v

/-- TAG of a control word (R266). -/
def Copy.tag (x : Copy) : Nat := field x.ctl 63 56
/-- SEMI of a control word. -/
def Copy.semi (x : Copy) : Nat := field x.ctl 47 42
/-- MSTR of a control word; the reserved value does not pass the launch. -/
def Copy.mstr (x : Copy) : StrandId := match field x.ctl 39 38 with | 0 => .feed | 1 => .compute | _ => .drain
/-- The copy sends a message (CM 01 and 11). -/
def Copy.sends (x : Copy) : Bool := bit x.ctl 33
/-- The copy posts a semaphore (CM 10 and 11). -/
def Copy.posts (x : Copy) : Bool := bit x.ctl 34
/-- NDIM of a control word. -/
def cpNdim (ctl : Word) : Nat := field ctl 20 16
/-- The element size in bytes. -/
def Copy.esz (x : Copy) : Nat := 2 ^ field x.ctl 2 0
/-- The reserved bits of a control word are zero. -/
def cpCtlOk (v : Word) : Bool :=
  decide (field v 55 48 = 0) && decide (field v 41 40 = 0) && decide (field v 36 35 = 0) && decide (field v 32 21 = 0) &&
  decide (field v 15 3 = 0)

/-- The counts of the used dimensions (R267). -/
def Copy.counts (x : Copy) : List Nat := x.sd.map dimN
/-- The elements of a copy. -/
def Copy.total (x : Copy) : Nat := x.counts.foldl (· * ·) 1
/-- The source dimensions as counts and strides, dimension 0 first. -/
def Copy.sdims (x : Copy) : List (Nat × Int) := x.sd.map (fun d => (dimN d, dimS d))
/-- The destination dimensions as counts and strides. -/
def Copy.ddims (x : Copy) : List (Nat × Int) := (x.sd.zip x.dd).map (fun p => (dimN p.1, dimS p.2))

/-- CopyMap of one side for element j (R270). -/
def copyMap (dims : List (Nat × Int)) (j : Nat) (off : Int) : Int :=
  match dims with
  | [] => off
  | (n, st) :: r => copyMap r (j / n) (off + (j % n : Nat) * st)

/-- The lowest and highest of the offsets that dimensions add (R272). -/
def dimsSpan : List (Nat × Int) → Int × Int
  | [] => (0, 0)
  | (n, st) :: r =>
    let d := ((n - 1 : Nat) : Int) * st
    let p := dimsSpan r
    (p.1 + min 0 d, p.2 + max 0 d)

/-- R272: the footprint of a local window side, as base and length; none for a copy of no element or another side. -/
def sideFoot (t : Tile) (l : Nat) (sel off : Word) (dims : List (Nat × Int)) (total esz : Nat) : Option (Nat × Nat) :=
  if cpKind l sel ≠ 0 ∨ total = 0 then none
  else
    let w := t.window (cpIdx sel)
    let sp := dimsSpan dims
    let lo := (off.toNat : Int) + sp.1
    let len := (sp.2 - sp.1).toNat + esz
    let a := wrapWindow (unsign 64 lo) w.size
    if w.size = 0 then none
    else if len ≤ w.size ∧ wrapWindow (unsign 64 (lo + (len - 1 : Nat))) w.size = a + (len - 1) then some (w.base + a, len)
    else some (w.base, w.size)

/-- R269: the first element in element order with a byte outside a handle's region, by dimension from the highest down: the
answer is that element's offset. -/
def firstBadOffset (extent esz : Nat) : List (Nat × Int) → Int → Option Int
  | [], off => some off
  | (n, st) :: lower, off =>
    let sp := dimsSpan lower
    match firstOut off st n (-sp.1) ((extent : Int) - esz - sp.2) with
    | none => none
    | some i => firstBadOffset extent esz lower (off + i * st)

/-! ### Launch (R268, R269) -/

/-- The shadow a launch takes of the operand ports (R268). -/
def copyShadow (c : Channel) (t : Tile) : Copy :=
  let st := t.strand (cpOwner c)
  let b := cpBase c
  let ctl := st.opw (b + 4)
  let ds := List.range (min 16 (cpNdim ctl))
  { xid := (t.channel c).nextXid, pc := st.pc, ssel := st.opw b, soff := st.opw (b + 1), dsel := st.opw (b + 2),
    doff := st.opw (b + 3), ctl := ctl, sd := ds.map (fun m => st.opw (b + 0x10 + m)), dd := ds.map (fun m => st.opw (b + 0x20 + m)),
    order := t.copyOrder, begun := false, done := 0, cancelled := false, completed := false, bound := [], sfoot := none,
    dfoot := none, after := st.nextId, due := 0, sent := 0 }

/-- The shadow with its footprints (R272). -/
def launchShadow (l : Nat) (c : Channel) (t : Tile) : Copy :=
  let x := copyShadow c t
  { x with sfoot := sideFoot t l x.ssel x.soff x.sdims x.total x.esz, dfoot := sideFoot t l x.dsel x.doff x.ddims x.total x.esz }

/-- R269: the bounds of a handle side. -/
def sideBounds (t : Tile) (sel off : Word) (dims : List (Nat × Int)) (total esz : Nat) : Check :=
  match t.regions[cpIdx sel]? with
  | none => none
  | some r =>
    if cpSpace sel ≠ 2 ∨ total = 0 then none
    else match firstBadOffset r.extent esz dims.reverse off.toNat with
      | some o => some (.regionBounds, unsign 64 o)
      | none => none

/-- R269, R320: the permission of a handle side. -/
def sidePerm (t : Tile) (sel off : Word) (kind : AccessKind) : Check :=
  match t.regions[cpIdx sel]? with
  | none => none
  | some r => if cpSpace sel ≠ 2 then none else need (modePermits r.mode kind && !r.closed) .regionPerm off.toNat

/-- R269: the index of a local or handle side. -/
def sideIndex (t : Tile) (l : Nat) (sel : Word) : Check :=
  match cpKind l sel with
  | 0 => need (decide (cpIdx sel < t.windows.length)) .regionBounds 0
  | 2 => need (decide (cpIdx sel < t.regions.length)) .regionBounds 0
  | _ => none

/-- R269: the checks of a launch, by the rows of its table. -/
def launchCheck (l : Nat) (c : Channel) (slot : Nat) (s : State) : Check :=
  let t := s.tile l
  let x := launchShadow l c t
  let n := cpNdim x.ctl
  let selRange := fun (v : Word) => !(decide (cpKind l v = 1) && (decide (1599 < cpLtn v) || decide (7 < cpIdx v)))
  (need (cpCtlOk x.ctl && cpSelOk x.ssel && cpSelOk x.dsel && x.dd.all (fun d => decide (field d 63 32 = 0)) &&
      decide (1 ≤ n) && decide (n ≤ 16) && decide (cpSpace x.ssel ≠ 3) && decide (cpSpace x.dsel ≠ 3)) .operandRange slot).andThen <|
  (need (selRange x.ssel && selRange x.dsel && !(x.sends && decide (field x.ctl 39 38 = 3))) .operandRange slot).andThen <|
  (need (decide (x.total * x.esz ≤ 2 ^ 40)) .operandRange slot).andThen <|
  (need (match x.sfoot, x.dfoot with | some a, some b => !overlap a b | _, _ => true) .operandRange slot).andThen <|
  (sideIndex t l x.ssel).andThen <| (sideIndex t l x.dsel).andThen <|
  (sideBounds t x.ssel x.soff x.sdims x.total x.esz).andThen <| (sideBounds t x.dsel x.doff x.ddims x.total x.esz).andThen <|
  (sidePerm t x.ssel x.soff .load).andThen (sidePerm t x.dsel x.doff .store)

/-- R268: the go port can be read in this cycle. -/
def Tile.goReady (t : Tile) (c : Channel) : Bool :=
  decide ((t.channel c).copies.length < 16) && decide ((t.strand (cpOwner c)).cpcnt < 255)

/-- R328: a launch with a remote-window side waits for the commit of a speculative task. -/
def launchAccept (l : Nat) (c : Channel) (s : State) : Bool :=
  let x := copyShadow c (s.tile l)
  !s.speculates l || (cpKind l x.ssel != 1 && cpKind l x.dsel != 1)

/-- The go word that a read of the go port gives (R268). -/
def Tile.goWord (t : Tile) (c : Channel) : Word := word (cpNum c * 2 ^ 16 + (t.channel c).nextXid)

/-- The cycle in which a copy launched now may move its first element: at once where it has none (R267), within 32 cycles where both sides are
windows of its own tile (R422), and otherwise when the network lets it. -/
def launchDue (l : Nat) (x : Copy) (s : State) : Nat :=
  if x.total = 0 then s.cycle
  else if cpKind l x.ssel = 0 ∧ cpKind l x.dsel = 0 then s.cycle + 1 + Config.latency s.free % 32
  else s.nextDue

/-- R89, R268, R272, R273: launches a copy: its shadow, its footprints and its place among the tile's copies. -/
def launchCopy (l : Nat) (c : Channel) (s : State) : State :=
  s.bump.modTile l (fun t =>
    let x := launchShadow l c t
    let x := { x with due := launchDue l x s }
    let t := t.modChannel c (fun ch =>
      { ch with nextXid := if ch.nextXid = 65535 then 1 else ch.nextXid + 1, copies := ch.copies ++ [x] })
    Tile.modStrand { t with copyOrder := t.copyOrder + 1 } (cpOwner c) Strand.addCp)

/-! ### Query and cancel (R276, R277) -/

/-- A copy of a channel by its transfer id. -/
def CopyChannel.copy? (ch : CopyChannel) (xid : Nat) : Option Copy := ch.copies.find? (fun x => x.xid == xid)

/-- A copy of a channel by its place among the tile's copies: a transfer id can come again while a copy waits for its message to enter. -/
def CopyChannel.copyAt? (ch : CopyChannel) (order : Nat) : Option Copy := ch.copies.find? (fun x => x.order == order)

/-- Changes a copy of a channel, by its transfer id. -/
def CopyChannel.modCopy (ch : CopyChannel) (xid : Nat) (f : Copy → Copy) : CopyChannel :=
  { ch with copies := ch.copies.map (fun x => if x.xid = xid then f x else x) }

/-- STATE of a copy (R276). -/
def Copy.stateCode (x : Copy) : Nat := if x.completed then 3 else if x.begun then 2 else 1

/-- The stat word of a transfer id (R276). DONE has 40 bits, in which the 2^40 bytes that R269 allows at most show as 0 (DESIGN CHOICE, entry
29). -/
def CopyChannel.stat (ch : CopyChannel) (xid : Nat) : Word :=
  match ch.copy? xid with
  | some x => word (x.stateCode * 2 ^ 62 + b2n x.cancelled * 2 ^ 61 + x.done % 2 ^ 40)
  | none => 0

/-- A query or cancel delivers the stat word at the start of its cycle; a cancel sets CAN of a copy that has not completed
(R276, R277). -/
def cpStart (c : Channel) (o : CpOp) (i : Iss) (s : State) : State :=
  let xid := i.t.toNat % 2 ^ 16
  let s' := i.modStrand s (fun st => st.flyAt (s.cycle + latCpq) (cpStat c) (res64 (((i.tile s).channel c).stat xid)))
  match o with
  | .query => s'
  | .cancel => s'.modTile i.l (fun t => t.modChannel c (fun ch => ch.modCopy xid (fun x => if x.completed then x else { x with cancelled := true })))

/-- R22: a query or cancel waits while its stat port holds or awaits an unread result. -/
def cpAccept (c : Channel) (i : Iss) (s : State) : Bool := !((i.strand s).port (cpStat c)).full

/-! ### Movement (R270, R271, R273) -/

/-- The element a copy moves next: all of them in turn, from one the manual leaves open (R271, log entry 12). -/
def Copy.element (x : Copy) (n : Nat) : Nat := (n + Config.value x.order) % x.total

/-- The location of an element on one side (R270). -/
def sideLoc (t : Tile) (l : Nat) (sel off : Word) (dims : List (Nat × Int)) (j : Nat) : Loc :=
  let o := copyMap dims j off.toNat
  match cpSpace sel with
  | 0 => .window l (cpIdx sel) (unsign 64 o)
  | 1 => .window (cpLtn sel) (cpIdx sel) (unsign 64 o)
  | _ => .global (t.handleBase (cpIdx sel) + o.toNat)

/-- The SPM bytes of the tile itself at a location. -/
def ownBytes (t : Tile) (l : Nat) (loc : Loc) (n : Nat) : List (Option Nat) :=
  match loc with
  | .window tl w off => if tl = l then (t.window w).addrs off n else []
  | .global _ => []

/-- R273: bytes of a copy wait for the copies launched before it and for the collectives ready before it (R383); its writes also for an rsave
(R260) and for matrix reads (R240). -/
def copyHeld (t : Tile) (now : Nat) (x : Copy) (src dst : List (Option Nat)) : Bool :=
  let earlier := t.copies.filter (fun y => decide (y.order < x.order))
  let coll := fun (b : Nat) => t.fx.colls.any (fun y => decide (y.order ≤ x.order) && inRange (y.foot t) b)
  let hits := fun (f : Nat → Bool) (as : List (Option Nat)) => as.any (fun a => match a with | some b => f b | none => false)
  hits (fun b => earlier.any (fun y => inRange y.dfoot b) || coll b) src ||
  hits (fun b => earlier.any (fun y => inRange y.dfoot b || inRange y.sfoot b) || coll b || t.rsaveHolds b) dst ||
  t.mxReads now dst || t.stagePending dst

/-- The remote tile of a copy's side, if it has one. -/
def sideTile (l : Nat) (sel : Word) : Option Nat := if cpKind l sel = 1 then some (cpLtn sel) else none

/-- R274, R278: a remote tile holds a live task of the context, and the one the copy is bound to. -/
def boundOk (s : State) (l : Nat) (x : Copy) (tl : Nat) : Bool :=
  s.liveFor (s.ctxOf l) tl && x.bound.all (fun b => b.1 != tl || (s.tile tl).owner == some b.2)

/-- R274: binds a copy to the tasks on remote tiles that it reaches now for the first time. -/
def Copy.bind (x : Copy) (s : State) (tls : List Nat) : Copy :=
  let fresh := tls.filter (fun tl => x.bound.all (fun b => b.1 != tl))
  { x with bound := x.bound ++ fresh.filterMap (fun tl => (s.tile tl).owner.map (fun o => (tl, o))) }

/-- Whether a byte written by element j was already written by an element of higher number (R271). -/
def Copy.overwritten (x : Copy) (t : Tile) (l n j : Nat) (ids : Loc → List ByteId) (b : ByteId) : Bool :=
  (List.range n).any (fun m =>
    let i := x.element m
    decide (j < i) && (ids (sideLoc t l x.dsel x.doff x.ddims i)).contains b)

/-- The bytes of an element as they are written: a byte that a higher element wrote keeps its value (R271). -/
def State.copyWrite (s : State) (l : Nat) (x : Copy) (n j : Nat) (bs : List Byte) : State × Option Fail :=
  let t := s.tile l
  let dst := sideLoc t l x.dsel x.doff x.ddims j
  let ids := fun (loc : Loc) => s.byteIds loc x.esz
  let kept := (ids dst).zipIdx.filter (fun p => p.1 == .nowhere || !x.overwritten t l n j ids p.1)
  if kept.length = bs.length then s.writeLoc l dst bs
  else kept.foldl (fun acc p =>
    match acc with
    | (s, some f) => (s, some f)
    | (s, none) =>
      let at1 := match dst with
        | .window tl w off => Loc.window tl w (off + p.2)
        | .global va => Loc.global (va + p.2)
      s.writeLoc l at1 [bs.getD p.2 0]) (s, none)

/-- Replaces a copy of a tile's channel. -/
def State.putCopy (s : State) (l : Nat) (c : Channel) (x : Copy) : State :=
  s.modTile l (fun t => t.modChannel c (fun ch => { ch with copies := ch.copies.map (fun y => if y.order = x.order then x else y) }))

/-- R291: the cycle from which a copy may reach its remote sides, waking them. -/
def State.copyWake (s : State) (l : Nat) (x : Copy) : State × Nat :=
  ([sideTile l x.ssel, sideTile l x.dsel].filterMap id).foldl (fun p tl =>
    let r := p.1.arrive tl false
    (r.1, max p.2 r.2)) (s, s.cycle)

/-- R422: the channel has moved no element in this cycle, and with it the two channels of the tile stay within 128 bytes a cycle. -/
def Tile.canMove (t : Tile) (c : Channel) (now n : Nat) : Bool :=
  let o := match c with | .cpi => t.cpo | .cpo => t.cpi
  (t.channel c).movedAt != now + 1 && (o.movedAt != now + 1 || decide (o.movedBytes + n ≤ 128))

/-- One element moves, or the copy waits (R270, R271, R273, R278, R422). -/
def State.copyMove (s : State) (l : Nat) (c : Channel) (x : Copy) : State × Option Fail :=
  let t := s.tile l
  let n := x.done / x.esz
  let j := x.element n
  let src := sideLoc t l x.ssel x.soff x.sdims j
  let dst := sideLoc t l x.dsel x.doff x.ddims j
  if copyHeld t s.cycle x (ownBytes t l src x.esz) (ownBytes t l dst x.esz) || !t.canMove c s.cycle x.esz ||
      !s.specRoom l (src.range x.esz ++ dst.range x.esz) then (s, none)
  else
    let r := s.copyWake l x
    let s := r.1
    if s.cycle < r.2 then (s.putCopy l c { x with due := r.2 }, none)
    else match ([sideTile l x.ssel, sideTile l x.dsel].filterMap id).find? (fun tl => !boundOk s l x tl) with
    | some tl => (s, some (.gone tl))
    | none =>
      match s.readLoc l src x.esz with
      | (s, .error f) => (s, some f)
      | (s, .ok bs) =>
        match s.copyWrite l x n j bs with
        | (s, some f) => (s, some f)
        | (s, none) =>
          let x := x.bind s ([sideTile l x.ssel, sideTile l x.dsel].filterMap id)
          let s := s.modTile l (fun t => t.modChannel c (fun ch => { ch with movedAt := s.cycle + 1, movedBytes := x.esz }))
          (s.putCopy l c { x with begun := true, done := x.done + x.esz, due := s.cycle + 1 }, none)

/-! ### Completion, retirement and errors (R274, R275, R278) -/

/-- The tile that a completion's message goes to (R266). -/
def Copy.messageTile (x : Copy) (l : Nat) : Nat := if bit x.ctl 37 then (sideTile l x.dsel).getD l else l

/-- The tile that a completion posts on (R274). -/
def Copy.postTile (x : Copy) (l : Nat) : Nat := (sideTile l x.dsel).getD l

/-- The tiles that a completion must reach. -/
def Copy.reaches (x : Copy) (l : Nat) : List Nat :=
  ((if x.posts && !x.completed then [x.postTile l] else []) ++ (if x.sends then [x.messageTile l] else [])).filter (fun tl => tl != l)

/-- The completion message of a copy (R274). -/
def Copy.message (x : Copy) (l : Nat) (c : Channel) : Word :=
  mailWord 1 l (x.tag * 2 ^ 40 + (if x.cancelled then 2 ^ 38 else 0) + cpNum c * 2 ^ 16 + x.xid)

/-- R274: the copy completes: it applies its post and its message, if it has one, waits to enter its mailbox. -/
def State.copyFinish (s : State) (l : Nat) (c : Channel) (x : Copy) : State × Option Fail :=
  match (x.reaches l).find? (fun tl => !boundOk s l x tl) with
  | some tl => (s, some (.gone tl))
  | none =>
    let y := x.bind s (x.reaches l)
    let s := if x.posts then s.modTile (x.postTile l) (fun t => t.agentPost x.semi) else s
    let s := s.modTile l (fun t => { t with copyOrder := t.copyOrder + 1 })
    (s.putCopy l c { y with completed := true, sent := (s.tile l).copyOrder }, none)

/-- One step of a copy at the end of a cycle: nothing while it waits, one element, or its completion. -/
def State.copyStep (s : State) (l : Nat) (c : Channel) (x : Copy) : State × Option Fail :=
  if x.completed then
    match (x.reaches l).find? (fun tl => !boundOk s l x tl) with
    | some tl => (s, some (.gone tl))
    | none => (s, none)
  else if s.cycle < x.due || !(x.begun || decide (x.total = 0) || (s.tile l).allBefore (cpOwner c) x.after) then (s, none)
  else if x.cancelled || decide (x.total * x.esz ≤ x.done) then s.copyFinish l c x
  else match s.copyMove l c x with
    | (s', some f) => (s', some f)
    | (s', none) =>
      match ((s'.tile l).channel c).copyAt? x.order with
      | some y => if y.total * y.esz ≤ y.done then s'.copyFinish l c y else (s', none)
      | none => (s', none)

/-- Removes a copy: its footprints leave the scoreboard and CPCNT drops (R275). -/
def State.retireCopy (s : State) (l : Nat) (c : Channel) (order : Nat) : State :=
  s.modTile l (fun t =>
    (t.modChannel c (fun ch => { ch with copies := ch.copies.filter (fun x => x.order != order) })).modStrand (cpOwner c) Strand.subCp)

/-- R275: a completed copy that sends no message retires. -/
def State.retireSilent (s : State) (l : Nat) (c : Channel) (order : Nat) : State :=
  if (((s.tile l).channel c).copyAt? order).any (fun x => x.completed && !x.sends) then s.retireCopy l c order else s

/-- COPY_COMPLETE (R270, R271, R274, R275): one step of the copy of channel `ch` of tile `l` whose place among the tile's copies is `id`; completed, it retires where it sends no
message. -/
def execCopyComplete (s : State) : State :=
  let a := s.args
  match ((s.tile a.l).channel a.ch).copyAt? a.id with
  | none => s
  | some x => match s.copyStep a.l a.ch x with
    | (s', none) => s'.retireSilent a.l a.ch a.id
    | (_, some _) => s

/-- R278, R143, R331: the DETAIL of a copy's fault: the channel and transfer id, but for poison, whose DETAIL is as R331 gives. -/
def copyDetail (c : Channel) (xid : Nat) (f : Fail) : Nat :=
  match f with
  | .gone _ => cpNum c * 2 ^ 16 + xid
  | .poison _ _ => f.fault.2

/-- COPY_ERROR (R278): the copy of place `id` of channel `ch` of tile `l` meets a gone target or poison; it retires and its strand takes a
deferred fault. -/
def execCopyError (s : State) : State :=
  let a := s.args
  match ((s.tile a.l).channel a.ch).copyAt? a.id with
  | none => s
  | some x => match s.copyStep a.l a.ch x with
    | (_, none) => s
    | (s', some f) =>
      (s'.retireCopy a.l a.ch a.id).modTile a.l (fun t => t.modStrand (cpOwner a.ch) (fun st =>
        st.failed f x.pc (copyDetail a.ch x.xid f)))

/-- COPY_RETIRE (R275, R138): the message of the completed copy of place `id` of channel `ch` of tile `l` enters its mailbox and the copy retires: the
messages of a channel to one mailbox enter in the order sent, those held through a stop before any other of the channel (R279). A sender is one copy
channel, or the nx interface, of a tile (DESIGN CHOICE, entry 30). -/
def execCopyRetire (s : State) : State :=
  let a := s.args
  let ch := (s.tile a.l).channel a.ch
  match ch.copyAt? a.id with
  | none => s
  | some x =>
    if !x.completed then s
    else if !x.sends then s.retireCopy a.l a.ch a.id
    else
      let tl := x.messageTile a.l
      let first := ch.held.isEmpty && ch.copies.all (fun y =>
        !(y.completed && y.sends && decide (y.sent < x.sent) && y.messageTile a.l == tl && y.mstr == x.mstr))
      let r := if tl = a.l then (s, s.cycle) else s.arrive tl true
      if !first || decide (r.1.cycle < r.2) || !boundOk r.1 a.l x tl && tl != a.l || !((r.1.tile tl).strand x.mstr).mailRoom s.cycle then r.1
      else (r.1.modTile tl (fun t => t.modStrand x.mstr (fun st => st.mailIn s.cycle (x.message a.l a.ch)))).retireCopy a.l a.ch a.id

/-- R279: the messages that a stop held enter their mailboxes in order. -/
def Tile.heldMail (t : Tile) (c : Channel) (now : Nat) : Tile :=
  match (t.channel c).held with
  | [] => t
  | (k, w) :: r =>
    if (t.strand k).mailRoom now then
      (t.modChannel c (fun ch => { ch with held := r })).modStrand k (fun st => st.mailIn now w)
    else t

end Sys2Proof.Machine
end

