-- ==== Sys2Proof/Machine/Exchange.lean ====
section
/-! DEFINITION. The exchange engine nx (R280 to R302): remote accesses, handle release and acquire, messages, subscriptions and
multicast, barriers and scheduled sends. -/

namespace Sys2Proof.Machine

/-- LAT_NXH (R280). -/
def latNxh : Nat := 1

/-! ### Fields (R282, R289, R296) -/

/-- ORD of nx.sel (R282). -/
def nxOrd (v : Word) : Nat := field v 29 28
/-- SPACE of nx.sel. -/
def nxSpace (v : Word) : Nat := field v 13 12
/-- LTN of nx.sel, and of a target word (R289). -/
def nxLtn (v : Word) : Nat := field v 26 16
/-- IDX of nx.sel. -/
def nxIdx (v : Word) : Nat := field v 3 0
/-- The reserved bits of nx.sel are zero. -/
def nxSelOk (v : Word) : Bool :=
  decide (field v 63 30 = 0) && !bit v 27 && decide (field v 15 14 = 0) && decide (field v 11 4 = 0)

/-- The atomic of an nx trigger (R283). -/
def nxAtomic : NxOp → Option AtomicOp
  | .aadd => some .add | .aswp => some .swap | .acas => some .cas | .amin => some .min | .amax => some .max
  | .aminu => some .minu | .amaxu => some .maxu | .aand => some .and | .aor => some .or | .axor => some .xor
  | _ => none

/-- A trigger that accesses memory through nx.sel (R283). -/
def nxIsAccess (o : NxOp) : Bool :=
  match o with
  | .rld | .rst | .rvst | .hrel | .hacq => true
  | _ => (nxAtomic o).isSome

/-- SPACE and ORD that R283 allows a trigger. -/
def nxFormOk (o : NxOp) (sel : Word) : Bool :=
  let sp := nxSpace sel
  let od := nxOrd sel
  match o with
  | .rld => decide (sp = 1) && (decide (od = 0) || decide (od = 1))
  | .rst | .rvst => decide (sp = 1) && (decide (od = 0) || decide (od = 2))
  | .hrel | .hacq => decide (sp = 2) && decide (od = 0)
  | _ => decide (sp = 1) || decide (sp = 2)

/-- The bytes an access reaches from its offset (R283, R288). -/
def nxBytes (o : NxOp) (st : Strand) : Nat :=
  match o with
  | .rvst => 128
  | .hrel | .hacq => (st.opw 0x644).toNat
  | _ => 8

/-! ### Domains (R295, R299) -/

/-- The task of a tile is a member of the gang that a package barrier domain is bound to. -/
def State.inDomain (s : State) (d : Domain) (l : Nat) : Bool :=
  d.members.contains l && s.ctxOf l == d.ctx && (s.taskOn l).any (fun t => t.gang && t.gangUid == d.gangUid)

/-- The package barrier domain that the task of a tile is a member of (R295). -/
def State.domainOf (s : State) (l : Nat) : Option (Nat × Domain) := s.domains.find? (fun p => s.inDomain p.2 l)

/-- The logical tile of a gang member (R7, R123). -/
def Task.memberTile (t : Task) (m : Nat) : Nat := t.origin + 40 * (m / t.gw) + m % t.gw

/-- R301: the reason for which an entry may not be sent, in the order 5, 2, 3, 4, 1, with c. Where the domain has completed no
barrier, T0 is not stated: c is a free value (log entry 7). -/
def State.slotReason (s : State) (l idx : Nat) : Option (Nat × Nat) :=
  let tile := s.tile l
  let dom := (s.domainOf l).map (·.2)
  let c := match dom.bind Domain.t0 with
    | some t0 => s.cycle - t0
    | none => Config.value s.free
  match s.taskOn l with
  | none => some (5, c)
  | some t =>
    match t.sched[idx]? with
    | none => some (5, c)
    | some e =>
      if dom.bind Domain.phase ≠ some e.ph then some (2, c)
      else if e.src ≠ t.gidx then some (3, c)
      else if tile.nx.sentIdx.contains idx then some (4, c)
      else if e.cyc ≤ c then some (1, c)
      else none

/-! ### Checks and acceptance -/

/-- The checks of an access trigger (R285, R320). -/
def nxAccessCheck (o : NxOp) (i : Iss) (s : State) : Check :=
  let t := i.tile s
  let st := i.strand s
  let sel := st.opw 0x640
  let off := i.t.toNat
  let n := nxBytes o st
  (need (nxSelOk sel && nxFormOk o sel && !(decide (nxSpace sel = 1) && (decide (1599 < nxLtn sel) || decide (7 < nxIdx sel))) &&
      ((nxAtomic o).isNone || decide (off % 8 = 0)) && decide (0 < n)) .operandRange i.slot).andThen
    (if nxSpace sel ≠ 2 then none
     else match t.regions[nxIdx sel]? with
       | none => some (.regionBounds, off)
       | some r =>
         (need (decide (off + n ≤ r.extent)) .regionBounds off).andThen
           (need (!r.closed && ((nxAtomic o).isNone || modePermits r.mode .atomic)) .regionPerm off))

/-- The checks of an nx trigger at issue (R285, R289, R296, R301). -/
def nxCheck (o : NxOp) (i : Iss) (s : State) : Check :=
  let v := i.t
  match o with
  | .sub | .unsub | .rhdr => none
  | .gcfg => need (decide (field v 63 32 = 0)) .operandRange i.slot
  | .mcast => need (decide (field v 63 16 = 0)) .operandRange i.slot
  | .wake | .msg => need (decide (field v 63 27 = 0) && decide (field v 15 2 = 0) && decide (field v 1 0 ≠ 3)) .operandRange i.slot
  | .bar => need (decide (field v 63 40 = 0) && (s.taskOn i.l).any Task.gang) .operandRange i.slot
  | .xsend =>
    (match s.slotReason i.l v.toNat with
     | some (r, c) => some (.slotViolation, r * 2 ^ 48 + min c 0xFFFF * 2 ^ 32 + v.toNat % 2 ^ 16)
     | none => none)
  | _ => nxAccessCheck o i s

/-- The register of a mapped nx access (R280, R281). -/
def nxMapped (o : NxOp) (st : Strand) : Option (Fin 64) :=
  if o = .rld ∨ (nxAtomic o).isSome then mapTarget (st.opw 0x645) else none

/-- The result port of an nx trigger, where the value is not mapped (R280, R281). -/
def nxPort (o : NxOp) (st : Strand) : Option ResPort :=
  match o with
  | .sub | .unsub | .rhdr => some .nxRres
  | .bar => some .nxSres
  | _ => if (o = .rld ∨ (nxAtomic o).isSome) ∧ (nxMapped o st).isNone then some .nxSres else none

/-- R281: a port has an earlier result in flight or unread. -/
def Strand.portBusy (st : Strand) (p : ResPort) : Bool := (st.port p).full || st.flights.any (fun f => f.port == p)

/-- The access belongs to the die domain (R75): its target is a tile of the issuing die, or it reaches global bytes. R75 counts these
through nx too, so that a global atomic does (DEDUCED, entry 24), though it is performed at home (R283). -/
def nxNear (l : Nat) (sel : Word) : Bool := (nxSpace sel == 1 && dieOf (nxLtn sel) == dieOf l) || nxSpace sel == 2

/-- A store that enters the store buffer: to the issuing die, a .rel one as well (R284). -/
def nxBuffered (o : NxOp) (l : Nat) (sel : Word) : Bool := (o == .rst || o == .rvst) && nxNear l sel

/-- The multicasts that the interface holds (R293). -/
def Tile.heldMcasts (t : Tile) : Nat :=
  ((t.nx.mcasts.map McastFlight.id).dedup).length +
  (t.drain.accesses.filter (fun a => match a.op with | .multicast _ _ _ => true | _ => false)).length

/-- An nx trigger can accept (R79, R281, R284, R290, R293, R294, R301, R325, R328). -/
def nxAccept (o : NxOp) (i : Iss) (s : State) : Bool :=
  let t := i.tile s
  let st := i.strand s
  let sel := st.opw 0x640
  let spec := s.speculates i.l
  (match nxPort o st with | some p => !st.portBusy p | none => true) &&
  (match nxMapped o st with | some n => !st.pending n | none => true) &&
  (match o with
   | .rld => decide (st.loads s.cycle < 255)
   | .hacq => decide (st.loads s.cycle < 255)
   | .rst | .rvst => decide (st.stcnt < 255) && (!nxBuffered o i.l sel || decide (st.sb.length < 32)) && !spec &&
       (nxOrd sel != 2 || decide (st.loads s.cycle < 255))
   | .hrel => decide (st.stcnt < 255) && decide (st.loads s.cycle < 255) && !spec
   | .rhdr => (match t.nx.q12 with | e :: _ => decide (e.1 < s.cycle) | [] => false)
   | .wake | .msg => decide (t.nx.held.length < 8) && !spec && decide (st.stcnt < 255) && decide (st.loads s.cycle < 255)
   | .mcast => decide (t.heldMcasts < 8) && !spec && decide (st.stcnt < 255) && decide (st.loads s.cycle < 255)
   | .xsend => decide ((t.nx.sends.filter (fun x => !x.gone)).length < 8)
   | .sub | .unsub | .gcfg | .bar => true
   | _ => decide (st.loads s.cycle < 255) && !spec &&
       (!(nxOrd sel == 2 || nxOrd sel == 3) || decide (st.stcnt < 255)))

/-! ### Starting -/

/-- Starts an access that is performed later (R283, R284). -/
def nxPush (i : Iss) (s : State) (op : AccessOp) (loc : Loc) (near home : Bool) (m : Option (Fin 64)) (rel acq : Bool)
    (h : Option Nat) (ld stc : Bool) : State :=
  let due := s.nextDue
  i.modStrand s.bump (fun st =>
    let st := match m with | some n => st.dropMapped n | none => st
    st.pushAccess
      { id := 0, pc := st.pc, op := op, loc := loc, path := if near then .near else .far, home := home,
        port := if op.returns then some .nxSres else none, map := m, rel := rel, acq := acq, handle := h, countsLd := ld,
        countsSt := stc, performed := false, value := 0, due := due, ret := s.cycle + 1 })

/-- Starts an access trigger (R283, R284, R288). -/
def nxAccess (o : NxOp) (i : Iss) (s : State) : State :=
  let st := i.strand s
  let sel := st.opw 0x640
  let off := i.t.toNat
  let od := nxOrd sel
  let acq := decide (od = 1) || decide (od = 3)
  let rel := decide (od = 2) || decide (od = 3)
  let near := nxNear i.l sel
  let va := (i.tile s).handleBase (nxIdx sel) + off
  let isGlobal := decide (nxSpace sel = 2)
  let loc := if isGlobal then .global va else .window (nxLtn sel) (nxIdx sel) off
  let data := if o = .rvst then st.opnd 0x643 else (st.opw 0x641).setWidth 1024
  let n := nxBytes o st
  match o with
  | .rld => nxPush i s (.load 8 false) loc near false (nxMapped o st) rel acq none true false
  | .rst | .rvst =>
    let s := s.noteStore i.l i.k (s.byteIds loc n)
    if nxBuffered o i.l sel then
      let due := s.nextDue
      i.modStrand s.bump (fun st => st.pushStore st.pc loc n data none rel false due)
    else nxPush i s (.store n data) loc near false none rel acq none false true
  | .hrel => nxPush i s (.release va n) loc false false none true false (some (nxIdx sel)) false true
  | .hacq => nxPush i s (.acquire va n) loc false false none false true (some (nxIdx sel)) true false
  | _ =>
    match nxAtomic o with
    | some a =>
      let s := s.noteStore i.l i.k (s.byteIds loc 8)
      nxPush i s (.atomic a (st.opw 0x641) (st.opw 0x642)) loc near isGlobal (nxMapped o st) rel acq none true false
    | none => s

/-- The result word of sub and unsub (R292); where the table gives no entry, ENT is a free value (log entry 7). -/
def subWord (ok full absent : Bool) (ent : Nat) : Word :=
  word (b2n ok * 2 ^ 63 + b2n full * 2 ^ 62 + b2n absent * 2 ^ 61 + ent % 8)

/-- Puts a subscription change in flight. -/
def subPush (i : Iss) (s : State) (isSub : Bool) (tag : BitVec 16) (entry : Option Nat) (res : Word) : State :=
  let due := s.nextDue
  let id := (i.strand s).nextId
  (i.modStrand s.bump (fun st => st.fly none .nxRres (res64 0) true)).modTile i.l (fun t =>
    { t with nx := { t.nx with subs := t.nx.subs ++ [SubFlight.mk id isSub tag entry res due] } })

/-- Starts sub (R292). -/
def nxSub (i : Iss) (s : State) : State :=
  let nx := (i.tile s).nx
  let tag : BitVec 16 := ((i.strand s).opw 0x600).setWidth 16
  match nx.entryOf tag with
  | some (e, _) => subPush i s true tag none (subWord true false false e)
  | none =>
    match nx.mtab.toList.findIdx? Option.isNone with
    | some e =>
      let s := s.modTile i.l (fun t => { t with nx := { t.nx with mtab := t.nx.mtab.setIfInBounds e (some (tag, s.cycle)) } })
      subPush i s true tag (some e) (subWord true false false e)
    | none => subPush i s true tag none (subWord false true false (Config.value s.free))

/-- Starts unsub (R292): the entry is removed when its result lands. -/
def nxUnsub (i : Iss) (s : State) : State :=
  let tag : BitVec 16 := ((i.strand s).opw 0x600).setWidth 16
  match (i.tile s).nx.entryOf tag with
  | some (e, _) => subPush i s false tag (some e) (subWord true false false e)
  | none => subPush i s false tag none (subWord false false true (Config.value s.free))

/-- Starts xsend: the payload waits in the interface for its slot (R301). -/
def nxXsend (i : Iss) (s : State) : State :=
  let idx := i.t.toNat
  let st := i.strand s
  match (s.taskOn i.l), s.domainOf i.l with
  | some t, some (d, dom) =>
    match t.sched[idx]? with
    | none => s
    | some e =>
      let x : SchedSend :=
        { idx := idx, pc := st.pc, dst := t.memberTile e.dst, win := e.win, off := e.off, n := if e.big then 128 else 64,
          payload := st.opnd 0x643, depart := dom.t0.getD 0 + e.cyc, gone := false, hop := 0,
          reached := dom.t0.getD 0 + e.cyc, delay := 0, dom := d }
      s.modTile i.l (fun t => { t with nx := { t.nx with sends := t.nx.sends ++ [x], sentIdx := idx :: t.nx.sentIdx } })
  | _, _ => s

/-- The strand of a target word (R289). -/
def targetStrand (v : Word) : StrandId := match field v 1 0 with | 0 => .feed | 1 => .compute | _ => .drain

/-- Starts an nx trigger. -/
def nxStart (o : NxOp) (i : Iss) (s : State) : State :=
  let st := i.strand s
  match o with
  | .sub => nxSub i s
  | .unsub => nxUnsub i s
  | .rhdr =>
    let h := match (i.tile s).nx.q12 with | e :: _ => e.2.1 | [] => 0
    i.modStrand s (fun st => st.flyAt (s.cycle + latNxh) .nxRres (res64 h))
  | .gcfg => s.modTile i.l (fun t => { t with nx := { t.nx with threshold := i.t.toNat } })
  | .mcast =>
    let c := s.ctxOf i.l
    let dsts := s.subscribers c (i.t.setWidth 16)
    nxPush i { s with free := s.free + (s.ctx c).nextUid } (.multicast (i.t.setWidth 16) (st.opnd 0x643) dsts) (.global 0) false false none true
      false none false false
  | .wake | .msg =>
    let w := mailWord (if o = .wake then 2 else 3) i.l (field (st.opw 0x641) 47 0)
    nxPush i s (.message (nxLtn i.t) (targetStrand i.t) w) (.window (nxLtn i.t) 0 0) false false none true false none false false
  | .xsend => nxXsend i s
  | .bar =>
    let id := st.nextId
    (i.modStrand s (fun st => st.fly none .nxSres (res64 0) true)).modTile i.l (fun t =>
      { t with nx := { t.nx with barWait := some (id, i.t) } })
  | _ => nxAccess o i s

/-! ### Steps of the network (R283, R288 to R293) -/

/-- SUB_COMPLETE (R292): the oldest due sub or unsub of tile `l` lands. -/
def execSubComplete (s : State) : State :=
  let l := s.args.l
  match (s.tile l).nx.subs with
  | [] => s
  | f :: r =>
    if s.cycle < f.due then s
    else s.modTile l (fun t =>
      let mtab := match f.isSub, f.entry with
        | false, some e => t.nx.mtab.setIfInBounds e none
        | _, _ => t.nx.mtab
      { t with nx := { t.nx with subs := r, mtab := mtab } }.modStrand .feed (fun st => st.complete f.id s.cycle (res64 f.res)))

/-- REMOTE_ACCESS_PERFORM (R283): access `id` of the drain strand of tile `l` is performed when its turn comes. -/
def execRemoteAccessPerform (s : State) : State := s.tryPerform s.args.l .drain s.args.id

/-- HANDLE_SYNC_COMPLETE (R86, R288): release or acquire `id` of the drain strand of tile `l` completes when its turn comes. -/
def execHandleSyncComplete (s : State) : State :=
  if ((s.tile s.args.l).drain.accesses.any (fun a => a.id == s.args.id &&
    (match a.op with | .release _ _ | .acquire _ _ => true | _ => false)))
  then s.tryPerform s.args.l .drain s.args.id else s

/-- PEER_ACCESS_PERFORM (R68, R163): access `id` of strand `k` of tile `l` is performed when its turn comes. -/
def execPeerAccessPerform (s : State) : State := s.tryPerform s.args.l s.args.k s.args.id

/-- LOAD_RETURN (R163, R166): the value of performed access `id` of strand `k` of tile `l` returns. -/
def execLoadReturn (s : State) : State := s.returnAccess s.args.l s.args.k s.args.id

/-- The first message that an interface holds for a mailbox of a task. -/
def Nx.heldFor (n : Nx) (uid : Nat) (k : StrandId) : Option HeldMsg := n.held.find? (fun h => h.uid == uid && h.strand == k)

/-- MAILBOX_MESSAGE_ENTER (R137, R138, R290): with `flag`, the oldest message that an agent of the device holds for mailbox `k` of tile
`l` enters it; otherwise the oldest that the interface of tile `n` holds for mailbox `k` of task `uid`. A message is bound to the task
that its target tile held when it was sent, so that it waits while that task is stopped; it goes with the task. -/
def execMailboxMessageEnter (s : State) : State :=
  let a := s.args
  if a.flag then
    match ((s.tile a.l).strand a.k).mailHeld with
    | [] => s
    | w :: r =>
      let p := s.arrive a.l true
      if p.1.cycle < p.2 || !(p.1.tile a.l).live || !((p.1.tile a.l).strand a.k).mailRoom s.cycle then p.1
      else p.1.modTile a.l (fun t => t.modStrand a.k (fun st => { st with mailHeld := r }.mailIn s.cycle w))
  else
    match (s.tile a.n).nx.heldFor a.uid a.k with
    | none => s
    | some h =>
      let c := s.ctxOf a.n
      let drop := fun (s : State) => s.modTile a.n (fun t => { t with nx := { t.nx with held := t.nx.held.erase h } })
      match (s.ctx c).task? a.uid with
      | none => drop s
      | some t =>
        if t.state.over then drop s
        else match s.liveTile c t with
        | none => s
        | some l =>
          let p := if l = a.n then (s, s.cycle) else s.arrive l true
          if p.1.cycle < p.2 || !((p.1.tile l).strand a.k).mailRoom s.cycle then p.1
          else (drop p.1).modTile l (fun t => t.modStrand a.k (fun st => st.mailIn s.cycle h.word))

/-- The header of a q12 entry (R294). -/
def q12Header (src : Nat) (tag : BitVec 16) : Word := word (2 ^ 60 + src % 2 ^ 12 * 2 ^ 48 + tag.toNat)

/-- q12 has room for a message in this cycle (R11, R12). -/
def Nx.q12Room (n : Nx) (now : Nat) : Bool := decide (n.q12.length + b2n (n.q12Pop == now + 1) < 32)

/-- MCAST_DELIVER (R293): the oldest multicast of tile `n` for task `uid` enters its q12; it waits while that task is stopped, and is
discarded where the task has retired or the subscription has ended (R292). -/
def execMcastDeliver (s : State) : State :=
  let a := s.args
  match (s.tile a.n).nx.mcasts.find? (fun m => m.dst == a.uid) with
  | none => s
  | some m =>
    if s.cycle < m.due then s
    else
      let c := s.ctxOf a.n
      let drop := fun (s : State) => s.modTile a.n (fun t => { t with nx := { t.nx with mcasts := t.nx.mcasts.erase m } })
      match (s.ctx c).task? a.uid with
      | none => drop s
      | some t =>
        match s.liveTile c t with
        | none => if t.mtab.contains (some (m.tag, m.stamp)) && !t.state.over then s else drop s
        | some l =>
          if ((s.tile l).nx.entryOf m.tag).map (·.2) ≠ some m.stamp then drop s
          else
            let p := if l = a.n then (s, s.cycle) else s.arrive l true
            if p.1.cycle < p.2 || !((p.1.tile l).nx.q12Room s.cycle) then p.1
            else (drop p.1).modTile l (fun t => { t with nx := { t.nx with q12 := t.nx.q12 ++ [(s.cycle, q12Header a.n m.tag, m.payload)] } })

/-! ### Scheduled sends (R302) -/

/-- The column and row of a logical tile (R7). -/
def gridPos (l : Nat) : Nat × Nat := (l % 40, l / 40)

/-- H: the grid distance of two tiles. -/
def gridHops (a b : Nat) : Nat :=
  let p := gridPos a
  let q := gridPos b
  (max p.1 q.1 - min p.1 q.1) + (max p.2 q.2 - min p.2 q.2)

/-- B: the die boundaries between two tiles. -/
def gridBounds (a b : Nat) : Nat :=
  let p := gridPos a
  let q := gridPos b
  (max (p.1 / 20) (q.1 / 20) - min (p.1 / 20) (q.1 / 20)) + (max (p.2 / 10) (q.2 / 10) - min (p.2 / 10) (q.2 / 10))

/-- The link direction that a send takes at a place of its path: columns first (R302). A link is named by its tile and one of
four directions. -/
def linkAt (a b h : Nat) : Nat :=
  let p := gridPos a
  let q := gridPos b
  let dx := max p.1 q.1 - min p.1 q.1
  if h < dx then
    if p.1 ≤ q.1 then (a + h) * 4 else (a - h) * 4 + 1
  else
    let base := p.2 * 40 + q.1
    if p.2 ≤ q.2 then (base + 40 * (h - dx)) * 4 + 2 else (base - 40 * (h - dx)) * 4 + 3

/-- Replaces a scheduled send. -/
def State.putSend (s : State) (l : Nat) (x : SchedSend) : State :=
  s.modTile l (fun t => { t with nx := { t.nx with sends := t.nx.sends.map (fun y => if y.idx = x.idx then x else y) } })

/-- Removes a scheduled send. -/
def State.dropSend (s : State) (l idx : Nat) : State :=
  s.modTile l (fun t => { t with nx := { t.nx with sends := t.nx.sends.filter (fun y => y.idx != idx) } })

/-- SCHEDULED_SEND_DEPART (R302): entry `id` of tile `l` departs in its cycle. -/
def execScheduledSendDepart (s : State) : State :=
  let a := s.args
  match (s.tile a.l).nx.sends.find? (fun x => x.idx == a.id) with
  | none => s
  | some x => if x.gone || decide (s.cycle < x.depart) then s else s.putSend a.l { x with gone := true }

/-- Two tiles hold members of one gang of one context. -/
def State.sameGang (s : State) (a b : Nat) : Bool :=
  match s.taskOn a, s.taskOn b with
  | some x, some y => s.ctxOf a == s.ctxOf b && y.gang && x.gangUid == y.gangUid
  | _, _ => false

/-- SCHEDULED_SEND_PERFORM (R302): entry `id` of tile `l` takes its next free link, or its bytes are performed at the
destination XL cycles and its delays after its departure. -/
def execScheduledSendPerform (s : State) : State :=
  let a := s.args
  match (s.tile a.l).nx.sends.find? (fun x => x.idx == a.id) with
  | none => s
  | some x =>
    let hops := gridHops a.l x.dst
    if !x.gone then s
    else if x.hop < hops then
      let k := linkAt a.l x.dst x.hop
      if s.cycle < x.reached || decide (s.cycle < mget s.links k 0) then s
      else
        let busy := s.cycle + (if x.n = 64 then 2 else 4)
        { s with links := mput s.links k busy }.putSend a.l
          { x with hop := x.hop + 1, delay := x.delay + (s.cycle - x.reached), reached := s.cycle + 5 }
    else if s.cycle < x.depart + 6 + 5 * hops + 11 * gridBounds a.l x.dst + x.delay then s
    else if !(s.liveFor (s.ctxOf a.l) x.dst && s.sameGang a.l x.dst) then
      (s.dropSend a.l a.id).modTile a.l (fun t => t.modStrand .drain (fun st => st.deferred .peerGone x.pc x.idx))
    else
      let p := if x.dst = a.l then (s, s.cycle) else s.arrive x.dst false
      if p.1.cycle < p.2 then p.1
      else (p.1.modTile x.dst (fun t =>
        t.writeOutside s.cycle s.free (((t.window x.win).addrs x.off x.n).zip ((vecBytes x.payload).take x.n)))).dropSend a.l a.id

/-! ### Barriers (R295 to R297) -/

/-- The member of a domain at an index is on its tile. -/
def State.memberOn (s : State) (d : Domain) (l : Nat) : Bool :=
  s.liveFor d.ctx l && (s.taskOn l).any (fun t => t.gang && t.gangUid == d.gangUid)

/-- R298: a stop of a member has begun. -/
def State.gangStops (s : State) (d : Domain) : Bool := d.members.any (fun l => s.inDomain d l && (s.tile l).stop != .none && (s.tile l).stop != .requested)

/-- The arrivals that can be sent now, by member index: members whose bar waits for no earlier access and no scheduled send
(R296). While a stop of the gang is under way, none is sent, so that no barrier completes into an exchange phase meanwhile (R298). -/
def State.newArrivals (s : State) (d : Domain) : List (Nat × Word) :=
  d.members.zipIdx.filterMap (fun (p : Nat × Nat) =>
    let t := s.tile p.1
    match t.nx.barWait with
    | some (id, w) =>
      if s.memberOn d p.1 && !s.gangStops d && t.allBefore .drain id && t.nx.sends.isEmpty && d.arrivals.all (fun q => q.1 != p.2) then
        some (p.2, w)
      else none
    | none => none)

/-- DLAT: a constant of the placement between 1 and 400 cycles (R297; log entry 8). -/
def dlat (gangUid : Nat) : Nat := 1 + Config.latency gangUid % 400

/-- BARRIER_COMPLETE (R296, R297) at the end of a cycle: in package domain `n` the members' arrivals are taken; in the cycle before T0, which
is DLAT cycles after the last of them, the barrier completes: each member gets the votes and the domain enters its next phase. -/
def execBarrierComplete (s : State) : State :=
  let n := s.args.n
  match mfind s.domains n with
  | none => s
  | some d =>
    let done := fun (d : Domain) => (List.range d.members.length).all (fun i => d.arrivals.any (fun p => p.1 == i))
    let d := if done d then d
      else
        let d' := { d with arrivals := d.arrivals ++ s.newArrivals d }
        if done d' then { d' with due := s.cycle + dlat d.gangUid } else d'
    if !done d || decide (s.cycle + 1 < d.due) || !d.members.all (s.memberOn d) then { s with domains := mput s.domains n d }
    else
      let words := d.arrivals.map (·.2)
      let votes := words.map (fun w => w.setWidth 32)
      let all := votes.foldl (· &&& ·) (BitVec.allOnes 32)
      let any := votes.foldl (· ||| ·) (0#32)
      let xph := (words.map (fun w => field w 39 32)).dedup
      let phase := match xph with | [p] => if p = 255 then none else some p | _ => none
      let s := d.members.foldl (fun s l => s.modTile l (fun t =>
        let id := (t.nx.barWait.map (·.1)).getD 0
        { t with nx := { t.nx with barWait := none, sentIdx := [] } }.modStrand .drain (fun st =>
          st.complete id s.cycle (res64 (word (all.toNat * 2 ^ 32 + any.toNat)))))) s
      { s with domains := mput s.domains n { d with phase := phase, t0 := some (s.cycle + 1), arrivals := [] } }

end Sys2Proof.Machine
end

