-- ==== Sys2Proof/Machine/TaskSock.lean ====
section
/-! DEFINITION. The tk socket of the drain strand (R318 to R323). -/

namespace Sys2Proof.Machine

/-- LAT_TKE (R318). -/
def latTke : Nat := 2

/-- The result port of a tk trigger (R318). -/
def tkPort : TkOp → Option ResPort
  | .done => none
  | _ => some .tkRes

/-- The checks of a tk trigger at issue (R323). -/
def tkCheck (o : TkOp) (i : Iss) (s : State) : Check :=
  let t := i.tile s
  let st := i.strand s
  let k := i.t.toNat
  let a := (st.opw 0x740).toNat
  let len := (st.opw 0x741).toNat
  let idx := need (decide (k ≤ 15)) .operandRange i.slot
  match o with
  | .launch => need (decide (k % 64 = 0) && decide (k < 2 ^ 48)) .operandRange i.slot
  | .est => idx
  | .done => idx.andThen (need (decide (k < t.regions.length)) .regionBounds k)
  | .xlt =>
    (idx.andThen (need (decide (1 ≤ len) && decide (len ≤ 2 ^ 48)) .operandRange i.slot)).andThen
      (match t.regions[k]? with
       | none => some (.regionBounds, a)
       | some r => (need (decide (a + len ≤ r.extent)) .regionBounds a).andThen (need (!r.closed) .regionPerm a))

/-- R320: an unretired copy of the task has a side through a handle, or a local side in a window that its record stages out. -/
def Tile.copyThrough (t : Tile) (l k : Nat) : Bool :=
  let r := t.regions[k]?
  let side := fun (sel : Word) =>
    (cpSpace sel == 2 && cpIdx sel == k) || (cpKind l sel == 0 && r.any (fun r => r.stageOut && r.win == cpIdx sel))
  t.copies.any (fun x => side x.ssel || side x.dsel)

/-- A tk trigger can accept (R318, R320, R328). -/
def tkAccept (o : TkOp) (i : Iss) (s : State) : Bool :=
  let t := i.tile s
  let st := i.strand s
  (match tkPort o with | some p => !st.portBusy p | none => true) &&
  (match o with
   | .launch => !s.speculates i.l
   | .done => !s.speculates i.l && st.sb.isEmpty && !t.copyThrough i.l i.t.toNat
   | .est | .xlt => true)

/-- The state word of a record (R321). -/
def Tile.estWord (t : Tile) (k : Nat) (spec : Bool) : Word :=
  match t.regions[k]? with
  | none => 0
  | some r => word (2 ^ 63 + b2n spec * 2 ^ 62 + b2n r.closed * 2 ^ 61 + r.est)

/-- The valid translations that cover a range. -/
def Context.covering (x : Context) (va n : Nat) : List Xlate :=
  x.xlates.filter (fun e => overlap (e.va, e.size) (va, n))

/-- R309: the TLB of a die takes several entries. -/
def Die.tlbLoad (d : Die) (c free : Nat) (es : List Xlate) : Die :=
  es.zipIdx.foldl (fun d p => if d.tlb.contains (c, p.1) then d else d.tlbPut c p.1 (Config.value (free + p.2))) d

/-- Some byte of a range has no valid translation. -/
def Context.uncovered (x : Context) (va n : Nat) : Bool := (units2M va n).any (fun u => (x.translate u).isNone)

/-- The effect of a tk trigger (R319 to R322). -/
def tkStart (o : TkOp) (i : Iss) (s : State) : State :=
  let st := i.strand s
  let k := i.t.toNat
  let fly := fun (s : State) => i.modStrand s.bump (fun st => st.fly none .tkRes (res64 0) true)
  match o with
  | .launch =>
    let due := s.nextDue
    (fly s).modTile i.l (fun t => { t with tkFlights := t.tkFlights ++ [TkFlight.launch st.nextId ⟨k, false, ⟨[], [], []⟩, due⟩] })
  | .done =>
    s.modTile i.l (fun t => { t with regions := t.regions.modify k (fun r => { r with closed := true }) })
  | .est => i.modStrand s (fun st => st.flyAt (s.cycle + latTke) .tkRes (res64 ((i.tile s).estWord k (s.speculates i.l))))
  | .xlt =>
    match (i.tile s).regions[k]? with
    | none => s
    | some r =>
      if !r.lazyMap then i.modStrand s (fun st => st.flyAt (s.cycle + 4) .tkRes (res64 (word (2 ^ 63))))
      else
        let due := s.nextDue
        (fly s).modTile i.l (fun t => { t with
          tkFlights := t.tkFlights ++ [TkFlight.xlt (r.base + (st.opw 0x740).toNat) (st.opw 0x741).toNat due] })

/-- Delivers the result of the tk trigger in flight (R318: there is at most one). -/
def Strand.landTk (st : Strand) (now : Nat) (w : Word) : Strand :=
  match st.flights.find? (fun f => f.port == .tkRes && f.due.isNone) with
  | some f => st.complete f.id now (res64 w)
  | none => st

/-- XLT_LOADS_COMPLETE (R309, R322): the region TLB of the die of tile `l` holds the translations of the range, within its 16,384
entries, and the result lands. -/
def execXltLoadsComplete (s : State) : State :=
  let l := s.args.l
  let t := s.tile l
  match t.tkFlights with
  | TkFlight.xlt va n due :: r =>
    if s.cycle < due then s
    else
      let c := s.ctxOf l
      let x := s.ctx c
      let es := x.covering va n
      let lost := x.uncovered va n
      let s := { s with free := s.free + es.length }.modDie (dieOf l) (fun d => d.tlbLoad c s.free es)
      s.modTile l (fun t => Tile.modStrand { t with tkFlights := r } .drain (fun st =>
        st.landTk s.cycle (word (2 ^ 63 + b2n lost * 2 ^ 62 + es.length))))
  | _ => s

end Sys2Proof.Machine
end

