-- ==== Sys2Proof/Machine/Scarab.lean ====
section
/-! DEFINITION. What Scarab and the host link share: writes at home, completion and fault queues (R410 to R412), launch records
and their acceptance (R29 to R34, R299, R307, R400), dependences (R306), EST (R314). -/

namespace Sys2Proof.Machine

/-! ### Memory at home -/

/-- The cycles of a time in ns at the current clock step (R4, R407). -/
def State.cyclesOf (s : State) (ns : Nat) : Nat := ns * (20 - s.governor.step) / 10

/-- R399: the physical pages of the registered images of every context, as base and size. -/
def State.imagePhysical (s : State) : List (Nat × Nat) :=
  s.ctxs.flatMap (fun p => p.2.imagePages.filterMap (fun q => (p.2.translate q.1).map (fun pa => (pa, q.2))))

/-- R399: a physical byte lies in a page of a registered image of some context. -/
def State.imagePage (s : State) (pa : Nat) : Bool := touchesPage s.imagePhysical pa 1

/-- R399: a physical line lies in such a page. -/
def State.imageLine (s : State) (pl : Nat) : Bool := touchesPage s.imagePhysical (pl * 128) 128

/-- Writes bytes at home by physical address with no record in a log: the reports of Scarab and the writes of the host. None reaches a
registered image (R399). -/
def State.rawWrite (s : State) (ps : List (Nat × Byte)) : State := s.homeBytes [] (ps.filter (fun p => !s.imagePage p.1))

/-- The bytes at home at physical addresses (R347): none where a line is poisoned. -/
def State.homeRead (s : State) (pas : List Nat) : State × Option (List Byte) :=
  let pls := (pas.map lineOf).dedup
  let s := pls.foldl (fun s pl => s.readHome pl) s
  (s, if pls.any s.linePoison then none else some (readAt s.mem pas))

/-- The physical addresses of n virtual bytes; none where one has no valid translation. -/
def Context.pas (x : Context) (va n : Nat) : Option (List Nat) := (x.physical va n).toOption

/-- A 64-bit word of a context at home. -/
def State.wordAt (s : State) (c va : Nat) : Option Word := ((s.ctx c).pas va 8).map (fun pas => word (leNat (readAt s.mem pas)))

/-- Reads a word of a control block: at home for the launch queue, through the die's cache for a tile (R34, R319); none where it has no
translation or is poisoned (DESIGN CHOICE for poison, entry 26). -/
def State.fetchWord (s : State) (c : Nat) (l? : Option Nat) (va : Nat) : State × Option Word :=
  match l? with
  | some l => match s.readGlobal l va 8 with
    | (s, .ok bs) => (s, some (word (leNat bs)))
    | (s, .error _) => (s, none)
  | none => match (s.ctx c).pas va 8 with
    | none => (s, none)
    | some pas => match s.homeRead pas with
      | (s, r) => (s, r.map (fun bs => word (leNat bs)))

/-! ### Completion and fault queues (R410 to R412) -/

/-- The size of a queue (R410). -/
def queueSize (cfg : Word) : Nat := 2 ^ field cfg 4 0

/-- The entries in a queue (R410). -/
def queueFill (tail head : BitVec 32) : Nat := (tail - head).toNat

/-- The words of a completion entry (R411). -/
def Completion.words (e : Completion) : List Word :=
  [word (e.kind * 2 ^ 56 + e.code * 2 ^ 48 + e.info % 2 ^ 48), word e.kid, word e.count, 0]

/-- Writes a queue entry at its slot, in virtual memory at home; nothing where the queue has no translation. -/
def State.writeEntry (s : State) (c base : Nat) (ws : List Word) : State :=
  match (s.ctx c).pas base (8 * ws.length) with
  | some pas => s.rawWrite (pas.zip (ws.flatMap (fun w => leBytes 8 w.toNat)))
  | none => s

/-- R411: writes the held completion entries for which there is room, in order; n bounds how many. -/
def State.flushCq (s : State) (c : Nat) : Nat → State
  | 0 => s
  | n + 1 =>
    let x := s.ctx c
    match x.cqHeld with
    | [] => s
    | e :: r =>
      if queueSize x.cqcfg ≤ queueFill x.cqtail x.cqhead then s
      else
        let s := s.writeEntry c (x.cqbase.toNat + 32 * (x.cqtail.toNat % queueSize x.cqcfg)) e.words
        (s.modCtx c (fun x => { x with cqHeld := r, cqtail := x.cqtail + 1, cqPending := true })).flushCq c n

/-- R412: the same for the fault queue. -/
def State.flushFq (s : State) (c : Nat) : Nat → State
  | 0 => s
  | n + 1 =>
    let x := s.ctx c
    match x.fqHeld with
    | [] => s
    | e :: r =>
      if queueSize x.fqcfg ≤ queueFill x.fqtail x.fqhead then s
      else
        let s := s.writeEntry c (x.fqbase.toNat + 32 * (x.fqtail.toNat % queueSize x.fqcfg)) [e.w0, e.w1, e.w2, e.w3]
        (s.modCtx c (fun x => { x with fqHeld := r, fqtail := x.fqtail + 1, fqPending := true })).flushFq c n

/-- Reports a completion entry (R411). -/
def State.report (s : State) (c : Nat) (e : Completion) : State :=
  (s.modCtx c (fun x => { x with cqHeld := x.cqHeld ++ [e] })).flushCq c ((s.ctx c).cqHeld.length + 1)

/-- Adds fault records (R142, R412). -/
def State.addFaults (s : State) (c : Nat) (rs : List FaultRecord) : State :=
  (s.modCtx c (fun x => { x with fqHeld := x.fqHeld ++ rs })).flushFq c ((s.ctx c).fqHeld.length + rs.length)

/-! ### Launch records (R29 to R32, R299) -/

/-- Word i of a record. -/
def LaunchRec.w (r : LaunchRec) (i : Nat) : Word := r.ws.getD i 0
/-- NREG. -/
def LaunchRec.nreg (r : LaunchRec) : Nat := field (r.w 0) 23 19
/-- NWIN. -/
def LaunchRec.nwin (r : LaunchRec) : Nat := field (r.w 0) 18 15
/-- GANG. -/
def LaunchRec.gang (r : LaunchRec) : Bool := bit (r.w 0) 10
/-- GW. -/
def LaunchRec.gw (r : LaunchRec) : Nat := field (r.w 6) 47 42
/-- GH. -/
def LaunchRec.gh (r : LaunchRec) : Nat := field (r.w 6) 41 36
/-- TASKID. -/
def LaunchRec.taskid (r : LaunchRec) : Nat := field (r.w 2) 63 32
/-- A window of the record. -/
def LaunchRec.window (r : LaunchRec) (i : Nat) : Window := ⟨field (r.w (8 + i)) 50 32, field (r.w (8 + i)) 19 0⟩
/-- Word j of region record k. -/
def LaunchRec.reg (r : LaunchRec) (k j : Nat) : Word := r.table.getD (4 + 4 * k + j) 0
/-- The windows below NWIN. -/
def LaunchRec.windows (r : LaunchRec) : List Window := (List.range r.nwin).map r.window

/-- A region of the record, as accepted (R31, R314). -/
def LaunchRec.region (r : LaunchRec) (k : Nat) : Region :=
  let m := r.reg k 2
  { base := field (r.reg k 0) 47 0, extent := field (r.reg k 1) 47 0, mode := field m 63 60, acct := field m 59 56,
    stageIn := bit m 55, stageOut := bit m 54, weevil := bit m 53, lazyMap := bit m 52, pinned := bit m 51,
    win := field m 50 48, est := 0, closed := false, ending := false, ended := false, windowRead := false, staged := [], due := 0 }

/-- The regions of a record. -/
def LaunchRec.regions (r : LaunchRec) : List Region := (List.range r.nreg).map r.region

/-- An entry of the schedule (R299). -/
def schedEntry (a b : Word) : SchedEntry :=
  { ph := field a 63 56, cyc := field a 55 40, src := field a 39 29, dst := field a 28 18, big := bit a 15, win := field b 50 48,
    off := field b 18 0 }

/-- NENT of a schedule. -/
def LaunchRec.nent (r : LaunchRec) : Nat := field (r.sched.headD 0) 12 0

/-- The schedule of a record; empty where it names none. -/
def LaunchRec.schedule (r : LaunchRec) : List SchedEntry :=
  if r.sched.isEmpty then []
  else (List.range r.nent).map (fun i => schedEntry (r.sched.getD (4 + 2 * i) 0) (r.sched.getD (5 + 2 * i) 0))

/-- Every pair of a list, the earlier first, satisfies a test. -/
def allPairs {α : Type} (f : α → α → Bool) : List α → Bool
  | [] => true
  | a :: r => r.all (f a) && allPairs f r

/-- R30: no ground for LAUNCH_FORMAT in the record itself. -/
def LaunchRec.recordOk (r : LaunchRec) : Bool :=
  let z := fun (i hi lo : Nat) => decide (field (r.w i) hi lo = 0)
  z 0 31 24 && z 0 9 0 && z 2 31 0 && z 3 63 48 && z 4 63 48 && z 5 63 48 && z 6 35 30 && z 6 23 0 && z 7 63 48 &&
  (List.range 8).all (fun i => z (8 + i) 63 51 && z (8 + i) 31 20) &&
  decide (r.nreg ≤ 16) && decide (r.nwin ≤ 8) &&
  decide (field (r.w 4) 47 32 ≤ 2047) && decide (field (r.w 4) 31 16 ≤ 2047) && decide (field (r.w 4) 15 0 ≤ 2047) &&
  decide ((r.w 5).toNat % 64 = 0) && (!r.gang || decide ((r.w 7).toNat % 64 = 0)) &&
  r.windows.all (fun w => decide (w.base + w.size ≤ 524288) && decide (w.base % 64 = 0) && decide (w.size % 64 = 0)) &&
  allPairs (fun a b => !overlap (a.base, a.size) (b.base, b.size)) r.windows &&
  (List.range 8).all (fun i => decide (i < r.nwin) || r.w (8 + i) == 0) &&
  (r.gang || (r.w 6 == 0 && r.w 7 == 0)) &&
  (!r.gang || (decide (1 ≤ r.gw) && decide (r.gw ≤ 40) && decide (1 ≤ r.gh) && decide (r.gh ≤ 40) && !bit (r.w 0) 11))

/-- R31: the header's reserved fields are zero. -/
def LaunchRec.headerOk (r : LaunchRec) : Bool :=
  decide (field (r.table.headD 0) 31 0 = 0) && ((r.table.drop 1).take 3).all (· == 0)

/-- R299: no ground for LAUNCH_FORMAT in the schedule. -/
def LaunchRec.schedOk (r : LaunchRec) : Bool :=
  r.sched.isEmpty ||
  (decide (field (r.sched.headD 0) 31 13 = 0) && ((r.sched.drop 1).take 3).all (· == 0) && decide (1 ≤ r.nent) &&
   decide (r.nent ≤ 4096) &&
   (List.range r.nent).all (fun i =>
     let a := r.sched.getD (4 + 2 * i) 0
     let b := r.sched.getD (5 + 2 * i) 0
     decide (field a 17 16 = 0) && decide (field a 14 0 = 0) && decide (field b 63 51 = 0) && decide (field b 47 19 = 0) &&
     decide (field a 63 56 ≠ 255) && decide (field a 39 29 < r.gw * r.gh) && decide (field a 28 18 < r.gw * r.gh) &&
     decide (field b 18 0 % 64 = 0)))

/-- R352: every WEEVIL record starts at and covers whole 16 MiB blocks. -/
def LaunchRec.weevilsOk (r : LaunchRec) : Bool :=
  r.regions.all (fun g => !g.weevil || (decide (g.base % 2 ^ 24 = 0) && decide (g.extent % 2 ^ 24 = 0)))

/-- R32: the cases of LAUNCH_REGION that the spec gives for every record. -/
def LaunchRec.regionsOk (r : LaunchRec) : Bool :=
  let rs := r.regions
  (List.range r.nreg).all (fun k =>
    let g := r.region k
    let width := if g.acct = 0 ∨ g.acct = 2 then 4 else 8
    decide (g.mode ≤ 3) && decide (g.acct ≤ 3) && (decide (g.acct = 0) || decide (g.mode = 3)) &&
    decide (0 < g.extent) && decide (g.base + g.extent ≤ 2 ^ 48) &&
    !(g.stageIn && (g.mode == 1 || g.mode == 3)) && !(g.stageOut && g.mode == 0) &&
    !(g.stageOut && g.mode == 3 && !(decide (g.base % width = 0) && decide (g.extent % width = 0))) &&
    !((g.stageIn || g.stageOut) && (decide (r.nwin ≤ g.win) || decide ((r.window g.win).size < g.extent))) &&
    !(g.lazyMap && (g.pinned || g.stageIn || g.stageOut)) && !(g.weevil && g.lazyMap) &&
    decide (field (r.reg k 0) 63 48 = 0) && decide (field (r.reg k 1) 63 48 = 0) && decide (field (r.reg k 2) 47 2 = 0) &&
    r.reg k 3 == 0) &&
  allPairs (fun a b => !overlap (a.base, a.extent) (b.base, b.extent) || (a.mode == 0 && b.mode == 0)) rs

/-- The words of the region table that a record names (R31). -/
def LaunchRec.tableLength (r : LaunchRec) : Nat := 4 + 4 * r.nreg

/-- The words of the schedule that a record names (R299), as far as its header is known. -/
def LaunchRec.schedLength (r : LaunchRec) : Nat :=
  if !r.gang || field (r.w 7) 47 0 = 0 then 0 else if r.sched.isEmpty then 1 else 4 + 2 * r.nent

/-- R34: the address of the next word to read of a record at an address: the record from its GEN on, its table, its schedule; none where
all is read. -/
def LaunchRec.nextWord (r : LaunchRec) (addr : Nat) : Option Nat :=
  if r.ws.length < 24 then some (addr + 8 * r.ws.length)
  else if r.table.length < r.tableLength then some (field (r.w 5) 47 0 + 8 * r.table.length)
  else if r.sched.length < r.schedLength then some (field (r.w 7) 47 0 + 8 * r.sched.length)
  else none

/-- Takes the next word of a record. -/
def LaunchRec.put (r : LaunchRec) (w : Word) : LaunchRec :=
  if r.ws.length < 24 then { r with ws := r.ws ++ [w] }
  else if r.table.length < r.tableLength then { r with table := r.table ++ [w] }
  else { r with sched := r.sched ++ [w] }

/-- What a read of a launch record leads to: more to read, the second GEN, or a word that cannot be read. -/
inductive ReadStep where
  | more (r : Reading)
  | whole (gen : Nat)
  | lost
  deriving DecidableEq, Repr

/-- R34: the next read of a launch record, each at its own moment; GEN is read again at the end. -/
def State.readStep (s : State) (c : Nat) (l? : Option Nat) (r : Reading) : State × ReadStep :=
  match s.fetchWord c l? ((r.got.nextWord r.addr).getD r.addr) with
  | (s, none) => (s, .lost)
  | (s, some w) =>
    if (r.got.nextWord r.addr).isSome then (s.bump, .more { r with got := r.got.put w, due := s.nextDue }) else (s, .whole (field w 63 32))

/-! ### Images (R400, R401) -/

/-- The image registered at a base (R399). -/
def Context.image? (x : Context) (base : Nat) : Option Image := x.images.find? (fun i => i.base == base)

/-- The image that a task's CODE selects now: the private one while copy-on-debug is in force (R401, R405). -/
def Context.imageFor (x : Context) (code : Nat) : Option Image :=
  x.image? (((x.replaced.find? (fun p => p.1 == code)).map (·.2)).getD code)

/-! ### Tasks and dependences (R305, R306) -/

/-- The tile that a task holds. -/
def State.onTile (s : State) (c : Nat) (t : Task) : Option Nat := t.ltn.filter (fun l => (s.tile l).owner == some (c, t.uid))

/-- The region records of a task as they stand. -/
def State.regionsOf (s : State) (c : Nat) (t : Task) : List Region :=
  match s.onTile c t with
  | some l => (s.tile l).regions
  | none => t.regions

/-- Changes a task. -/
def State.modTask (s : State) (c uid : Nat) (f : Task → Task) : State := s.modCtx c (fun x => x.modTask uid f)

/-- The task has stopped for a rollback or an abort and leaves its tile once its copies and queries have run out (R327, R332). -/
def State.aborting (s : State) (c : Nat) (t : Task) : Bool := (s.onTile c t).any (fun l => (s.tile l).stop == .aborting)

/-- Changes a region record of a task. -/
def State.modRegion (s : State) (c : Nat) (t : Task) (k : Nat) (f : Region → Region) : State :=
  match s.onTile c t with
  | some l => s.modTile l (fun e => { e with regions := e.regions.modify k f })
  | none => s.modTask c t.uid (fun e => { e with regions := e.regions.modify k f })

/-- R314: EST of a record in memory: PENDING while the action of any member of a gang runs, otherwise the member's own. -/
def State.estInMemory (s : State) (c : Nat) (t : Task) (k : Nat) : Nat :=
  let members := if t.gang then (s.ctx c).tasks.filter (fun p => p.gang && p.gangUid == t.gangUid) else [t]
  let ests := members.map (fun p => (((s.regionsOf c p)[k]?).map Region.est).getD 0)
  if ests.contains 1 then 1 else (((s.regionsOf c t)[k]?).map Region.est).getD 0

/-- R314: writes EST of a record into the region table in memory; no write reaches a registered image (R399). -/
def State.writeEst (s : State) (c uid k : Nat) : State :=
  match (s.ctx c).task? uid with
  | none => s
  | some t =>
    let va := t.regtab + 32 + 32 * k + 16
    match (s.ctx c).pas va 8, s.wordAt c va with
    | some pas, some w =>
      if pas.any s.imagePage then s else s.homeBytes [c] (pas.zip (leBytes 8 (w.toNat / 4 * 4 + s.estInMemory c t k)))
    | _, _ => s

/-- R314: sets EST of a record, in Scarab's copy and in the region table in memory. -/
def State.setEst (s : State) (c uid k e : Nat) : State :=
  match (s.ctx c).task? uid with
  | none => s
  | some t => (s.modRegion c t k (fun r => { r with est := e })).writeEst c uid k

/-- R314: writes EST of every record of some tasks into memory. -/
def State.writeEsts (s : State) (c : Nat) (ts : List Task) : State :=
  ts.foldl (fun s t => (List.range t.regions.length).foldl (fun s k => s.writeEst c t.uid k) s) s

/-- Two lists of records overlap (R306). -/
def regionsOverlap (a b : List Region) : Bool := a.any (fun x => b.any (fun y => overlap (x.base, x.extent) (y.base, y.extent)))

/-- R306: the order of a pair of overlapping records matters. -/
def regionsConflict (a b : Region) : Bool :=
  overlap (a.base, a.extent) (b.base, b.extent) && !(a.mode == 0 && b.mode == 0) &&
  !(a.mode == 3 && b.mode == 3 && a.acct == b.acct)

/-- R306: a task depends on another. -/
def Task.dependsOn (t p : Task) : Bool :=
  p.keyBelow t && t.uid != p.uid && !(t.gang && p.gang && t.gangUid == p.gangUid) &&
  t.regions.any (fun a => p.regions.any (regionsConflict a))

/-- R306, R320: a dependence is satisfied. -/
def State.satisfied (s : State) (c : Nat) (t p : Task) : Bool :=
  p.state == .retired ||
  (s.regionsOf c p).all (fun b => !t.regions.any (fun a => overlap (a.base, a.extent) (b.base, b.extent)) || (b.closed && b.ended))

/-- Every dependence of a task is satisfied. -/
def State.depsMet (s : State) (c : Nat) (t : Task) : Bool :=
  (s.ctx c).tasks.all (fun p => !t.dependsOn p || p.state == .aborted || s.satisfied c t p)

/-! ### Acceptance (R33, R34, R307, R400) -/

/-- The code of a launch (R307), whose GEN was read again as `gen2`: the first failing check in the order of its table. -/
def State.launchCode (s : State) (c kid : Nat) (launcher : Option Task) (r : LaunchRec) (gen2 : Nat) : Nat :=
  let x := s.ctx c
  let gen := field (r.w 0) 63 32
  let torn := gen2 ≠ gen ∨ field (r.table.headD 0) 63 32 ≠ gen ∨ (!r.sched.isEmpty ∧ field (r.sched.headD 0) 63 32 ≠ gen)
  let n := if r.gang then r.gw * r.gh else 1
  let dup := x.tasks.any (fun t => t.kid == kid && t.ts == r.w 1 &&
    (List.range n).any (fun i => t.idWord == (r.taskid + i) % 2 ^ 32))
  if torn then 3
  else if !(r.recordOk && r.headerOk && r.schedOk && (x.image? (field (r.w 3) 47 0)).isSome) then 1
  else if !(r.regionsOk && r.weevilsOk) then 2
  else if dup then 4
  else if launcher.any (fun p => decide ((r.w 1).toNat ≤ p.ts.toNat)) then 6
  else if 65536 ≤ (x.tasks.filter (fun t => t.state != .retired && t.state != .aborted)).length ∨
      (r.gang ∧ x.imgsize.toNat / 2 ^ 20 < r.gw * r.gh) then 7
  else 0

/-- Member i of an accepted record (R28, R33). -/
def LaunchRec.task (r : LaunchRec) (uid kid gangUid i : Nat) (fromQueue : Option Nat) : Task :=
  { uid := uid, kid := kid, state := .accepted, taskid := r.taskid, ts := r.w 1, prio := field (r.w 0) 14 12, spec := bit (r.w 0) 11,
    code := field (r.w 3) 47 0, entryF := field (r.w 4) 47 32, entryC := field (r.w 4) 31 16, entryD := field (r.w 4) 15 0,
    regtab := field (r.w 5) 47 0, nwin := r.nwin, windows := r.windows, regions := r.regions,
    args := (List.range 8).map (fun k => r.w (16 + k)), gang := r.gang, gangUid := gangUid, gangId := field (r.w 6) 63 48,
    gidx := i, gw := r.gw, gh := r.gh, origin := 0, domain := field (r.w 6) 29 24, sched := r.schedule, ltn := none, slot := none,
    hasImage := false, aborts := 0, readSet := [], fromQueue := fromQueue, marked := false, committed := false, started := 0,
    noticed := none, readyAt := 0, parked := false, heldMail := [], agentMail := [], heldOut := [], mtab := [], barrier := none, lodWaits := [],
    steps := [], sentIdx := [], stPorts := [], endLines := [], conflict := false }

/-- Takes an accepted record into a kernel, with EST IDLE (R33, R314). -/
def State.addTasks (s : State) (c kid : Nat) (fromQueue : Option Nat) (r : LaunchRec) : State :=
  let x := s.ctx c
  let n := if r.gang then r.gw * r.gh else 1
  let ts := (List.range n).map (fun i => r.task (x.nextUid + i) kid x.nextUid i fromQueue)
  let s := s.modCtx c (fun x => { x with tasks := x.tasks ++ ts, nextUid := x.nextUid + n })
  (List.range r.nreg).foldl (fun s k => s.setEst c x.nextUid k 0) s

/-- R330: a boundary of a context: the log is emptied and the accepted, unretired tasks are noted. -/
def State.newBoundary (s : State) (c : Nat) : State :=
  s.modCtx c (fun x =>
    { x with
      log := [], logPoison := [], rollbacks := 0, boundaryUid := x.nextUid,
      boundary := (x.tasks.filter (fun t => t.state != .retired && t.state != .aborted)),
      kernels := x.kernels.map (fun k => { k with fxUsed := false }) })

/-- The kernel that the next launch queue entry belongs to, opened where there is none (R305, R330, R410). -/
def State.openKernel (s : State) (c : Nat) : State × Nat :=
  let x := s.ctx c
  match x.openKernel with
  | some k => (s, k)
  | none =>
    let s := if x.kernels.any Kernel.alive then s else s.newBoundary c
    let fresh : Kernel := ⟨x.nextKid, true, false, 0, false, s.time, false⟩
    let s := s.modCtx c (fun x =>
      { x with kernels := x.kernels ++ [fresh], openKernel := some x.nextKid, nextKid := x.nextKid + 1 })
    (s, x.nextKid)

/-- The outcome of a launch queue entry (R305, R410, R411): its kernel, its tasks or its report, and the next entry. A record of a kernel
that has been aborted starts nothing (DESIGN CHOICE, entry 26). -/
def State.endEntry (s : State) (c : Nat) (last : Bool) (code : State → Nat → Nat) (r : LaunchRec) : State :=
  let n := (s.ctx c).lqhead
  let p := s.openKernel c
  let kid := p.2
  let s := p.1
  let s :=
    if !(s.ctx c).kernels.any (fun k => k.kid == kid && k.alive) then s
    else match code s kid with
    | 0 => s.addTasks c kid (some n.toNat) r
    | e => s.report c ⟨1, e, n.toNat, kid, 0⟩
  s.modCtx c (fun x =>
    { x with
      reading := none, lqhead := x.lqhead + 1, openKernel := if last then none else x.openKernel,
      kernels := if last then x.kernels.map (fun k => if k.kid = kid then { k with closed := true } else k) else x.kernels })

/-- The two words of the next launch queue entry, read at home (R347, R410): none where it has no translation or is poisoned. -/
def State.readQueue (s : State) (c : Nat) : State × Option (Word × Word) :=
  let x := s.ctx c
  let va := x.lqbase.toNat + 16 * (x.lqhead.toNat % queueSize x.lqcfg)
  match s.fetchWord c none va with
  | (s, none) => (s, none)
  | (s, some w0) => match s.fetchWord c none (va + 8) with
    | (s, r) => (s, r.map (fun w1 => (w0, w1)))

/-- Takes the next launch queue entry: reads the entry, and then its record word by word (R34, R410). A poisoned entry is answered with XLATE
and ends no kernel; one with no translation waits (DESIGN CHOICE, entry 26). -/
def State.takeEntry (s : State) (c : Nat) : State :=
  let x := s.ctx c
  match x.reading with
  | some r =>
    if s.cycle < r.due then s
    else match s.readStep c none r with
    | (s, .more r) => s.modCtx c (fun x => { x with reading := some r })
    | (s, .whole gen) => s.endEntry c r.last (fun s kid => s.launchCode c kid none r.got gen) r.got
    | (s, .lost) => s.endEntry c r.last (fun _ _ => 5) r.got
  | none =>
    if (x.pas (x.lqbase.toNat + 16 * (x.lqhead.toNat % queueSize x.lqcfg)) 16).isNone then s
    else match s.readQueue c with
    | (s, none) => s.endEntry c false (fun _ _ => 5) ⟨[], [], []⟩
    | (s, some (w0, w1)) =>
      let addr := field w0 47 0
      if addr % 64 ≠ 0 ∨ field w0 62 48 ≠ 0 ∨ w1 ≠ 0 then s.endEntry c (bit w0 63) (fun _ _ => 1) ⟨[], [], []⟩
      else s.bump.modCtx c (fun x => { x with reading := some ⟨addr, bit w0 63, ⟨[], [], []⟩, s.nextDue⟩ })

/-- The outcome of a tk.launch lands (R319), with the TASKID of the record as far as it was read. -/
def State.endLaunch (s : State) (l code : Nat) (kid : Nat) (r : LaunchRec) : State :=
  let s := if code = 0 then s.addTasks (s.ctxOf l) kid none r else s
  s.modTile l (fun e => Tile.modStrand { e with tkFlights := e.tkFlights.drop 1 } .drain (fun st =>
    st.landTk s.cycle (word (code * 2 ^ 56 + r.taskid))))

/-- Reads on in the record of a tk.launch of tile l, once the drain strand's earlier accesses are performed (R34, R319). -/
def State.takeLaunch (s : State) (l : Nat) : State :=
  match (s.tile l).tkFlights, s.taskOn l with
  | TkFlight.launch after r :: rest, some t =>
    if s.cycle < r.due || !(s.tile l).allBefore .drain after then s
    else
      let c := s.ctxOf l
      match s.readStep c (some l) r with
      | (s, .more r) => s.modTile l (fun e => { e with tkFlights := TkFlight.launch after r :: rest })
      | (s, .whole gen) => s.endLaunch l (s.launchCode c t.kid (some t) r.got gen) t.kid r.got
      | (s, .lost) => s.endLaunch l 5 t.kid r.got
  | _, _ => s

/-- LAUNCH_ACCEPT (R34): one read, or the outcome, of a launch record: with `flag` that of tile `l`'s tk.launch, otherwise that of the next
launch queue entry of context `c`. -/
def execLaunchAccept (s : State) : State :=
  let a := s.args
  if a.flag then s.takeLaunch a.l
  else
    let x := s.ctx a.c
    if x.en && !s.recovery && x.lqhead != x.lqtail && !x.ckpt && x.recovery.isNone then s.takeEntry a.c else s

/-! ### The trace ring (R153) -/

/-- R153: a trace record of a strand. -/
def State.trace (s : State) (l : Nat) (k : StrandId) (kind src next : Nat) : State :=
  let st := (s.tile l).strand k
  let c := s.ctxOf l
  let x := s.ctx c
  let n := x.trsize.toNat / 16
  if !st.trace || n = 0 then s
  else match x.pas (x.trbase.toNat + 16 * (x.trpos % n)) 16 with
  | none => s
  | some pas =>
    let ws := leBytes 8 st.cyc.toNat ++ leBytes 8 (kind * 2 ^ 60 + src % 2048 * 2 ^ 32 + next % 2048)
    (s.rawWrite (pas.zip ws)).modCtx c (fun x => { x with trpos := x.trpos + 1 })

/-- R153: the faults of a tile's strands get their trace records, once each. -/
def State.traceFaults (s : State) (l : Nat) : State :=
  allStrands.foldl (fun s k =>
    let st := (s.tile l).strand k
    match st.fault with
    | some f =>
      if f.traced then s
      else (s.trace l k 4 f.fpc st.pc).modTile l (fun t => t.modStrand k (fun st => { st with fault := some { f with traced := true } }))
    | none => s) s

end Sys2Proof.Machine
end

