-- ==== Sys2Proof/Machine/Task.lean ====
section
/-! DEFINITION. Scarab's steps on tasks (R304 to R337): translation, placement, edge actions, start and finish, commit and
retirement, speculation, checkpoints, rollback, aborts and fences. -/

namespace Sys2Proof.Machine

/-! ### Tiles -/

/-- A tile as a task leaves it: its SPM bytes stay (R15). -/
def Tile.vacate (t : Tile) (c : Nat) : Tile :=
  { Tile.empty with spm := t.spm, lastCtx := some c, fenced := t.fenced, phys := t.phys, probes := t.probes, probedAt := t.probedAt }

/-- Takes a task off its tile; Scarab keeps its records (R311). -/
def State.leaveTile (s : State) (c uid : Nat) : State :=
  match (s.ctx c).task? uid with
  | none => s
  | some t =>
    match s.onTile c t with
    | none => s
    | some l =>
      let rs := (s.tile l).regions
      (s.modTask c uid (fun t => { t with regions := rs })).modTile l (fun e => e.vacate c)

/-- The messages that agents of the device hold for a tile's mailboxes (R138). -/
def Tile.mailHeld (e : Tile) : List (StrandId × Word) := allStrands.flatMap (fun k => (e.strand k).mailHeld.map (fun w => (k, w)))

/-- R327, R332: a strand stops without an image; what it had in flight is gone. -/
def Strand.abandon (st : Strand) : Strand :=
  { st with run := .halted, accesses := [], sb := [], posts := [], flights := [], mapped := [], fault := none, token := none }

/-- R327, R332: the task of a tile stops without an image; its copies and queries run out. From then on it is not live, so that a peer access to
it raises PEER_GONE, though it keeps the tile until they have (R68; DESIGN CHOICE, entry 30). -/
def Tile.abandon (t : Tile) : Tile :=
  { t with
    live := false, stop := .aborting, abort := none, feed := t.feed.abandon, compute := t.compute.abandon, drain := t.drain.abandon,
    streams := Vector.replicate 4 .idle, nx := .start, wq := { t.wq with commits := [] }, fx := .start, tkFlights := [] }

/-- The task of a tile stops without an image, once its strands' faults have their trace records (R153). -/
def State.abandonTile (s : State) (l : Nat) : State := (s.traceFaults l).modTile l Tile.abandon

/-- The copies and queries of a stopped task have run out. -/
def Tile.ranOut (t : Tile) : Bool := t.copies.all Copy.completed && t.wq.queries.isEmpty

/-- A member has a domain abort to take (R334, R337). -/
def Tile.abortPends (t : Tile) : Bool :=
  t.abort.any (fun a => a.code == .domainAbort) && t.stop != .draining && t.stop != .aborting

/-- A strand with nothing of its own in flight; what waits behind a full port and a barrier's result may stay, and at a
stop a mapped value keeps its distance (R126, R145, R168). -/
def Strand.quiet (st : Strand) (now : Nat) (bar : Option Nat) (stop : Bool) : Bool :=
  st.sb.isEmpty && st.accesses.isEmpty && st.posts.isEmpty && (stop || st.mapped.isEmpty) && decide (st.lsBusy ≤ now) &&
  st.flights.all (fun f => some f.id == bar || (f.locked && (match f.due with | some d => decide (d ≤ now) | none => false)))

/-- R126, R279: no copy of a channel is in flight; at a stop, one whose message a full mailbox of the task holds may be. -/
def Tile.copiesQuiet (t : Tile) (l now : Nat) (stop : Bool) (c : Channel) : Bool :=
  (t.channel c).copies.all (fun x => stop && x.completed && x.messageTile l == l &&
    (!(t.strand x.mstr).mailRoom now || !(t.channel c).held.isEmpty))

/-- R126, R145, R389: nothing of the task is in flight on its tile. At a stop, messages held for full mailboxes and collectives that wait
for readiness are kept. -/
def Tile.quiet (t : Tile) (l now : Nat) (stop : Bool) : Bool :=
  let bar := t.nx.barWait.map (·.1)
  t.feed.quiet now none stop && t.compute.quiet now none stop && t.drain.quiet now bar stop &&
  (stop || t.nx.held.isEmpty) && (stop || bar.isNone) &&
  (t.copiesQuiet l now stop .cpi) && (t.copiesQuiet l now stop .cpo) &&
  t.vu.raccs.isEmpty && t.vu.accPend.isEmpty && t.vu.flagsDue.isEmpty && t.mx.flights.isEmpty && decide (t.vu.divBusy ≤ now) &&
  t.nx.subs.isEmpty && t.nx.mcasts.isEmpty && t.nx.sends.isEmpty && t.wq.commits.isEmpty && t.wq.queries.isEmpty &&
  t.fx.ops.isEmpty && t.fx.colls.all (fun x => stop && !x.ready) && t.tkFlights.isEmpty && t.streams.toList.all (fun x => x.elems.all Element.returned && x.refetch.isEmpty)

/-- R126: the strands of a tile have ended, and nothing of its task is in flight. -/
def Tile.finished (t : Tile) (l now : Nat) : Bool := allStrands.all (fun k => (t.strand k).run == .ended) && t.quiet l now false

/-! ### Translation (R308) -/

/-- The 2 MiB units of the records of a task that a test selects. -/
def Task.units (t : Task) (f : Region → Bool) : List Nat := (t.regions.filter f).flatMap (fun r => units2M r.base r.extent)

/-- R352: a 16 MiB block of a WEEVIL region is translated onto an aligned block of a window with IL = 0 and PCL = 0; a page that
has no translation yet does not refuse it. -/
def State.weevilBlock (s : State) (x : Context) (va : Nat) : Bool :=
  match x.translate va with
  | none => true
  | some pa =>
    let w := mget s.wintab (pa / 2 ^ 30) 0
    decide (pa % 2 ^ 24 = 0) && decide (pa < hbmSize) && !bit w 0 && !bit w 2 &&
    (List.range 8).all (fun i => match x.translate (va + i * 2 ^ 21) with | some p => p == pa + i * 2 ^ 21 | none => true)

/-- R308, R352: the task is refused: a reserved physical page, a page that the driver declared impossible, a written page of an image, or a
WEEVIL block placed wrongly. -/
def State.refuses (s : State) (x : Context) (t : Task) : Bool :=
  (t.regions.any (fun r => r.weevil && !(List.range (r.extent / 2 ^ 24)).all (fun i => s.weevilBlock x (r.base + i * 2 ^ 24)))) ||
  x.impossible.contains t.uid ||
  (t.units (fun _ => true)).any (fun u => match x.translate u with | some pa => reservedPa pa | none => false) ||
  t.regions.any (fun r => r.mode != 0 && touchesPage x.imagePages r.base r.extent)

/-- The pins that a task takes at its translation (R308): a pin is held by task 2·uid, or by kernel 2·KID + 1 for a PINNED record. -/
def Task.pins (t : Task) : List (Nat × Nat) :=
  (t.units (fun r => !r.lazyMap && !r.pinned)).map (fun u => (u, 2 * t.uid)) ++
  (t.units (fun r => !r.lazyMap && r.pinned)).map (fun u => (u, 2 * t.kid + 1))

/-- Adds pins. -/
def Context.pin (x : Context) (pins : List (Nat × Nat)) : Context := { x with pins := x.pins ++ pins.filter (fun p => !x.pins.contains p) }

/-- Every page of a task's records has a valid translation. -/
def Context.resident (x : Context) (t : Task) : Bool := (t.units (fun _ => true)).all (fun u => (x.translate u).isSome)

/-- Removes a kernel's pins of PINNED records, and a task's own pins at its retirement (R308). -/
def Context.unpin (x : Context) (holder : Nat) : Context := { x with pins := x.pins.filter (fun p => p.2 != holder) }

/-! ### Speculation (R325 to R329) -/

/-- An unplaced form of a task: it returns to WAITING from its accepted record (R327, R332). -/
def Task.again (t : Task) : Task :=
  { t with
    state := .waiting, ltn := none, slot := none, hasImage := false, readSet := [], endLines := [], conflict := false, committed := false,
    noticed := none, heldMail := [], heldOut := [], mtab := [], barrier := none, lodWaits := [], steps := [], sentIdx := [], stPorts := [],
    regions := t.regions.map (fun r =>
      { r with est := 0, closed := false, ending := false, ended := false, windowRead := false, staged := [] }) }

/-- R327: an aborted speculative task returns to WAITING from its accepted record. -/
def State.restart (s : State) (c uid : Nat) : State :=
  let s := s.modTask c uid (fun t => { t.again with aborts := t.aborts + 1 })
  s.writeEsts c ((s.ctx c).task? uid).toList

/-- R327: aborts one speculative task: its held lines and deltas are discarded, and it leaves its tile when its copies have run out. -/
def State.abortOne (s : State) (c uid : Nat) : State :=
  let s := (List.finRange 8).foldl (fun s d => s.modDie d (fun e =>
    { e with held := e.held.filter (fun h => !(h.ctx == c && h.uid == uid)),
             deltas := e.deltas.filter (fun h => !(h.ctx == c && h.uid == uid)) })) s
  match ((s.ctx c).task? uid).bind (s.onTile c) with
  | some l => s.abandonTile l
  | none => s.restart c uid

/-- A task that has run since it was placed, and may be aborted (R327). -/
def State.inRun (s : State) (c : Nat) (t : Task) : Bool :=
  t.speculating && !s.aborting c t && (t.state == .starting || t.state == .running || t.state == .ending || t.state == .stopped)

/-- The lines that a task holds (R325). -/
def State.heldLines (s : State) (c uid : Nat) : List Nat :=
  s.dies.toList.flatMap (fun d => (d.held.filter (fun h => h.ctx == c && h.uid == uid)).map HeldLine.line)

/-- R327: aborts speculative tasks and every one that read a line held by an aborted task; n bounds the rounds. -/
def State.abortSpec (s : State) (c : Nat) (uids : List Nat) : Nat → State
  | 0 => s
  | n + 1 =>
    if uids.isEmpty then s
    else
      let lines := uids.flatMap (s.heldLines c)
      let s := uids.foldl (fun s u => s.abortOne c u) s
      let more := ((s.ctx c).tasks.filter (fun t => s.inRun c t && t.readSet.any lines.contains)).map Task.uid
      s.abortSpec c more n

/-- R325: the held lines and deltas of a speculative task that has resumed on another die are held there. -/
def State.moveHeld (s : State) (d : Fin 8) (c uid : Nat) : State :=
  let hs := s.dies.toList.flatMap (fun e => e.held.filter (fun h => h.ctx == c && h.uid == uid))
  let ds := s.dies.toList.flatMap (fun e => e.deltas.filter (fun h => h.ctx == c && h.uid == uid))
  let s := (List.finRange 8).foldl (fun s e => s.modDie e (fun x =>
    { x with held := x.held.filter (fun h => !(h.ctx == c && h.uid == uid)),
             deltas := x.deltas.filter (fun h => !(h.ctx == c && h.uid == uid)) })) s
  s.modDie d (fun x => { x with held := x.held ++ hs, deltas := x.deltas ++ ds })

/-- R326: lines written by an end or stop action of a task: the speculative tasks with a higher order key that overlap it and have read one
of them are aborted; one of them that reads such a line later in its run conflicts as well (entry 27). -/
def State.conflicts (s : State) (c : Nat) (e : Task) (lines : List Nat) : State :=
  let later := (s.ctx c).tasks.filter (fun t => s.inRun c t && e.keyBelow t && regionsOverlap t.regions e.regions)
  let s := later.foldl (fun s t => s.modTask c t.uid (fun t => { t with endLines := t.endLines ++ lines.filter (fun p => !t.endLines.contains p) })) s
  s.abortSpec c ((later.filter (fun t => t.readSet.any lines.contains)).map Task.uid) ((s.ctx c).tasks.length + 1)

/-! ### Edge actions (R312 to R317) -/

/-- Dirty lines of a range in a die's cache. -/
def State.dirtyLines (s : State) (d : Fin 8) (c va n : Nat) : List Nat :=
  ((s.ctx c).lines va n).filter (fun pl => match mfind (s.die d).cache pl with | some x => x.dirty != 0 | none => false)

/-- A flush (R313): the dirty bytes of a range go home. -/
def State.flush (s : State) (d : Fin 8) (c : Nat) (t : Task) (va n : Nat) : State :=
  let ls := s.dirtyLines d c va n
  (s.releaseRange d c va n).conflicts c t ls

/-- R316: one addition into a home element. -/
def State.homeAdd (s : State) (c va : Nat) (ty : AccType) (v : Nat) : State :=
  match (s.ctx c).pas va ty.width with
  | some pas =>
    let s := (s.homeRead pas).1
    s.homeBytes [c] (pas.zip (leBytes ty.width (ty.sum (leNat (readAt s.mem pas)) v)))
  | none => s

/-- R316: adds the deltas of a task in a range at home and clears them. -/
def State.addDeltas (s : State) (d : Fin 8) (c : Nat) (t : Task) (va n : Nat) : State :=
  let mine := fun (x : Delta) => x.ctx == c && x.uid == t.uid && decide (va ≤ x.va) && decide (x.va < va + n)
  let ds := (s.die d).deltas.filter mine
  let s := ds.foldl (fun s x => s.homeAdd c x.va x.ty x.value.toNat) s
  let s := s.modDie d (fun e => { e with deltas := e.deltas.filter (fun x => !mine x) })
  s.conflicts c t ((ds.filterMap (fun x => (s.ctx c).translate x.va)).map lineOf)

/-- The bytes of a window from its base. -/
def Tile.windowBytes (t : Tile) (w n : Nat) : List Byte := readAt t.spm (span (t.window w).base n)

/-- The start action of a record (R312): an invalidate, and the fill of its window; a poisoned line fills nothing and gives the feed
strand MEM_POISON at its entry bundle (R348). -/
def State.startEffect (s : State) (c l : Nat) (r : Region) : State :=
  if r.mode = 1 ∨ r.mode = 3 then s
  else
    let s := s.acquireRange (dieOf l) c r.base r.extent
    if !r.stageIn then s
    else (List.range ((r.extent + 127) / 128)).foldl (fun s i =>
      let n := min 128 (r.extent - 128 * i)
      match s.readGlobal l (r.base + 128 * i) n with
      | (s, .ok bs) => s.modTile l (fun t => t.writeSpm ((span ((t.window r.win).base + 128 * i) n).map some |>.zip bs))
      | (s, .error f) =>
        let entry := ((s.taskOn l).map Task.entryF).getD 0
        s.modTile l (fun t => t.modStrand .feed (fun st => { st with pc := entry }.failed f entry f.fault.2))) s

/-- The STAGE_OUT of a record reads its window (R311, R313): of a W or RW record into the region through the die's cache; of an ACC
record the bytes to be added. -/
def State.readWindow (s : State) (c l : Nat) (t : Task) (k : Nat) (r : Region) : State :=
  let bs := (s.tile l).windowBytes r.win r.extent
  let s := if r.mode = 3 then s else (s.writeGlobal l r.base bs).1
  s.modRegion c t k (fun r => { r with windowRead := true, staged := if r.mode = 3 then bs else [] })

/-- The end action of a record (R313), whose window has been read; every line of a STAGE_OUT counts as written by it (R326). -/
def State.endEffect (s : State) (c l : Nat) (t : Task) (r : Region) : State :=
  let d := dieOf l
  match r.mode with
  | 0 => s
  | 3 =>
    let s :=
      if !r.stageOut then s
      else match accTypeOf r.acct with
        | none => s
        | some ty =>
          let s := (List.range (r.extent / ty.width)).foldl (fun s i =>
            s.homeAdd c (r.base + ty.width * i) ty (leNat ((r.staged.drop (ty.width * i)).take ty.width))) s
          s.conflicts c t ((s.ctx c).lines r.base r.extent)
    s.addDeltas d c t r.base r.extent
  | _ =>
    let s := s.flush d c t r.base r.extent
    if r.stageOut then s.conflicts c t ((s.ctx c).lines r.base r.extent) else s

/-- R315: the end actions that the start action of a record waits for are done: those of every task that its task depends on, on the bytes
of the record. A speculative task does not wait (entry 27). -/
def State.startMay (s : State) (c : Nat) (t : Task) (r : Region) : Bool :=
  t.speculating || (s.ctx c).tasks.all (fun p => !t.dependsOn p || p.state.over ||
    (s.regionsOf c p).all (fun b => !overlap (r.base, r.extent) (b.base, b.extent) || b.ended))

/-- R315: after the end action of a record, the tasks that depend on its task and whose start actions on its bytes are already done get the
bytes forwarded: their start actions are performed anew (entry 27). -/
def State.forwardTo (s : State) (c : Nat) (p : Task) (r : Region) : State :=
  (s.ctx c).tasks.foldl (fun s t =>
    if t.state == .starting && !t.hasImage && !t.speculating && t.dependsOn p then
      match s.onTile c t with
      | none => s
      | some l => (s.regionsOf c t).foldl (fun s b =>
          if b.est == 2 && overlap (r.base, r.extent) (b.base, b.extent) then s.startEffect c l b else s) s
    else s) s

/-- The stop actions of a running task (R317): no EST changes. The writes of a speculative task stay held (R325). -/
def State.stopActions (s : State) (c l : Nat) (t : Task) : State :=
  if t.speculating then s
  else (s.regionsOf c t).foldl (fun s r =>
    match r.mode with
    | 0 => s
    | 3 => s.addDeltas (dieOf l) c t r.base r.extent
    | _ => s.flush (dieOf l) c t r.base r.extent) s

/-- The resume actions of a stopped task (R317): an invalidate of every R and RW record. What a speculative task holds goes with it (R325). -/
def State.resumeActions (s : State) (c l : Nat) (t : Task) : State :=
  (s.regionsOf c t).foldl (fun s r => if r.mode = 0 ∨ r.mode = 2 then s.acquireRange (dieOf l) c r.base r.extent else s)
    (if t.speculating then s.moveHeld (dieOf l) c t.uid else s)

/-- R320: every store of the task through a handle has been performed. -/
def Tile.handleDrained (t : Tile) (k : Nat) : Bool :=
  allStrands.all (fun n =>
    (t.strand n).sb.all (fun e => e.handle != some k) && (t.strand n).accesses.all (fun a => a.handle != some k || a.performed))

/-! ### Translation and placement -/

/-- TRANSLATION_COMPLETE (R308): task `uid` of context `c` becomes WAITING once its pages are translated, which pins those of its
non-LAZY records; a missing page is requested of the driver (R413). A refused one is aborted by `execKernelAbort`. -/
def execTranslationComplete (s : State) : State :=
  let a := s.args
  let x := s.ctx a.c
  match x.task? a.uid with
  | none => s
  | some t =>
    if t.state != .accepted || s.refuses x t then s
    else match (t.units (fun _ => true)).find? (fun u => (x.translate u).isNone) with
    | some u =>
      if x.requests.contains u then s
      else (s.modCtx a.c (fun x => { x with requests := x.requests ++ [u] })).report a.c ⟨5, 0, u, 0, 0⟩
    | none => s.modCtx a.c (fun x => (x.pin t.pins).modTask t.uid (fun t => { t with state := .waiting }))

/-- A tile that can take a task (R310, R335, R415, R420). -/
def State.freeTile (s : State) (l : Nat) : Bool :=
  decide (l < 1600) && (s.tile l).owner.isNone && !(s.tile l).fenced && !(s.die (dieOf l)).recovery &&
  decide ((s.die (dieOf l)).pausedUntil ≤ s.time)

/-- The lowest free image slots of a context (R147). -/
def Context.freeSlots (x : Context) (n : Nat) : List Nat :=
  ((List.range (x.imgsize.toNat / 2 ^ 20)).filter (fun i => x.tasks.all (fun t => t.slot != some i))).take n

/-- The members of a task's gang in order, or the task alone. -/
def Context.members (x : Context) (t : Task) : List Task :=
  if t.gang then x.tasks.filter (fun p => p.gang && p.gangUid == t.gangUid) else [t]

/-- The members of a task's gang that have not retired; after a rollback the others run again without them (R332). -/
def Context.present (x : Context) (t : Task) : List Task := (x.members t).filter (fun p => !p.state.over)

/-- R28, R287, R310: the origin of the first free rectangle for a gang. -/
def State.gangOrigin (s : State) (t : Task) : Option Nat :=
  let even := t.gw % 2 == 0 && t.gh % 2 == 0
  (List.range 1600).find? (fun o =>
    decide (o % 40 + t.gw ≤ 40) && decide (o / 40 + t.gh ≤ 40) && (!even || (o % 40 % 2 == 0 && o / 40 % 2 == 0)) &&
    (List.range t.gh).all (fun j => (List.range t.gw).all (fun i => s.freeTile (o + 40 * j + i))))

/-- The tiles that a task, or the members of its gang in order, would get (R310). -/
def State.choose (s : State) (t : Task) : Option (List Nat) :=
  if t.gang then
    (s.gangOrigin t).map (fun o => (List.range (t.gw * t.gh)).map (fun i => o + 40 * (i / t.gw) + i % t.gw))
  else ((List.range 1600).find? s.freeTile).map (fun l => [l])

/-- The interval of 1 µs that a time lies in. -/
def microsecond (time : Nat) : Nat := time / 342000

/-- The tile-cycles of a context over the last 1 ms, kept by intervals of 1 µs (R310). -/
def Context.used (x : Context) (time : Nat) : Nat :=
  ((x.shares.filter (fun p => decide (microsecond time < p.1 + 1000))).map (·.2)).sum

/-- R310: how far a context lies below its weighted share of tile-cycles, on a common scale. -/
def State.deficit (s : State) (c : Nat) : Int :=
  let live := s.ctxs.filter (fun p => p.2.en)
  let total := (live.map (fun p => p.2.used s.time)).sum
  let weights := (live.map (fun p => p.2.weight)).sum
  ((s.ctx c).weight * total : Nat) - ((s.ctx c).used s.time * weights : Nat)

/-- R310: the order in which READY tasks are placed. -/
def State.placesBefore (s : State) (a b : Nat × Task) : Bool :=
  if a.2.prio ≠ b.2.prio then decide (b.2.prio < a.2.prio)
  else if a.1 = b.1 then a.2.keyBelow b.2
  else decide (s.deficit b.1 < s.deficit a.1) || (decide (s.deficit a.1 = s.deficit b.1) && decide (a.1 < b.1))

/-- A package barrier domain for a gang (R295): none where the 64 are taken or its number is held by a live gang. -/
def State.freeDomain (s : State) (c : Nat) (t : Task) : Option Nat :=
  if s.domains.any (fun p => p.2.ctx == c && (s.ctx c).tasks.any (fun q => q.gangUid == p.2.gangUid && q.gang && q.domain == t.domain))
  then none
  else (List.range 64).find? (fun n => (mfind s.domains n).isNone)

/-- The domain already bound to a gang (R149, R295). -/
def State.boundDomain (s : State) (c : Nat) (t : Task) : Option Nat :=
  (s.domains.find? (fun p => p.2.ctx == c && p.2.gangUid == t.gangUid)).map (·.1)

/-- The tiles, slots and domain that a task and its gang can be placed with now. -/
def State.placement (s : State) (c : Nat) (t : Task) : Option (List Nat × List Nat × Option Nat) :=
  let x := s.ctx c
  let ms := x.present t
  let slots := if t.slot.isSome then ms.filterMap Task.slot else x.freeSlots ms.length
  let dom := if t.gang then (s.boundDomain c t).orElse (fun _ => s.freeDomain c t) else some 0
  match s.choose t, dom with
  | some ls, some d => if slots.length = ms.length then some (ls, slots, if t.gang then some d else none) else none
  | _, _ => none

/-- R15, R26, R147: a task takes a tile: from another context its SPM, accumulators and metadata are cleared. -/
def State.occupy (s : State) (c : Nat) (t : Task) (l slot origin : Nat) : State :=
  let old := s.tile l
  let tile := { Tile.empty with
    owner := some (c, t.uid), lastCtx := some c, spm := if old.lastCtx = some c then old.spm else [], windows := t.windows,
    regions := t.regions, phys := old.phys, probes := old.probes, probedAt := old.probedAt }
  (s.setTile l tile).modTask c t.uid (fun t =>
    { t with state := .starting, ltn := some l, slot := some slot, origin := origin, noticed := none })

/-- Places a task or its gang (R310). -/
def State.placeTask (s : State) (c : Nat) (t : Task) : State :=
  match s.placement c t with
  | none => s
  | some (ls, slots, dom) =>
    let at1 := fun (p : Task) => if p.gang then ls.getD p.gidx 0 else ls.headD 0
    let s := (((s.ctx c).present t).zip slots).foldl (fun s p => s.occupy c p.1 (at1 p.1) p.2 (ls.headD 0)) s
    match dom with
    | none => s
    | some n =>
      let d := (mfind s.domains n).getD ⟨c, t.gangUid, [], none, none, [], 0⟩
      { s with domains := mput s.domains n { d with members := ls } }

/-- R310: a task may be placed before its dependences are satisfied: each unsatisfied one is on a task in ENDING. -/
def State.early (s : State) (c : Nat) (t : Task) : Bool :=
  t.state == .waiting && (s.ctx c).tasks.all (fun p => !t.dependsOn p || p.state == .aborted || p.state == .ending || s.satisfied c t p)

/-- A READY task that can be placed goes before a task (R310). -/
def State.outranked (s : State) (c : Nat) (t : Task) : Bool :=
  (s.ctxs.flatMap (fun p => (p.2.tasks.filter (fun q => q.state == .ready && !q.parked && !q.marked)).map (fun q => (p.1, q)))).any
    (fun p => s.placesBefore p (c, t) && (s.placement p.1 p.2).isSome)

/-- R403, R404: a marked task is not placed; its CODE_GONE record is added, and it stays stopped. -/
def State.codeGone (s : State) (c : Nat) (t : Task) : State :=
  (s.modTask c t.uid (fun t => { t with parked := true })).addFaults c
    [faultRecord ⟨.codeGone, .asynchronous, 0, word t.code, none, false⟩ 3 0 t.idWord 0x7FF t.ts]

/-- TASK_PLACE (R304, R306, R310, R403): task `uid` of context `c` becomes READY when its dependences are satisfied, or as a
speculative one; a READY task, with its gang, is placed when no other placeable one goes before it. A WAITING one may be placed early, a
free choice of the firmware (log entry 7), but not one that stays stopped until its owner acts (R419). A marked task gives a CODE_GONE record instead. -/
def execTaskPlace (s : State) : State :=
  let a := s.args
  let x := s.ctx a.c
  match x.task? a.uid with
  | none => s
  | some t =>
    if x.recovery.isSome then s
    else match t.state with
    | .waiting =>
      if (t.spec && decide (t.aborts < 8)) || s.depsMet a.c t then
        s.modTask a.c a.uid (fun t => { t with state := .ready, readyAt := s.time })
      else if t.parked || x.ckpt || t.marked || !(x.present t).all (fun p => p.state == .ready || s.early a.c p) || s.outranked a.c t then s
      else if Config.choice s.free then s.bump.placeTask a.c t
      else s.bump
    | .ready =>
      if t.parked || x.ckpt || !(x.present t).all (fun p => p.state == .ready) then s
      else if t.marked then s.codeGone a.c t
      else if s.outranked a.c t then s
      else s.placeTask a.c t
    | _ => s

/-! ### Start and end actions -/

/-- START_ACTION (R312, R314, R315): the start action of record `n` of placed task `uid` of context `c` begins once the end actions that it
waits for are done. -/
def execStartAction (s : State) : State :=
  let a := s.args
  match (s.ctx a.c).task? a.uid with
  | none => s
  | some t =>
    match (s.regionsOf a.c t)[a.n]? with
    | none => s
    | some r =>
      if t.state != .starting || t.hasImage || r.est != 0 || s.aborting a.c t then s
      else if r.mode = 1 ∨ r.mode = 3 then s.setEst a.c a.uid a.n 2
      else if !s.startMay a.c t r then s
      else
        let due := s.nextDue
        (s.bump.setEst a.c a.uid a.n 1).modRegion a.c t a.n (fun r => { r with ending := false, due := due })

/-- R320, R313, R325: the end action of a record may begin. -/
def State.endReady (s : State) (c : Nat) (t : Task) (k : Nat) (r : Region) : Bool :=
  r.est == 2 && !r.ended && !r.ending &&
  ((t.state == .ending && t.committed) ||
   (r.closed && (match s.onTile c t with | some l => (s.tile l).handleDrained k | none => true)))

/-- EDGE_ACTION_COMPLETE (R311 to R316, R325): for record `n` of task `uid` of context `c`: an action in progress finishes and EST becomes
DONE, a STAGE_OUT first reading its window; an end action that may begin does so. -/
def execEdgeActionComplete (s : State) : State :=
  let a := s.args
  match (s.ctx a.c).task? a.uid with
  | none => s
  | some t =>
    match (s.regionsOf a.c t)[a.n]?, t.ltn with
    | some r, some l =>
      if s.aborting a.c t then s
      else if r.est = 1 then
        if s.cycle < r.due then s
        else if r.ending then
          if r.stageOut && !s.specRoom l [(r.base, r.extent)] then s
          else if r.stageOut && !r.windowRead then
            (s.bump.readWindow a.c l t a.n r).modRegion a.c t a.n (fun r => { r with due := s.nextDue })
          else
            let s := ((s.endEffect a.c l t r).setEst a.c a.uid a.n 2).modRegion a.c t a.n (fun r => { r with ending := false, ended := true, staged := [] })
            s.forwardTo a.c t r
        else if r.stageIn && !s.specRoom l [(r.base, r.extent)] then s
        else (s.startEffect a.c l r).setEst a.c a.uid a.n 2
      else if s.endReady a.c t a.n r then
        if r.mode = 0 then s.modRegion a.c t a.n (fun r => { r with ended := true })
        else
          let due := s.nextDue
          (s.bump.setEst a.c a.uid a.n 1).modRegion a.c t a.n (fun r => { r with ending := true, due := due })
      else s
    | _, _ => s

/-! ### Start, finish, release, commit, retirement -/

/-- The bundle store of a section (R401). -/
def bundleStore (bs : List (BitVec 256)) : SMap (BitVec 256) := bs.zipIdx.map (fun p => (p.2, p.1))

/-- Loads the bundle stores and the metadata store of a tile from an image (R401). -/
def Tile.loadStores (t : Tile) (i : Option Image) : Tile :=
  match i with
  | none => t
  | some i =>
    { t with
      feed := { t.feed with store := bundleStore i.feed }, compute := { t.compute with store := bundleStore i.compute },
      drain := { t.drain with store := bundleStore i.drain }, metaStore := i.metaWords.zipIdx.map (fun p => (p.2, p.1)) }

/-- A strand at task start (R26). -/
def startStrand (args : List Word) (entry : Nat) : Strand :=
  { Strand.empty with run := .running, pc := entry, x := Vector.ofFn (fun (n : Fin 64) => if n.val < 8 then args.getD n.val 0 else 0) }

/-- A tile whose task starts (R26, R68); messages that agents hold for its mailboxes wait on. -/
def Tile.startTask (e : Tile) (t : Task) (i : Option Image) : Tile :=
  let mail := fun (k : StrandId) => (t.agentMail.filter (fun m => m.1 == k)).map (·.2) ++ (e.strand k).mailHeld
  { e with
    live := true, feed := { startStrand t.args t.entryF with mailHeld := mail .feed },
    compute := { startStrand t.args t.entryC with mailHeld := mail .compute },
    drain := { startStrand t.args t.entryD with mailHeld := mail .drain } }.loadStores i

/-- TASK_START (R26, R28, R304): task `uid` of context `c`, with its gang, starts its strands once every record is DONE and every
dependence is satisfied; a speculative task does not wait for its dependences. -/
def execTaskStart (s : State) : State :=
  let a := s.args
  let x := s.ctx a.c
  match x.task? a.uid with
  | none => s
  | some t =>
    let ms := x.present t
    let ready := fun (p : Task) => p.state == .starting && !p.hasImage &&
      (s.onTile a.c p).all (fun l => (s.tile l).feed.fault.isNone && (s.tile l).stop == .none) && (s.regionsOf a.c p).all (fun r => r.est == 2) &&
      (p.speculating || s.depsMet a.c p)
    if x.ckpt || x.recovery.isSome || !ms.all ready then s
    else ms.foldl (fun s p =>
      match p.ltn with
      | none => s
      | some l => (s.modTile l (fun e => { e.startTask p (x.imageFor p.code) with since := s.firstCycle })).modTask a.c p.uid
          (fun p => { p with state := .running, started := s.cycle, agentMail := [] })) s

/-- TASK_FINISH (R126, R304, R311): task `uid` of context `c` enters ENDING once its strands have ended and nothing of it is in flight; a
pre-emption notice that it had is void. -/
def execTaskFinish (s : State) : State :=
  let a := s.args
  match (s.ctx a.c).task? a.uid with
  | none => s
  | some t =>
    match s.onTile a.c t with
    | none => s
    | some l =>
      let e := s.tile l
      if t.state == .running && allStrands.all (fun k => (e.strand k).run == .ended && (e.strand k).fault.isNone) &&
          e.quiet l s.cycle false && e.stop == .none then
        s.modTask a.c a.uid (fun t => { t with state := .ending, noticed := none })
      else s

/-- TILE_RELEASE (R311, R327): the tile of task `uid` of context `c` is released once the task is ENDING and every STAGE_OUT has read its
window; an aborted task leaves it when its copies have run out, and returns to WAITING. -/
def execTileRelease (s : State) : State :=
  let a := s.args
  match (s.ctx a.c).task? a.uid with
  | none => s
  | some t =>
    match s.onTile a.c t with
    | none => s
    | some l =>
      let e := s.tile l
      if e.stop == .aborting then
        if e.ranOut && (s.ctx a.c).recovery.isNone then
          ((s.leaveTile a.c a.uid).modTask a.c a.uid (fun t => { t with agentMail := t.agentMail ++ e.mailHeld })).restart a.c a.uid
        else s
      else if t.state == .ending && (s.regionsOf a.c t).all (fun r => !r.stageOut || r.windowRead) then s.leaveTile a.c a.uid
      else s

/-- A task that another waits for at its commit (R329). Under a checkpoint a task that is not speculative waits only for tasks that run or
end: ENDING tasks complete their actions, and the checkpoint stops or holds back the others (R330; entry 27). -/
def State.commitsAfter (s : State) (c : Nat) (t p : Task) : Bool :=
  p.keyBelow t && p.uid != t.uid && !p.committed && !p.state.over && regionsOverlap p.regions t.regions &&
  !(t.gang && p.gang && p.gangUid == t.gangUid) && !((s.ctx c).ckpt && !t.speculating && p.state != .running && p.state != .ending)

/-- TASK_COMMIT (R325, R326, R329): task `uid` of context `c` commits once every task that it overlaps with a lower order key has
committed: its held lines become dirty lines. A speculative task that has read a line written since by such a task is aborted. -/
def execTaskCommit (s : State) : State :=
  let a := s.args
  let x := s.ctx a.c
  match x.task? a.uid with
  | none => s
  | some t =>
    if t.conflict && s.inRun a.c t then s.abortSpec a.c [a.uid] (x.tasks.length + 1)
    else if t.state != .ending || t.committed || s.aborting a.c t || x.recovery.isSome || x.tasks.any (s.commitsAfter a.c t) then s
    else
      let s := (List.finRange 8).foldl (fun s d =>
        let mine := (s.die d).held.filter (fun h => h.ctx == a.c && h.uid == a.uid)
        let s := mine.foldl (fun s h => s.cacheWrite d a.c h.line (maskedBytes h.data h.mask)) s
        s.modDie d (fun e => { e with held := e.held.filter (fun h => !(h.ctx == a.c && h.uid == a.uid)) })) s
      s.modTask a.c a.uid (fun t => { t with committed := true })

/-- Frees the barrier domain of a gang none of whose members is left (R295). -/
def State.freeGang (s : State) (c gangUid : Nat) : State :=
  if (s.ctx c).tasks.any (fun t => t.gang && t.gangUid == gangUid && !t.state.over) then s
  else { s with domains := s.domains.filter (fun p => !(p.2.ctx == c && p.2.gangUid == gangUid)) }

/-- TASK_RETIRE (R304, R308, R314): task `uid` of context `c` retires once its end actions are DONE and its tile is released. -/
def execTaskRetire (s : State) : State :=
  let a := s.args
  match (s.ctx a.c).task? a.uid with
  | none => s
  | some t =>
    if t.state == .ending && t.committed && (s.onTile a.c t).isNone && t.regions.all (fun r => r.ended && r.est == 2) then
      let s := s.modCtx a.c (fun x =>
        { (x.modTask a.uid (fun t => { t with state := .retired, slot := none })).unpin (2 * a.uid) with
          kernels := x.kernels.map (fun k => if k.kid = t.kid then { k with retired := k.retired + 1 } else k) })
      if t.gang then s.freeGang a.c t.gangUid else s
    else s

/-- R305: a kernel has ended: its entries are all taken and its tasks have retired. -/
def Context.ended (x : Context) (k : Kernel) : Bool := k.closed && (x.tasks.filter (fun t => t.kid == k.kid)).all (fun t => t.state == .retired)

/-- KERNEL_COMPLETE (R305, R330, R411): kernel `n` of context `c` is reported complete once its entries are all taken and its tasks
have retired; while another kernel is alive, a checkpoint comes first. -/
def execKernelComplete (s : State) : State :=
  let a := s.args
  let x := s.ctx a.c
  match x.kernels.find? (fun k => k.kid == a.n && k.alive) with
  | none => s
  | some k =>
    if !x.ended k then s
    else if x.recovery.isSome || x.ckpt then s
    else if x.kernels.any (fun j => j.alive && j.kid != a.n) && !k.ckpt then s.modCtx a.c (fun x => { x with ckpt := true })
    else
      let s := s.modCtx a.c (fun x =>
        { x.unpin (2 * a.n + 1) with
          kernels := x.kernels.filter (fun j => j.kid != a.n), tasks := x.tasks.filter (fun t => t.kid != a.n),
          boundary := x.boundary.filter (fun t => t.kid != a.n) })
      s.report a.c ⟨2, 0, 0, a.n, k.retired⟩

/-! ### Checkpoints, rollback and aborts (R330 to R336) -/

/-- A task's place in a checkpoint: it has nothing running, starting or ending. -/
def State.settled (s : State) (c : Nat) (t : Task) : Bool :=
  !s.aborting c t && match t.state with
  | .running => false
  | .starting => (s.regionsOf c t).all (fun r => r.est == 2)
  | .ending => false
  | _ => true

/-- CHECKPOINT (R330): context `c` takes a checkpoint when its log reaches 7/8 of its size or a kernel is about to end: speculative
tasks, stopped ones among them, are aborted and running ones stopped; once all is settled, dirty lines go home and the boundary is set. A log record takes
the line and its address, 136 bytes (log entry 13). -/
def execCheckpoint (s : State) : State :=
  let c := s.args.c
  let x := s.ctx c
  if x.recovery.isSome then s
  else if !x.ckpt then
    if x.en && decide (0 < x.logsize.toNat) && decide (7 * x.logsize.toNat ≤ 8 * (136 * x.log.length)) then
      s.modCtx c (fun x => { x with ckpt := true })
    else s
  else
    let specs := (x.tasks.filter (s.inRun c)).map Task.uid
    let s := s.abortSpec c specs (x.tasks.length + 1)
    let s := (s.ctx c).tasks.foldl (fun s t =>
      match s.onTile c t with
      | some l => if t.state == .running && (s.tile l).stop == .none && !(s.tile l).finished l s.cycle then
          s.modTile l (fun e => { e with stop := .requested }) else s
      | none => s) s
    if !(s.ctx c).tasks.all (s.settled c) then s
    else
      let s := (List.finRange 8).foldl (fun s d =>
        (((s.die d).cache.filter (fun p => p.2.writers.contains c)).map (·.1)).foldl (fun s pl => s.writeBack d pl) s) s
      (s.newBoundary c).modCtx c (fun x =>
        { x with ckpt := false, kernels := x.kernels.map (fun k => { k with ckpt := k.ckpt || x.ended k }) })

/-- R332: a task returns to WAITING from its accepted record; one still ACCEPTED stays so. -/
def Task.anew (t : Task) : Task := { (if t.state == .accepted then t else t.again) with parked := false }

/-- R332: a task that was accepted and not retired at the boundary returns to WAITING, from its image there or from its accepted record. -/
def Task.atBoundary (t : Task) : Task :=
  if t.hasImage then
    { t with state := .waiting, ltn := none, noticed := none, parked := false, readSet := [], endLines := [], conflict := false }
  else t.anew

/-- R308, R332: a task that returns to WAITING holds its pins; one whose pages are no longer all translated returns to ACCEPTED for them
(entry 27), and one that its translation now refuses to ACCEPTED, where its kernel is aborted (R399). R403, R404: it is marked where its
image has gone. -/
def State.returning (s : State) (x : Context) (t : Task) : Task :=
  { t with state := if t.state == .accepted || (x.resident t && !s.refuses x t) then t.state else .accepted, marked := t.marked || (x.imageFor t.code).isNone }

/-- R308: the pins of a context after a rollback: those of the kernels that go on and of the tasks that return. -/
def Context.repin (x : Context) (dead : List Nat) (ts : List Task) : Context :=
  let keeps := fun (h : Nat) => if h % 2 = 1 then !dead.contains (h / 2) else ts.any (fun (t : Task) => t.uid == h / 2 && t.state == .waiting)
  let own := (ts.filter (fun (t : Task) => t.state == .waiting)).flatMap Task.pins
  Context.pin { x with pins := x.pins.filter (fun p => keeps p.2) } own

/-- R351: a context lets go of the pages that touch a fenced pseudo-channel: its pins and translations of them, those in the dies' buffers
among them. -/
def State.dropFenced (s : State) (c : Nat) : State :=
  let fenced := fun (p : Nat × Xlate) => p.1 == c && s.pageFenced p.2.pa
  let s := { s with dies := s.dies.map (fun (d : Die) => { d with tlb := d.tlb.filter (fun p => !fenced p) }) }
  let x := s.ctx c
  let lost := x.xlates.filter (fun e => s.pageFenced e.pa)
  if lost.isEmpty then s
  else s.modCtx c (fun x =>
    { x with
      xlates := x.xlates.filter (fun e => !lost.contains e),
      pins := x.pins.filter (fun p => !lost.any (fun e => decide (e.va ≤ p.1) && decide (p.1 < e.va + e.size))) })

/-- R332: a rollback or abort returns memory and tasks to the boundary: the context's lines are discarded, the log is replayed newest record
first, but for a line of a registered image (R399), and a line that was poisoned at the boundary is so again (R348); the tasks return; the aborted kernels' tasks are gone, and with them their collectives. -/
def State.replay (s : State) (c : Nat) (dead : List Nat) : State :=
  let x := s.ctx c
  let s := x.tasks.foldl (fun s t => s.leaveTile c t.uid) s
  let s := (List.finRange 8).foldl (fun s d => s.modDie d (fun e =>
    { e with cache := e.cache.filter (fun p => !p.2.ctxs.contains c), held := e.held.filter (fun h => h.ctx != c),
             deltas := e.deltas.filter (fun h => h.ctx != c) })) s
  let s := x.log.foldl (fun s r => if s.imageLine r.1 then s else s.homeWrite [] r.1 ((List.range 128).zip (vecBytes r.2))) s
  let s := (x.logPoison.foldl (fun s pl => if s.imageLine pl then s else s.poisonLine pl) s).dropFenced c
  let now := s.ctx c
  let lives := fun (t : Task) => !dead.contains t.kid
  let gone := fun (p : Posting) => p.fpid == s.fpid && p.job == x.job && x.tasks.any (fun t => !lives t && t.uid == p.uid)
  let postings := s.postings.map (fun (p : Posting) => if gone p then { p with retired := true } else p)
  let s := { s with domains := s.domains.filter (fun p => p.2.ctx != c), postings := postings }
  let old := x.tasks.filter (fun t => lives t && t.state == .retired && decide (t.uid < x.boundaryUid) && x.boundary.all (fun b => b.uid != t.uid))
  let fresh := x.tasks.filter (fun t => decide (x.boundaryUid ≤ t.uid) && t.fromQueue.isSome)
  let back := ((x.boundary.map Task.atBoundary ++ fresh.map Task.anew).filter lives).map (s.returning now)
  let ts := old ++ back
  let kernels := (x.kernels.filter (fun k => !dead.contains k.kid)).map (fun (k : Kernel) =>
    { k with retired := (ts.filter (fun t => t.kid == k.kid && t.state == .retired)).length })
  let s := s.modCtx c (fun x => Context.repin { x with log := [], logPoison := [], tasks := ts, boundary := x.boundary.filter lives, kernels := kernels } dead back)
  s.writeEsts c (back.filter (fun t => !t.hasImage))

/-- The physical lines in which the records of a context's log lie. -/
def Context.logLines (x : Context) : List Nat :=
  let lo := lineOf x.logbase.toNat
  if x.log.isEmpty then [] else (List.range (lineOf (x.logbase.toNat + 136 * x.log.length - 1) + 1 - lo)).map (lo + ·)

/-- R347: the log of a context is read, and errors in it are met. -/
def State.readLog (s : State) (c : Nat) : State := (s.ctx c).logLines.foldl (fun s pl => s.readHome pl) s

/-- R330, R348: a record of a context's log is poisoned, lies in a poisoned line, or in a fenced pseudo-channel. -/
def State.badLog (s : State) (c : Nat) : Bool := !(s.ctx c).logPoison.isEmpty || (s.ctx c).logLines.any s.linePoison

/-- The DOMAIN_ABORT record of a gang member (R336). -/
def abortRecord (t : Task) (ltn detail : Nat) : FaultRecord :=
  faultRecord ⟨.domainAbort, .asynchronous, 0, word detail, none, false⟩ 3 0 t.idWord ltn t.ts

/-- The DOMAIN_ABORT records of the gang members of aborted kernels (R336). -/
def State.gangRecords (s : State) (c : Nat) (dead : List Nat) (detail : Nat) : List FaultRecord :=
  ((s.ctx c).tasks.filter (fun t => dead.contains t.kid && t.gang && !t.state.over)).map
    (fun t => abortRecord t ((s.onTile c t).getD 0x7FF) detail)

/-- R332, R333, R336: the end of a rollback, once nothing is in flight: the kernels named are aborted, those that performed an fx operation,
and after three rollbacks, or where a record of the log is poisoned (R348), all of them; the others are rolled back. R335: the fenced
tiles that a spare takes the place of serve again. -/
def State.endRecovery (s : State) (c : Nat) (r : Recovery) : State :=
  let s := s.readLog c
  let x := s.ctx c
  let alive := x.kernels.filter Kernel.alive
  let bad := s.badLog c
  let dead := (alive.filter (fun k => r.named.contains k.kid || k.fxUsed || bad || (r.error && decide (3 ≤ x.rollbacks)))).map Kernel.kid
  let recs := if r.error && !dead.isEmpty then r.causes ++ s.gangRecords c dead r.blame else []
  let s := (s.replay c dead).modCtx c (fun x => { x with rollbacks := x.rollbacks + 1, ckpt := false, recovery := none })
  let s := alive.foldl (fun s k =>
    if dead.contains k.kid then s.report c ⟨3, 0, 0, k.kid, k.retired⟩ else s.report c ⟨4, 0, 0, k.kid, (s.ctx c).rollbacks⟩) (s.addFaults c recs)
  r.fenced.foldl (fun s l => s.modTile l (fun e => { e with fenced := false, spm := [], probes := 0 })) s

/-- R332: every task of a context stops issuing, without an image. -/
def State.haltTasks (s : State) (c : Nat) : State :=
  let s := (s.ctx c).tasks.foldl (fun s t => match s.onTile c t with | some l => s.abandonTile l | none => s) s
  s.modCtx c (fun x => { x with recovery := x.recovery.map (fun r => { r with halted := true }) })

/-- Two causes of one recovery. -/
def Recovery.merge (a b : Recovery) : Recovery :=
  { a with named := a.named ++ b.named, error := a.error || b.error, causes := a.causes ++ b.causes, waits := a.waits ++ b.waits,
           fenced := a.fenced ++ b.fenced }

/-- R332 to R334: a rollback or abort begins; its tasks stop at once unless members of a fenced tile's domain come first. -/
def State.recover (s : State) (c : Nat) (r : Recovery) : State :=
  let s := s.modCtx c (fun x => { x with recovery := some (match x.recovery with | some q => q.merge r | none => r) })
  if r.waits.isEmpty then s.haltTasks c else s

/-- R332, R334: a rollback goes on: the tasks stop once the members have met DOMAIN_ABORT; once their copies and queries have run out, memory
and tasks return to the boundary. -/
def State.goOn (s : State) (c : Nat) : State :=
  match (s.ctx c).recovery with
  | none => s
  | some r =>
    if !r.halted then (if r.waits.any (fun l => (s.tile l).abortPends) then s else s.haltTasks c)
    else if (s.ctx c).tasks.all (fun t => (s.onTile c t).all (fun l => (s.tile l).ranOut)) then s.endRecovery c r
    else s

/-- R331: what a poison that a strand met leads to: the abort of its kernel where a translation was lost or the log holds no record of
the line, otherwise a rollback. -/
def State.poisoned (s : State) (l : Nat) (t : Task) (k : StrandId) (f : FaultInfo) (cause va : Nat) : State :=
  let c := s.ctxOf l
  let x := s.ctx c
  let logged := match x.translate va with | some pa => x.log.any (fun r => r.1 == lineOf pa) | none => false
  let rec1 := faultRecord f (strandNum k) ((s.tile l).strand k).pc t.idWord l t.ts
  s.recover c ⟨if cause = 1 ∨ !logged then [t.kid] else [], true, [rec1], l, [], [], false⟩

/-- R331: an uncorrectable error in a line of a die cache: each context whose dirty bytes it holds is rolled back; the record of its cause
has no strand and no tile (entry 27). -/
def State.cacheError (s : State) (d : Fin 8) (pl : Nat) : State :=
  match mfind (s.die d).cache pl with
  | none => s
  | some x =>
    if x.dirty = 0 then s
    else x.writers.foldl (fun s c =>
      let va := (((s.ctx c).xlates.find? (fun e => decide (e.pa ≤ pl * 128) && decide (pl * 128 < e.pa + e.size))).map (fun e => e.va + (pl * 128 - e.pa))).getD 0
      s.recover c ⟨[], true, [faultRecord ⟨.memPoison, .asynchronous, 0, word va, none, false⟩ 3 0 0 0x7FF 0], 0x7FF, [], [], false⟩) s

/-- ROLLBACK (R331, R332): the poison that a strand of tile `l` has met starts a rollback, or the abort of its kernel; with `row` = 1 the
rollback of context `c` goes on; with `flag` an uncorrectable error is found in line `addr` of the cache of die `n`. -/
def execRollback (s : State) : State :=
  let a := s.args
  if a.flag then s.cacheError (Fin.ofNat 8 a.n) a.addr
  else if a.row = 1 then s.goOn a.c
  else
    let s := s.traceFaults a.l
    match (s.taskOn a.l).filter (fun _ => (s.tile a.l).stop != .aborting) with
    | none => s
    | some t =>
      let hit := allStrands.filterMap (fun k => match ((s.tile a.l).strand k).fault with
        | some f => f.poison.map (fun p => (k, f, p))
        | none => none)
      match hit with
      | [] => s
      | (k, f, p) :: _ => s.poisoned a.l t k f p.1 p.2

/-- KERNEL_ABORT (R308, R333): kernel `n` of context `c` is aborted: by its owner (`flag`), or because a task of it is refused its
translation. -/
def execKernelAbort (s : State) : State :=
  let a := s.args
  let x := s.ctx a.c
  match x.kernels.find? (fun k => k.kid == a.n && k.alive) with
  | none => s
  | some _ =>
    let refused := x.tasks.filter (fun t => t.kid == a.n && t.state == .accepted && s.refuses x t)
    if (!a.flag && refused.isEmpty) || x.recovery.any (fun r => r.named.contains a.n) then s
    else
      let s := if a.flag then s else match (refused.head?).bind Task.fromQueue with
        | some n => s.report a.c ⟨1, 5, n, a.n, 0⟩
        | none => s
      s.recover a.c ⟨[a.n], false, [], 0x7FF, [], [], false⟩

/-- Carries a domain abort from tile l to the other members of a gang on tiles, whose tasks then stay stopped until their owner acts (R142,
R334, R337); a member whose stop is already completing gets its record with it. -/
def State.carryAbort (s : State) (c : Nat) (t : Task) (l : Nat) : State :=
  if !t.gang then s
  else ((s.ctx c).members t).foldl (fun s p =>
    match s.onTile c p with
    | some m => if p.uid = t.uid then s else (s.modTile m (fun e =>
        if e.abort.isSome || e.stop == .aborting then e
        else { e with abort := some ⟨.domainAbort, word l, s.time + 342 * 20000⟩ })).modTask c p.uid (fun p => { p with parked := true, noticed := none })
    | none => s) s

/-- R335: an entry of its gang's schedule names a task's tile. -/
def Task.scheduled (t : Task) : Bool := t.sched.any (fun e => e.src == t.gidx || e.dst == t.gidx)

/-- R335: the spare that takes the place of a tile: the lowest acceptable one; whether a spare's path is short enough for a scheduled tile
is a free choice (log entry 2). -/
def State.spareFor (s : State) (l : Nat) : Option Nat :=
  ((s.die (dieOf l)).spares.filter (fun p => !(s.taskOn l).any Task.scheduled || Config.choice (s.free + p))).min?

/-- TILE_FENCE (R334, R335): tile `l` is fenced. The other members of its barrier domain get DOMAIN_ABORT, and then its kernel is rolled
back. The tile is remapped to the lowest acceptable spare of its die, or stays out of service. -/
def execTileFence (s : State) : State :=
  let l := s.args.l
  let c := s.ctxOf l
  if (s.tile l).fenced then s
  else
    let spare := s.spareFor l
    let t? := s.taskOn l
    let s := (({ s with free := s.free + 256 }.abandonTile l).modTile l (fun e =>
      { e with fenced := true, phys := spare.orElse (fun _ => e.phys), stop := if t?.isSome then .aborting else .none })).modDie (dieOf l)
        (fun e => { e with spares := e.spares.filter (fun p => some p != spare) })
    match t? with
    | none => s.modTile l (fun e => { e with fenced := spare.isNone, spm := if spare.isSome then [] else e.spm, probes := 0 })
    | some t =>
      let s := s.carryAbort c t l
      let waits := ((s.ctx c).members t).filterMap (fun p => (s.onTile c p).filter (fun m => (s.tile m).abortPends))
      s.recover c ⟨[], true, [abortRecord t l l], l, waits, if spare.isSome then [l] else [], false⟩

end Sys2Proof.Machine
end

