-- ==== Sys2Proof/Machine/Weevil.lean ====
section
/-! DEFINITION. The Weevil attention engine (R352 to R369): commits, queries, bank scans and triples. -/

namespace Sys2Proof.Machine

/-- LAT_WQC (R356). -/
def latWqc : Nat := 4

/-! ### Streams (R353 to R355) -/

/-- The byte offset of a token's key line in its region (R353). -/
def keyOff (t : Nat) : Nat := 2 ^ 24 * (t / 65536) + 128 * (t % 65536)
/-- The byte offset of a token's value line. -/
def valueOff (t : Nat) : Nat := keyOff t + 2 ^ 23
/-- OFF × 64 of a descriptor locator (R354). -/
def sdOff (v : Word) : Nat := field v 47 6 * 64
/-- IDX of a descriptor locator. -/
def sdIdx (v : Word) : Nat := field v 3 0
/-- The reserved bits of a locator are zero. -/
def sdOk (v : Word) : Bool := decide (field v 63 48 = 0) && decide (field v 5 4 = 0)
/-- CAP of a region, in tokens (R352). -/
def Region.cap (r : Region) : Nat := r.extent / 256
/-- The result word of commit, post and cancel (R357). -/
def wqWord (code val : Nat) : Word := word (code * 2 ^ 56 + val % 2 ^ 48)

/-- The stack that holds a token (R353). -/
def tokenStack (t : Nat) : Nat := t / 2 ^ 5 % 16
/-- The bank number that holds a token within its stack (R353). -/
def tokenBank (t : Nat) : Nat := 32 * (t % 32) + 16 * (t / 2 ^ 9 % 2) + t / 2 ^ 10 % 16
/-- The first token of a bank of a stack; the others follow 16,384 apart (R353). -/
def bankToken (stack b : Nat) : Nat := b / 32 + 32 * stack + 2 ^ 9 * (b / 16 % 2) + 2 ^ 10 * (b % 16)

/-! ### Triples (R361) -/

/-- The empty triple for D lanes. -/
def Tri.empty (d : Nat) : Tri := ⟨0xFF800000#32, 0, List.replicate d 0⟩
/-- The NaN triple. -/
def Tri.nan (d : Nat) : Tri := ⟨0x7FC00000#32, 0x7FC00000#32, List.replicate d 0x7FC00000#32⟩
/-- A triple is the NaN triple. -/
def Tri.isNan (t : Tri) : Bool := match decodeNum .fp32 t.m.toNat with | .nan => true | _ => false

/-- Rnd(2^x) of an exact number (R361). -/
def rnd2 (x : Num) : Nat :=
  match x with
  | .fin s m e =>
    if m = 0 then (roundRat .fp32 false 1 1 false .rne 0).1
    else if magLt 1 9 m e then (roundPow .fp32 .rne (if s then -400 else 400) (2 ^ sfBits) true).1
    else
      let b := exp2Bound s m e
      (roundPow .fp32 .rne b.1 b.2.1 b.2.2).1
  | .inf true => 0
  | .inf false => infBits .fp32
  | .nan => canonNan .fp32

/-- a·fa + b·fb, exact and then rounded once. -/
def mixRnd (a b : BitVec 32) (fa fb : Nat) : BitVec 32 :=
  let n := fun (v : Nat) => decodeNum .fp32 v
  BitVec.ofNat 32 (roundTo (addNum .rne (mulNum (n a.toNat) (n fa)).1 (mulNum (n b.toNat) (n fb)).1).1 false .fp32 .rne 0).1

/-- MergeTriple (R361). -/
def mergeTriple (a b : Tri) : Tri :=
  if a.isNan || b.isNan then Tri.nan a.acc.length
  else if a.m = 0xFF800000#32 then b
  else if b.m = 0xFF800000#32 then a
  else
    let na := decodeNum .fp32 a.m.toNat
    let nb := decodeNum .fp32 b.m.toNat
    let m := if ltNum na nb then b.m else a.m
    let nm := (decodeNum .fp32 m.toNat).negate
    let fa := rnd2 (addNum .rne na nm).1
    let fb := rnd2 (addNum .rne nb nm).1
    ⟨m, mixRnd a.s b.s fa fb, (a.acc.zip b.acc).map (fun p => mixRnd p.1 p.2 fa fb)⟩

/-! ### The triggers (R356 to R359, R365, R366) -/

/-- The result port of a wq trigger. -/
def wqPort : WqOp → Option ResPort
  | .hsel => none
  | _ => some .wqRes

/-- The checks of a wq trigger at issue (R358, R359, R365, R320). -/
def wqCheck (o : WqOp) (i : Iss) (s : State) : Check :=
  let t := i.tile s
  let st := i.strand s
  let n := i.t.toNat
  let kv := st.opw 0x700
  let sd := st.opw 0x701
  let cb := st.opw 0x702
  match o with
  | .hsel => need (decide (n ≤ 7)) .operandRange i.slot
  | .cancel => none
  | .commit =>
    let rk := t.regions[field kv 3 0]?
    let rd := t.regions[sdIdx sd]?
    (need (decide (field kv 63 4 = 0) && sdOk sd && decide (n < 2 ^ 48) && rk.all Region.weevil) .operandRange i.slot).andThen <|
    (need (rk.isSome && rd.isSome) .regionBounds i.slot).andThen <|
    (need (rd.all (fun r => decide (sdOff sd + 64 ≤ r.extent))) .regionBounds (sdOff sd)).andThen <|
    (need (rk.all (fun r => (r.mode == 1 || r.mode == 2) && !r.closed)) .regionPerm 0).andThen
      (need (rd.all (fun r => r.mode == 2 && !r.closed)) .regionPerm (sdOff sd))
  | .post =>
    let rc := t.regions[field cb 3 0]?
    (need (decide (field cb 63 4 = 0) && decide (n % 64 = 0) && decide (n < 2 ^ 48)) .operandRange i.slot).andThen <|
    (need rc.isSome .regionBounds i.slot).andThen <|
    (need (rc.all (fun r => decide (n + 64 ≤ r.extent))) .regionBounds n).andThen
      (need (rc.all (fun r => (r.mode == 0 || r.mode == 2) && !r.closed)) .regionPerm n)

/-- A wq trigger can accept (R79, R328, R356, R359). -/
def wqAccept (o : WqOp) (i : Iss) (s : State) : Bool :=
  let t := i.tile s
  let st := i.strand s
  !s.speculates i.l && (match wqPort o with | some p => !st.portBusy p | none => true) &&
  (match o with
   | .commit => decide (st.stcnt < 255)
   | .post => decide (t.wq.q15.length + b2n (t.wq.q15Pop == s.cycle + 1) + t.wq.reserved + 16 ≤ 32)
   | .hsel | .cancel => true)

/-- The effect of a wq trigger. -/
def wqStart (o : WqOp) (i : Iss) (s : State) : State :=
  let st := i.strand s
  let n := i.t.toNat
  let due := s.nextDue
  let fly := fun (s : State) => i.modStrand s.bump (fun st => st.fly none .wqRes (res64 0) true)
  match o with
  | .hsel => s.modTile i.l (fun t => { t with wq := { t.wq with hp := n } })
  | .commit =>
    let x : WqCommit := ⟨st.pc, field (st.opw 0x700) 3 0, st.opw 0x701, n, st.nextId, due⟩
    (i.modStrand (fly s) Strand.addSt).modTile i.l (fun t => { t with wq := { t.wq with commits := t.wq.commits ++ [x] } })
  | .post =>
    let block := (i.tile s).handleBase (field (st.opw 0x702) 3 0) + n
    let cb := (i.tile s).regions[field (st.opw 0x702) 3 0]?
    let room := (cb.map Region.extent).getD 0 - n
    let x : WqQuery :=
      { pc := st.pc, block := block, room := room, after := st.nextId, waited := none, gen := none, got := [], accepted := false, qid := 0,
        kf := false, kvh := 0, fence := 0, lo := 0, q := [], banks := [], delivered := 0, cancelled := none, due := 0 }
    (fly s).modTile i.l (fun t => { t with wq := { t.wq with queries := t.wq.queries ++ [x], reserved := t.wq.reserved + 16 } })
  | .cancel =>
    let qid := n % 2 ^ 16
    let hit := (i.tile s).wq.queries.any (fun x => x.accepted && x.qid == qid)
    let s' := i.modStrand s (fun st => st.flyAt (s.cycle + latWqc) .wqRes (res64 (if hit then wqWord 0 qid else wqWord 6 0)))
    s'.modTile i.l (fun t => { t with wq := { t.wq with queries := t.wq.queries.map (fun (x : WqQuery) =>
      if x.accepted && x.qid == qid && x.cancelled.isNone then { x with cancelled := some s.time } else x) } })

/-- Delivers the result of the wq trigger that waits for the device (R356: there is at most one). -/
def Strand.landWq (st : Strand) (now : Nat) (w : Word) : Strand :=
  match st.flights.find? (fun f => f.port == .wqRes && f.due.isNone) with
  | some f => st.complete f.id now (res64 w)
  | none => st

/-- Drops the result of the wq trigger that failed (R359). -/
def Strand.failWq (st : Strand) (f : Fail) (pc : Nat) : Strand :=
  match st.flights.find? (fun f => f.port == .wqRes && f.due.isNone) with
  | some x => (st.dropFlight x.id).failed f pc f.fault.2
  | none => st

/-- n words at home of a virtual range, or the poison it meets (R331). -/
def State.homeWords (s : State) (c va n : Nat) : State × Except Fail (List Word) :=
  match (s.ctx c).physical va (8 * n) with
  | .error f => (s, .error f)
  | .ok pas => match s.homeRead pas with
    | (s, none) => (s, .error (.poison 0 va))
    | (s, some bs) => (s, .ok ((List.range n).map (fun i => word (leNat ((bs.drop (8 * i)).take 8)))))

/-! ### Commit (R358) -/

/-- The code and new length of a commit that has read its descriptor of eight words (R355, R358). DEDUCED (entry 16): FORMAT
answers any non-zero reserved field of the descriptor, its words 2 to 7 included. -/
def commitCode (d : List Word) (n cap : Nat) : Nat × Nat :=
  let len := field (d.headD 0) 47 0
  if field (d.headD 0) 63 48 ≠ 0 ∨ field (d.getD 1 0) 63 1 ≠ 0 ∨ !(d.drop 2).all (· == 0) then (2, 0)
  else if n ≤ len then (4, len)
  else if cap < n then (5, len)
  else (0, n)

/-- COMMIT_COMPLETE (R358): the oldest commit of tile `l`, once the feed strand's earlier accesses are performed, reads its
descriptor at home, checks it, writes back the appended lines and writes LEN. -/
def execCommitComplete (s : State) : State :=
  let l := s.args.l
  let t := s.tile l
  match t.wq.commits with
  | [] => s
  | x :: r =>
    if s.cycle < x.due || !t.allBefore .feed x.after then s
    else
      let c := s.ctxOf l
      let drop := fun (s : State) (f : Strand → Strand) => s.modTile l (fun t =>
        Tile.modStrand { t with wq := { t.wq with commits := r } } .feed (fun st => (f st).subSt))
      match t.regions[x.kv]? with
      | none => s
      | some rk =>
        let va := t.handleBase (sdIdx x.sd) + sdOff x.sd
        match s.homeWords c va 8 with
        | (s, .error f) => drop s (fun st => st.failWq f x.pc)
        | (s, .ok ws) =>
          let w0 := ws.headD 0
          let p := commitCode ws x.n rk.cap
          let s :=
            if p.1 ≠ 0 then s
            else
              let len := field w0 47 0
              let s := (List.range (x.n - len)).foldl (fun s i =>
                let s := s.releaseRange (dieOf l) c (rk.base + keyOff (len + i)) 128
                s.releaseRange (dieOf l) c (rk.base + valueOff (len + i)) 128) s
              match (s.ctx c).pas va 8 with
              | some pas => s.homeBytes [c] (pas.zip (leBytes 8 x.n))
              | none => s
          drop s (fun st => st.landWq s.cycle (wqWord p.1 p.2))

/-! ### Acceptance of a query (R359) -/

/-- The word of a command block through the cache of the posting tile's die. -/
def State.blockWord (s : State) (l va : Nat) : State × Except Fail Word :=
  match s.readGlobal l va 8 with
  | (s, .ok bs) => (s, .ok (word (leNat bs)))
  | (s, .error f) => (s, .error f)

/-- What the second part of an acceptance finds: the code, and the query with its parameters. -/
def queryCode (t : Tile) (x : WqQuery) (gen : Nat) (b d q : List Word) (g2 : Word) : Nat × Nat × WqQuery :=
  let w := fun (i : Nat) => b.getD i 0
  let kvh := field (w 2) 3 0
  let kv := t.regions[kvh]?
  let ds := t.regions[sdIdx (w 1)]?
  let kf := bit (d.getD 1 0) 0
  let fence := field (w 3) 47 0
  let lo := field (w 4) 47 0
  let len := field (d.headD 0) 47 0
  let rsv := field g2 31 0 ≠ 0 ∨ !sdOk (w 1) ∨ field (w 2) 63 4 ≠ 0 ∨ field (w 3) 63 48 ≠ 0 ∨ field (w 4) 63 48 ≠ 0 ∨
    !((b.drop 5).take 3).all (· == 0) ∨ field (d.headD 0) 63 48 ≠ 0 ∨ field (d.getD 1 0) 63 1 ≠ 0 ∨ !(d.drop 2).all (· == 0)
  let bad := !(kv.any (fun r => r.weevil && (r.mode == 0 || r.mode == 2))) ∨
    !(ds.any (fun r => (r.mode == 0 || r.mode == 2) && decide (sdOff (w 1) + 64 ≤ r.extent))) ∨
    x.room < 64 + (if kf then 256 else 128) ∨ fence < lo
  let els := (q.flatMap (fun v => (List.range 4).map (fun i => BitVec.ofNat 16 (field v (16 * i + 15) (16 * i))))).take (if kf then 128 else 64)
  let y := { x with kf := kf, kvh := kvh, fence := fence, lo := lo, q := els }
  if field g2 63 32 ≠ gen then (1, 0, y)
  else if rsv ∨ bad then (2, 0, y)
  else if len < fence then (3, len, y)
  else (0, 0, y)

/-- The words of the descriptor that an acceptance reads, once it has word 1 of the block: none where the block names none in reach. -/
def WqQuery.descriptor (x : WqQuery) (t : Tile) : Option Nat :=
  let sdl := x.got.getD 0 0
  (t.regions[sdIdx sdl]?).bind (fun r => if r.extent < sdOff sdl + 64 then none else some (r.base + sdOff sdl))

/-- The words of Q that an acceptance reads, once it has the descriptor. -/
def WqQuery.qWords (x : WqQuery) (d : List Word) : Nat :=
  let want := if bit (d.getD 1 0) 0 then 32 else 16
  if x.room < 64 + 8 * want then 0 else want

/-- R359: the read that an acceptance makes next, after GEN: words 1 to 7 of the block, the eight words of the descriptor at home (`true`),
the words of Q; none where GEN is read again. -/
def WqQuery.nextRead (x : WqQuery) (t : Tile) : Option (Bool × Nat) :=
  let n := x.got.length
  let dn := if (x.descriptor t).isSome then 8 else 0
  if n < 7 then some (false, x.block + 8 + 8 * n)
  else if n < 7 + dn then some (true, (x.descriptor t).getD 0 + 8 * (n - 7))
  else if n < 7 + dn + x.qWords ((x.got.drop 7).take dn) then some (false, x.block + 64 + 8 * (n - 7 - dn))
  else none

/-- What an acceptance finds when it has read GEN again. -/
def WqQuery.finding (x : WqQuery) (t : Tile) (gen : Nat) (g2 : Word) : Nat × Nat × WqQuery :=
  let dn := if (x.descriptor t).isSome then 8 else 0
  queryCode t x gen (0 :: x.got.take 7) ((x.got.drop 7).take dn) (x.got.drop (7 + dn)) g2

/-- Replaces the posted query of a tile. -/
def State.putPosted (s : State) (l : Nat) (y : WqQuery) : State :=
  s.modTile l (fun t => { t with wq := { t.wq with queries := t.wq.queries.map (fun z => if z.accepted then z else y) } })

/-- A posted query ends without acceptance: its 16 entries of q15 are free again. -/
def State.rejectPosted (s : State) (l : Nat) (f : Strand → Strand) : State :=
  s.modTile l (fun t =>
    Tile.modStrand { t with wq := { t.wq with queries := t.wq.queries.filter WqQuery.accepted, reserved := t.wq.reserved - 16 } } .feed f)

/-- QUERY_ACCEPT (R359): one step of the acceptance of the posted query of tile `l`: the feed strand's earlier accesses have been performed;
in the next cycle GEN is read; then each further word at its own moment; then GEN again, and the query is accepted or rejected. -/
def execQueryAccept (s : State) : State :=
  let l := s.args.l
  let t := s.tile l
  match t.wq.queries.find? (fun x => !x.accepted) with
  | none => s
  | some x =>
    if s.cycle < x.due then s
    else match x.waited, x.gen with
    | none, _ => if t.allBefore .feed x.after then s.putPosted l { x with waited := some s.cycle, due := s.cycle + 1 } else s
    | some _, none =>
      match s.blockWord l x.block with
      | (s, .error f) => s.rejectPosted l (fun st => st.failWq f x.pc)
      | (s, .ok w) => s.bump.putPosted l { x with gen := some (field w 63 32), due := s.nextDue }
    | some _, some gen =>
      match x.nextRead t with
      | some (home, va) =>
        let r := if home then s.homeWords (s.ctxOf l) va 1 else match s.blockWord l va with
          | (s, .ok w) => (s, .ok [w])
          | (s, .error f) => (s, .error f)
        match r with
        | (s, .error f) => s.rejectPosted l (fun st => st.failWq f x.pc)
        | (s, .ok ws) => s.bump.putPosted l { x with got := x.got ++ ws, due := s.nextDue }
      | none =>
        match s.blockWord l x.block with
        | (s, .error f) => s.rejectPosted l (fun st => st.failWq f x.pc)
        | (s, .ok g2) =>
          let p := x.finding t gen g2
          if p.1 ≠ 0 then s.rejectPosted l (fun st => st.landWq s.cycle (wqWord p.1 p.2.1))
          else
            let id := t.wq.nextQid
            (s.bump.putPosted l { p.2.2 with accepted := true, qid := id, due := s.nextDue }).modTile l (fun t =>
              Tile.modStrand { t with wq := { t.wq with nextQid := if id = 65535 then 1 else id + 1 } } .feed (fun st =>
                st.landWq s.cycle (wqWord 0 id)))

/-! ### Scans (R362) -/

/-- The elements of a line as exact numbers: BF16, or E4M3 (R353). -/
def lineNums (kf : Bool) (v : Vec) : List Num :=
  if kf then (lanes 8 v).map (decodeNum .e4m3) else (lanes 16 v).map (decodeNum .bf16)

/-- A number is finite. -/
def Num.finite : Num → Bool
  | .fin _ _ _ => true
  | _ => false

/-- The score of a token: the exact sum of the products, rounded once (R362). A sum of zeros is +0, of products that are all -0 too (R114 speaks of
two addends; DESIGN CHOICE, entry 29). -/
def score (q : List (BitVec 16)) (k : List Num) : Nat :=
  let terms := (q.zip k).map (fun p => (mulNum (decodeNum .bf16 p.1.toNat) p.2).1)
  (roundTo (terms.foldl (fun a b => (addNum .rne a b).1) (.fin false 0 0)) false .fp32 .rne 0).1

/-- D of a query. -/
def WqQuery.lanes (x : WqQuery) : Nat := if x.kf then 128 else 64

/-- One token of a bank folded into its triple (R360, R362, R364), with the atoms corrected in its lines; `none` for a poisoned line. -/
def BankScan.fold (b : BankScan) (x : WqQuery) (channel : Nat) (kv : Option (Vec × Vec)) (ncor : Nat) : BankScan :=
  let b := { b with ncor := b.ncor + ncor }
  match kv with
  | none => { b with npsn := b.npsn + 1, pmask := b.pmask ||| (1#32 <<< channel) }
  | some (k, v) =>
    let sc := score x.q (lineNums x.kf k)
    let vs := lineNums x.kf v
    if !(decodeNum .fp32 sc).finite || !vs.all Num.finite then { b with tri := .nan x.lanes, nf := true }
    else
      let one : Tri := ⟨BitVec.ofNat 32 sc, 0x3F800000#32, vs.map (fun n => BitVec.ofNat 32 (roundTo n false .fp32 .rne 0).1)⟩
      { b with tri := mergeTriple b.tri one, ntok := b.ntok + 1 }

/-- A scan that has folded nothing yet. -/
def BankScan.start (x : WqQuery) : BankScan := ⟨.empty x.lanes, 0, 0, 0, 0, 0, false⟩

/-- The number of 16,384-token rounds that a query covers. -/
def WqQuery.rounds (x : WqQuery) : Nat := (x.fence + 16383) / 16384

/-- R366: the rows of a query are no longer begun. -/
def State.scanOver (s : State) (x : WqQuery) : Bool := x.cancelled.any (fun t => s.elapsed t 500)

/-- A bank has scanned all of a query's tokens. -/
def WqQuery.bankDone (x : WqQuery) (ended : Bool) (stack b : Nat) : Bool :=
  let sc := mget x.banks (1024 * stack + b) (BankScan.start x)
  ended || decide (x.fence ≤ x.lo) || decide (x.fence ≤ 16384 * sc.next + bankToken stack b)

/-- A line as a Weevil unit reads it at home, none where it is poisoned, and the atoms of it that were corrected (R347, R364). -/
def State.scanLine (s : State) (c va : Nat) : State × Option Vec × Nat :=
  match (s.ctx c).translate va with
  | none => (s, none, 0)
  | some pa =>
    let pl := lineOf pa
    let n := if s.lineFenced pl then 0 else ((List.range 4).filter (fun i => mfind s.latent (4 * pl + i) == some .corrected)).length
    let s := s.readHome pl
    (s, if s.linePoison pl then none else some (s.homeLine pl), n)

/-- R346, R353, R368: a Weevil row read of a bank is in progress: a scan of it has read some of the four tokens of a row and not all. -/
def State.rowOpen (s : State) (stack bank : Nat) : Bool :=
  s.tiles.any (fun p => p.2.wq.queries.any (fun x => x.accepted && !x.bankDone (s.scanOver x) stack bank &&
    decide ((mget x.banks (1024 * stack + bank) (BankScan.start x)).next % 4 ≠ 0)))

/-- R346, R368: no row of a bank is begun: a refresh or back-off holds it, or waits for the row in progress. -/
def Stack.suspends (k : Stack) (bank now : Nat) : Bool :=
  decide (now < mget k.held bank 0) || k.owed.any (fun p => p.1 == bank) || k.backOffs.any (fun p => p.1 == bank)

/-- BANK_SCAN (R344, R346, R353, R362, R368): for query `id` of tile `l`, bank `row` of stack `n` scans its next token, unless it comes to the next
row, four tokens on, and a refresh or back-off holds the bank or waits for it. -/
def execBankScan (s : State) : State :=
  let a := s.args
  let t := s.tile a.l
  match t.wq.queries.find? (fun x => x.accepted && x.qid == a.id) with
  | none => s
  | some x =>
    if s.cycle < x.due || decide (15 < a.n) || decide (1023 < a.row) || x.bankDone (s.scanOver x) a.n a.row ||
        ((mget x.banks (1024 * a.n + a.row) (BankScan.start x)).next % 4 == 0 &&
          (s.stack (Fin.ofNat 16 a.n)).suspends a.row s.time) then s
    else
      let key := 1024 * a.n + a.row
      let b := mget x.banks key (BankScan.start x)
      let tok := 16384 * b.next + bankToken a.n a.row
      let r :=
        if tok < x.lo then (s, b)
        else
          let base := t.handleBase x.kvh
          let c := s.ctxOf a.l
          let k := s.scanLine c (base + keyOff tok)
          let v := k.1.scanLine c (base + valueOff tok)
          let kv := match k.2.1, v.2.1 with
            | some k, some v => some (k, v)
            | _, _ => none
          (v.1, b.fold x (a.row / 32) kv (k.2.2 + v.2.2))
      let s := r.1
      let y := { x with banks := mput x.banks key { r.2 with next := b.next + 1 } }
      s.modTile a.l (fun t => { t with wq := { t.wq with queries := t.wq.queries.map (fun (z : WqQuery) => if z.accepted && z.qid == a.id then y else z) } })

/-- The 1,024 bank scans of a stack. -/
def WqQuery.stackBanks (x : WqQuery) (stack : Nat) : List BankScan :=
  (List.range 1024).map (fun b => mget x.banks (1024 * stack + b) (BankScan.start x))

/-- The triple of a stack (R362): its bank triples in the pattern of TreeSum (R121). -/
def WqQuery.stackTri (x : WqQuery) (stack : Nat) : Tri :=
  (treeFold mergeTriple 10 ((x.stackBanks stack).map BankScan.tri)).headD (.empty x.lanes)

/-- The status word of a triple (R364). -/
def WqQuery.status (x : WqQuery) (stack : Nat) : Word :=
  let bs := x.stackBanks stack
  let npsn := (bs.map BankScan.npsn).sum
  let mask := bs.foldl (fun m b => m ||| b.pmask) 0
  word (b2n (stack == 15) * 2 ^ 63 + b2n x.cancelled.isSome * 2 ^ 62 + b2n (bs.any BankScan.nf) * 2 ^ 61 + b2n (decide (0 < npsn)) * 2 ^ 60 +
    stack * 2 ^ 56 + min 255 ((bs.map BankScan.ncor).sum) * 2 ^ 48 + min 255 npsn * 2 ^ 40 + mask.toNat)

/-- The eight parts of a q15 entry (R363). -/
def WqQuery.parts (x : WqQuery) (stack : Nat) : List Vec :=
  let t := x.stackTri stack
  let ntok := ((x.stackBanks stack).map BankScan.ntok).sum
  let p0 := BitVec.ofNat 1024 (ntok % 2 ^ 48 * 2 ^ 160 + x.qid * 2 ^ 128 + (x.status stack).toNat * 2 ^ 64 + t.s.toNat * 2 ^ 32 + t.m.toNat)
  let part := fun (p : Nat) => ofLanes 32 (((t.acc.drop (32 * p)).take 32).map BitVec.toNat)
  [p0, part 0, part 1, part 2, part 3, 0, 0, 0]

/-- TRIPLE_DELIVER (R363, R365): the next stack's triple of the oldest accepted query of tile `l` enters q15 once its banks have
scanned; the sixteenth retires the query. -/
def execTripleDeliver (s : State) : State :=
  let l := s.args.l
  match (s.tile l).wq.queries with
  | x :: r =>
    let ended := s.scanOver x
    if !x.accepted || decide (s.cycle < x.due) || !(List.range 1024).all (x.bankDone ended x.delivered) then s
    else s.modTile l (fun t =>
      { t with wq := { t.wq with
          q15 := t.wq.q15 ++ [⟨x.parts x.delivered, s.cycle⟩], reserved := t.wq.reserved - 1,
          queries := if x.delivered = 15 then r else { x with delivered := x.delivered + 1 } :: r } })
  | [] => s

end Sys2Proof.Machine
end

