-- ==== Sys2Proof/Machine/Fabric.lean ====
section
/-! DEFINITION. The fx socket of the drain strand: one-sided operations, fences and collectives (R370 to R390). -/

namespace Sys2Proof.Machine

/-- LAT_FXQ (R371). -/
def latFxq : Nat := 2

/-! ### The triggers (R371 to R376, R381, R382, R387, R390) -/

/-- The result port of an fx trigger. -/
def fxPort : FxOp → Option ResPort
  | .faa | .cas | .fence | .cstat | .stat => some .fxRes
  | _ => none

/-- The trigger goes through the queue of one-sided operations (R375). -/
def fxOneSided : FxOp → Bool
  | .st | .vst | .faa | .cas | .fence => true
  | _ => false

/-- KIND of a collective (R381). -/
def collKind (cfg : Word) : Nat := field cfg 23 22
/-- OP. -/
def collOp (cfg : Word) : Nat := field cfg 21 20
/-- NP. -/
def collNp (cfg : Word) : Nat := field cfg 47 44
/-- POS. -/
def collPos (cfg : Word) : Nat := field cfg 42 40
/-- COLLID. -/
def collId (cfg : Word) : Nat := field cfg 15 0
/-- RDY. -/
def collRdy (cfg : Word) : Bool := bit cfg 39
/-- RSEM. -/
def collRsem (cfg : Word) : Nat := field cfg 37 32
/-- The reserved bits of a configuration are zero. -/
def collCfgOk (cfg : Word) : Bool :=
  decide (field cfg 63 48 = 0) && !bit cfg 43 && !bit cfg 38 && !bit cfg 30 && decide (field cfg 19 16 = 0)
/-- Byte i of a ring word: the FPID of position i. -/
def ringByte (ring : Word) (i : Nat) : Nat := field ring (8 * i + 7) (8 * i)
/-- The packages that a posting lists. -/
def ringMembers (ring cfg : Word) : List Nat := (List.range (collNp cfg)).map (ringByte ring)
/-- The bytes of a ring word from NP on are zero. -/
def ringRsvOk (ring cfg : Word) : Bool := decide (ring.toNat < 2 ^ (8 * collNp cfg))
/-- Bytes of an element. -/
def collWidth (cn : Word) : Nat := ((collFmt cn).map Fmt.bits).getD 0 / 8
/-- N. -/
def collN (cn : Word) : Nat := field cn 31 0
/-- N·w, with the width of every format of R96, one that a collective does not accept among them (R382). -/
def collSpan (cn : Word) : Nat := (collN cn * ((fmtOf (field cn 36 32)).map Fmt.bits).getD 0 + 7) / 8

/-- The checks of a coll at issue, row by row (R382). -/
def collCheck (i : Iss) (s : State) : Check :=
  let t := i.tile s
  let st := i.strand s
  let cb := st.opw 0x685
  let cn := st.opw 0x686
  let ring := st.opw 0x687
  let cfg := st.opw 0x688
  let off := i.t.toNat
  let idx := field cb 3 0
  let bytes := collSpan cn
  let space := field cb 13 12
  let common := collCfgOk cfg && decide (2 ≤ collNp cfg) && decide (collNp cfg ≤ 8) && ringRsvOk ring cfg &&
    decide (collPos cfg < collNp cfg) && decide (ringByte ring (collPos cfg) = s.fpid) &&
    !t.fx.colls.any (fun x => collId x.ccfg == collId cfg)
  if collKind cfg = 3 then need common .operandRange i.slot
  else
    let form := decide (field cb 63 14 = 0) && decide (field cb 11 4 = 0) && decide (field cn 63 37 = 0) && collOp cfg != 3 &&
      (space == 0 || space == 2) && decide (off < 2 ^ 48)
    let fits := space != 0 || decide (t.windows.length ≤ idx) || decide (bytes ≤ (t.window idx).size)
    (need (common && form && fits) .operandRange i.slot).andThen <|
    (need (collFmt cn).isSome .operandFmt i.slot).andThen <|
      if space = 0 then need (decide (idx < t.windows.length)) .regionBounds i.slot
      else match t.regions[idx]? with
      | none => some (.regionBounds, i.slot)
      | some r =>
        (need (decide (off + bytes ≤ r.extent)) .regionBounds off).andThen (need (r.mode == 2 && !r.closed) .regionPerm off)

/-- The checks of an fx trigger at issue (R373, R382, R390). -/
def fxCheck (o : FxOp) (i : Iss) (s : State) : Check :=
  let tgt := (i.strand s).opw 0x680
  let v := i.t
  match o with
  | .coll => collCheck i s
  | .cstat | .stat => none
  | .share => need (decide (field v 63 32 = 0) && decide (field v 23 16 = 0) && decide (1 ≤ field v 15 8) && decide (1 ≤ field v 7 0))
      .operandRange i.slot
  | _ => need (decide (field tgt 63 24 = 0) && decide (field tgt 15 4 = 0) && decide (v.toNat % (if o = .vst then 64 else 8) = 0) &&
      decide (v.toNat < 2 ^ 48)) .operandRange i.slot

/-- An fx trigger can accept (R371, R375, R382, R389). -/
def fxAccept (o : FxOp) (i : Iss) (s : State) : Bool :=
  let t := i.tile s
  let st := i.strand s
  (match fxPort o with | some p => !st.portBusy p | none => true) && !s.speculates i.l &&
  (!fxOneSided o || decide (t.fx.ops.length < 32)) &&
  (match o with
   | .faa | .cas => decide (st.loads s.cycle < 255)
   | .st | .vst | .fence => decide (st.stcnt < 255)
   | .coll => decide (t.fx.colls.length < 4)
   | .cstat | .share | .stat => true)

/-- R333: the kernel of the tile's task has used fx since its boundary. -/
def State.useFx (s : State) (l : Nat) : State :=
  match s.taskOn l with
  | none => s
  | some t => s.modCtx (s.ctxOf l) (fun x => { x with kernels := x.kernels.map (fun k => if k.kid = t.kid then { k with fxUsed := true } else k) })

/-- The state word of a COLLID (R387). -/
def Fx.collWord (x : Fx) (id : Nat) : Word :=
  match x.colls.find? (fun c => collId c.ccfg == id) with
  | some c => word ((if c.ready then 2 else 1) * 2 ^ 62)
  | none => match x.collDone.find? (fun p => p.1 == id) with
    | some p => word (3 * 2 ^ 62 + p.2 * 2 ^ 56)
    | none => 0

/-- Starts a one-sided operation or fence (R372, R375, R376). -/
def fxOneSidedStart (o : FxOp) (i : Iss) (s : State) : State :=
  let st := i.strand s
  let tgt := st.opw 0x680
  let d := if o = .fence then st.opw 0x684 else st.opw 0x681
  let f : FxOpFlight :=
    { id := st.nextId, pc := st.pc, op := o, fpid := field tgt 23 16, exp := field tgt 3 0, off := i.t.toNat, d := d,
      e := st.opw 0x682, xd := st.opnd 0x683, performed := false, value := 0, due := s.nextDue }
  s.bump.modTile i.l (fun t =>
    Tile.modStrand { t with fx := { t.fx with ops := t.fx.ops ++ [f] } } i.k (fun st =>
      let st := if (fxPort o).isSome then st.fly none .fxRes (res64 0) true else { st with nextId := st.nextId + 1 }
      if fxAtomic o then st.addLd else st.addSt))

/-- Another posting of a package for a COLLID of a job, not retired. -/
def Posting.rivals (a b : Posting) : Bool := a.fpid == b.fpid && a.job == b.job && a.collid == b.collid && !a.retired

/-- Keeps a posting; where another of its package is unretired, both are duplicates (R384). -/
def State.addPosting (s : State) (p : Posting) : State :=
  let hit := s.postings.any (fun q => q.rivals p)
  { s with postings := s.postings.map (fun q => if q.rivals p then { q with dup := true } else q) ++ [{ p with dup := hit }] }

/-- The identity of the task of a tile. -/
def State.uidOf (s : State) (l : Nat) : Nat := ((s.tile l).owner.map (·.2)).getD 0

/-- Posts a collective (R382 to R384). -/
def collStart (i : Iss) (s : State) : State :=
  let st := i.strand s
  let cfg := st.opw 0x688
  let t := i.tile s
  let x : Collective :=
    { order := t.copyOrder, cb := st.opw 0x685, cn := st.opw 0x686, cring := st.opw 0x687, ccfg := cfg, off := i.t.toNat,
      after := st.nextId, ready := !collRdy cfg, due := s.nextDue }
  let p : Posting :=
    { fpid := s.fpid, job := (s.ctx (s.ctxOf i.l)).job, tile := i.l, uid := s.uidOf i.l, collid := collId cfg, cn := x.cn, cring := x.cring,
      ccfg := cfg, ready := false, retired := false, dup := false, data := [], poisoned := false }
  (s.bump.modTile i.l (fun t => { t with fx := { t.fx with colls := t.fx.colls ++ [x] } })).addPosting p

/-- Starts an fx trigger. -/
def fxStart (o : FxOp) (i : Iss) (s : State) : State :=
  let s := s.useFx i.l
  let fly := fun (s : State) (w : Word) => i.modStrand s (fun st => st.flyAt (s.cycle + latFxq) .fxRes (res64 w))
  match o with
  | .coll => collStart i s
  | .cstat => fly s ((i.tile s).fx.collWord (field i.t 15 0))
  | .stat =>
    let f := field i.t 7 0
    let w := (mget (i.tile s).fx.err f 0).setWidth 64
    fly (s.modTile i.l (fun t => { t with fx := { t.fx with err := mdel t.fx.err f } })) w
  | .share =>
    let w := field i.t 15 0
    s.modCtx (s.ctxOf i.l) (fun x => { x with
      fxShare := ((List.range 8).filter (fun k => bit i.t (24 + k))).foldl (fun m k => mput m k w) x.fxShare })
  | o => fxOneSidedStart o i s

/-! ### One-sided operations and fences (R372 to R379) -/

/-- Bytes that other packages have written since to the target of an operation, as the link brings them with `args.bytes`. -/
def State.fxHear (s : State) (c : Nat) (f : FxOpFlight) : State :=
  match s.args.bytes with
  | none => s
  | some bs => { s with peers := s.peers.map (fun p =>
      if p.fpid = f.fpid ∧ p.job = (s.ctx c).job then
        { p with mem := writeAt p.mem ((span (f.va p.exports) (fxSize f.op)).zip bs) } else p) }

/-- The operation of a code: st, vst, faa, cas. -/
def fxCode : Nat → FxOp
  | 0 => .st | 1 => .vst | 2 => .faa | _ => .cas

/-- R370, R377, R379: an operation of another package is performed at this package's home: export `id` of context `c`, the operation of code
`row` (a fence's flag is a st), offset `addr`, operand `v`, compare value `words`, payload `bytes`. Its result and its errors go to that
package. -/
def State.fxForeign (s : State) : State :=
  let a := s.args
  let f : FxOpFlight :=
    { id := 0, pc := 0, op := fxCode a.row, fpid := s.fpid, exp := a.id, off := a.addr, d := a.v, e := a.words.headD 0,
      xd := bytesVec (a.bytes.getD []), performed := false, value := 0, due := 0 }
  if (s.ctx a.c).en && a.addr % (if f.op = .vst then 64 else 8) == 0 then (s.fxOwn a.c f).1 else s

/-- FX_PERFORM (R372, R374, R377, R378): the one-sided operation `id` of tile `l` is performed at its home, or the value of a
performed atomic lands; with `flag` an operation of another package is performed at this one. -/
def execFxPerform (s : State) : State :=
  if s.args.flag then s.fxForeign
  else
  let l := s.args.l
  match (s.tile l).fx.ops.find? (fun f => f.id == s.args.id) with
  | none => s
  | some f =>
    if f.op == .fence || s.cycle < f.due then s
    else if f.performed then s.fxLand l f
    else if !s.fxMay l f then s
    else ((s.fxHear (s.ctxOf l) f).fxPerformOp l f s.nextDue).bump

/-- FENCE_COMPLETE (R376): the flag of fence `id` of tile `l` is written at home and the result lands with the error bits, which
it clears. -/
def execFenceComplete (s : State) : State :=
  let l := s.args.l
  match (s.tile l).fx.ops.find? (fun f => f.id == s.args.id) with
  | none => s
  | some f => if f.op != .fence || s.cycle < f.due || !s.fxMay l f then s else s.fencePerform l f

/-! ### Collectives (R383 to R387) -/

/-- COLLECTIVE_READY (R383): at the end of a cycle each semaphore gives 1 to the oldest waiting collective of tile `l` on it. -/
def execCollectiveReady (s : State) : State :=
  s.modTile s.args.l (fun t =>
    t.fx.colls.foldl (fun t x =>
      let n := collRsem x.ccfg
      let first := t.fx.colls.find? (fun y => !y.ready && collRsem y.ccfg == n)
      -- This semaphore gave to an earlier collective in this pass.
      let seen := t.fx.colls.any (fun y => y.ready && collRdy y.ccfg && y.due == s.cycle && collRsem y.ccfg == n)
      if !x.ready && first == some x && !seen && decide (1 ≤ t.sem n) then
        { t.setSem n (t.sem n - 1) with
          fx := { t.fx with colls := t.fx.colls.map (fun y => if y = x then { x with ready := true, order := t.copyOrder, due := s.cycle } else y) } }
      else t) t)

/-- The location of a bucket (R382). -/
def Collective.loc (x : Collective) (t : Tile) (l : Nat) : Loc :=
  if field x.cb 13 12 = 0 then .window l (field x.cb 3 0) x.off else .global (t.handleBase (field x.cb 3 0) + x.off)

/-- R383: the bucket's bytes are clear of the copies launched before the collective became ready, of an rsave and of matrix
reads. -/
def Collective.clear (x : Collective) (t : Tile) (now : Nat) : Bool :=
  match x.foot t with
  | none => true
  | some (b, n) =>
    t.copies.all (fun c => decide (x.order ≤ c.order) || ([c.sfoot, c.dfoot].all (fun f => match f with | some g => !overlap g (b, n) | none => true))) &&
    !((span b n).any t.rsaveHolds) && !t.mxReads now ((span b n).map some)

/-- The element k of a list of bytes. -/
def elemAt (bs : List Byte) (w k : Nat) : Nat := leNat ((bs.drop (k * w)).take w)

/-- Combine (R385). -/
def collCombine (f : Fmt) (op a b : Nat) : Nat :=
  match op with
  | 0 => if f.fp.isSome then (fAdd f .rne 0 a b).1 else (a + b) % 2 ^ f.bits
  | 1 => laneMax f a b
  | _ => laneMin f a b

/-- CollReduce for one element of chunk c, given the members' elements in ring order (R385). -/
def collReduce (f : Fmt) (op c : Nat) (xs : List Nat) : Nat :=
  let np := xs.length
  (List.range (np - 1)).foldl (fun a k => collCombine f op a (xs.getD ((c + k + 2) % np) 0)) (xs.getD ((c + 1) % np) 0)

/-- The chunk of an element (R385). -/
def chunkOf (n np k : Nat) : Nat := ((List.range np).find? (fun c => decide (c * n / np ≤ k) && decide (k < (c + 1) * n / np))).getD 0

/-- R386: the elements that a collective writes under OK, by index, from the members' inputs in ring order. -/
def collOut (cn cfg : Word) (inputs : List (List Byte)) : List (Nat × Nat) :=
  let f := (collFmt cn).getD .i32
  let w := f.bits / 8
  let np := collNp cfg
  (List.range (collN cn)).filterMap (fun k =>
    let c := chunkOf (collN cn) np k
    let xs := inputs.map (fun bs => elemAt bs w k)
    match collKind cfg with
    | 0 => some (k, collReduce f (collOp cfg) c xs)
    | 1 => if c = collPos cfg then some (k, collReduce f (collOp cfg) c xs) else none
    | 2 => some (k, xs.getD c 0)
    | _ => none)

/-- Two postings agree in NP, cring and KIND, and outside a barrier in OP, ET and N (R382, R384). -/
def Posting.agrees (a b : Posting) : Bool :=
  collNp a.ccfg == collNp b.ccfg && a.cring == b.cring && collKind a.ccfg == collKind b.ccfg &&
  (collKind a.ccfg == 3 || (collOp a.ccfg == collOp b.ccfg && a.cn == b.cn))

/-- The postings of a COLLID of a job. -/
def State.posted (s : State) (job id : Nat) : List Posting := s.postings.filter (fun p => p.job == job && p.collid == id)

/-- The postings of one package for a COLLID in the order made, by round: each of a package that posts it once, with those that are duplicates of one
another together. A package that retires and posts the COLLID again opens its next round, which the others' next posts match (R384; DEDUCED,
entry 30). -/
def rounds : List Posting → List (List Posting)
  | [] => []
  | p :: r =>
    match rounds r with
    | (q :: g) :: rest => if p.dup && q.dup then (p :: q :: g) :: rest else [p] :: (q :: g) :: rest
    | rest => [p] :: rest

/-- The postings of a package in a group, by round. -/
def roundsOf (g : List Posting) (f : Nat) : List (List Posting) := rounds (g.filter (fun p => p.fpid == f))

/-- The posting of a package that meets a posting of this one: that of the same round. -/
def State.postOf (s : State) (mine : Posting) (f : Nat) : Option Posting :=
  let g := s.posted mine.job mine.collid
  if f = s.fpid then some mine
  else (((roundsOf g f)[((roundsOf g s.fpid).findIdx? (fun r => r.contains mine)).getD 0]?)).bind List.head?

/-- R384: a round of postings is kept until every package named in any member's ring word has posted. -/
def State.pruneRound (s : State) (job id : Nat) : State :=
  let g := s.posted job id
  let first := ((g.map Posting.fpid).dedup).flatMap (fun f => (roundsOf g f).headD [])
  let named := first.flatMap (fun p => ringMembers p.cring p.ccfg)
  if named.all (fun f => first.any (fun p => p.fpid == f)) && (first.filter (fun p => p.fpid == s.fpid)).all Posting.retired then
    { s with postings := s.postings.filter (fun p => !first.contains p) }
  else s

/-- The same for every round of a COLLID of a job. -/
def State.prunePostings (s : State) (job id : Nat) : State :=
  (List.range (roundsOf (s.posted job id) s.fpid).length).foldl (fun s _ => s.pruneRound job id) s

/-- R384: the code that a ready collective completes with; none while it waits. `mine` is its own posting. LINK stands for a route lost from this
package, or between two other members as they report it. -/
def State.collCode (s : State) (mine : Posting) (ownPoison : Bool) : Option Nat :=
  let ms := ringMembers mine.cring mine.ccfg
  let gone := fun (f : Nat) => f != s.fpid && (s.peer? f mine.job).isNone
  let ps := ms.filterMap (s.postOf mine)
  if !ms.all (fun f => gone f || (s.postOf mine f).isSome) then none
  else if mine.dup || ps.any Posting.dup then some 5
  else if ms.any gone then some 2
  else if !ps.all mine.agrees then some 1
  else if ms.any (fun f => f != s.fpid && (s.peer? f mine.job).any (fun p => !p.routed || ms.any p.lost.contains)) then some 3
  else if !ps.all (fun p => p.fpid == s.fpid || p.ready) then none
  else if ownPoison || ps.any Posting.poisoned then some 4
  else some 0

/-- The bytes of a posting's bucket (R381). -/
def Posting.size (p : Posting) : Nat := if collKind p.ccfg = 3 then 0 else collN p.cn * collWidth p.cn

/-- A posting of another package reaches this one over the link: FPID `n`, job `c`, tile `l` and task `uid` there, COLLID `id`, with cn,
cring and ccfg as `words` and, once it is ready, its bucket as `bytes`; `flag` marks a poisoned bucket. A single word says that the
collective of that tile has retired there. -/
def State.hearPosting (s : State) : State :=
  let a := s.args
  let same := fun (q : Posting) => q.fpid == a.n && q.job == a.c && q.collid == a.id && q.tile == a.l && q.uid == a.uid && !q.retired
  if a.n = s.fpid then s
  else if a.words.length = 1 then { s with postings := s.postings.map (fun q => if same q then { q with retired := true } else q) }
  else
    let p : Posting :=
      { fpid := a.n, job := a.c, tile := a.l, uid := a.uid, collid := a.id, cn := a.words.getD 0 0, cring := a.words.getD 1 0,
        ccfg := a.words.getD 2 0, ready := false, retired := false, dup := false, data := a.bytes.getD [], poisoned := a.flag }
    let p := { p with ready := a.bytes.isSome && p.data.length == p.size }
    if s.postings.any same then { s with postings := s.postings.map (fun q => if same q then { p with dup := q.dup } else q) } else s.addPosting p

/-- The inputs of a collective in ring order. -/
def State.collInputs (s : State) (mine : Posting) (own : List Byte) : List (List Byte) :=
  (ringMembers mine.cring mine.ccfg).map (fun f => if f = s.fpid then own else ((s.postOf mine f).map Posting.data).getD [])

/-- Every member's input is known, so that every element has a value under OK (R386). -/
def State.inputsKnown (mine : Posting) (inputs : List (List Byte)) : Bool := inputs.all (fun bs => bs.length == mine.size)

/-- Writes the elements of a bucket; under LINK and POISON each element is written or keeps its input (R386). -/
def State.collWrite (s : State) (l w code : Nat) (loc : Loc) (out : List (Nat × Nat)) : State :=
  let at1 := fun (k : Nat) => match loc with
    | .window tl wi off => Loc.window tl wi (off + k * w)
    | .global va => Loc.global (va + k * w)
  if code = 1 || code = 2 || code = 5 then s
  else (out.foldl (fun s p =>
    if code = 0 || Config.choice (s.free + p.1) then (s.writeLoc l (at1 p.1) (leBytes w p.2)).1 else s) s).bump

/-- The bytes of its own bucket that are a collective's input, as an offset and a number (R386): the whole bucket, chunk POS, or none. -/
def Collective.input (x : Collective) : Nat × Nat :=
  let w := collWidth x.cn
  let at1 := fun (c : Nat) => c * collN x.cn / collNp x.ccfg * w
  match collKind x.ccfg with
  | 2 => (at1 (collPos x.ccfg), at1 (collPos x.ccfg + 1) - at1 (collPos x.ccfg))
  | 3 => (0, 0)
  | _ => (0, x.bytes)

/-- A collective reads its own input: the bucket with zeros where it is no input, and whether it met poison (R386). -/
def State.readInput (s : State) (l : Nat) (x : Collective) : State × (List Byte × Bool) :=
  let i := x.input
  let size := if collKind x.ccfg = 3 then 0 else x.bytes
  let loc := match x.loc (s.tile l) l with
    | .window tl wi off => Loc.window tl wi (off + i.1)
    | .global va => Loc.global (va + i.1)
  if i.2 = 0 then (s, (List.replicate size 0, false))
  else match s.readLoc l loc i.2 with
    | (s, .ok bs) => (s, (List.replicate i.1 0 ++ bs ++ List.replicate (size - i.1 - i.2) 0, false))
    | (s, .error _) => (s, ([], true))

/-- COLLECTIVE_COMPLETE (R384 to R386, R389): with `words` a posting of another package is heard; otherwise collective `id` of tile `l`
completes once it is ready, its release holds and every listed package has posted: it writes its bucket, posts CSEM and retires; its
kernel has used fx since its boundary. -/
def execCollectiveComplete (s : State) : State :=
  if !s.args.words.isEmpty then s.hearPosting
  else
    let l := s.args.l
    let t := s.tile l
    match t.fx.colls.find? (fun x => collId x.ccfg == s.args.id) with
    | none => s
    | some x =>
      let job := (s.ctx (s.ctxOf l)).job
      let mine := (s.posted job s.args.id).find? (fun p => p.fpid == s.fpid && p.uid == s.uidOf l && !p.retired)
      if !x.ready || decide (s.cycle < x.due) || !t.allBefore .drain x.after || !x.clear t s.cycle then s
      else match mine with
      | none => s
      | some mine =>
        let loc := x.loc t l
        let r := s.readInput l x
        match s.collCode mine r.2.2 with
        | none => s
        | some code =>
          let inputs := s.collInputs mine r.2.1
          let out := if collKind x.ccfg = 3 || !State.inputsKnown mine inputs then [] else collOut x.cn x.ccfg inputs
          let s := (r.1.useFx l).collWrite l (collWidth x.cn) code loc out
          let s := s.modTile l (fun t =>
            let t := if bit x.ccfg 31 then t.agentPost (field x.ccfg 29 24) else t
            { t with fx := { t.fx with
                colls := t.fx.colls.filter (fun y => y != x),
                collDone := ((collId x.ccfg, code) :: t.fx.collDone).take 16 } })
          ({ s with postings := s.postings.map (fun p => if p = mine then { p with retired := true } else p) }).prunePostings job (collId x.ccfg)

/-! ### Packages and routes (R370, R380) -/

/-- A route to a package remains (R380). -/
def Peer.hasRoute (p : Peer) (down : List Nat) : Bool := p.links.any (fun k => !down.contains k)

/-- R380: the routes as the links stand. -/
def State.reroute (s : State) : State := { s with peers := s.peers.map (fun p => { p with routed := p.hasRoute s.linkDown }) }

/-- R370, R399: the driver joins a context of package `n` to job `c`, or, without `words`, takes it out: BASE, EXTENT and MODE of its 16
exports and then the pages of its registered images as `words`, the Fjolos links that lead to it as a mask `id`, and as `bytes` the packages to
which it has no route left. -/
def State.hearPeer (s : State) : State :=
  let a := s.args
  let others := s.peers.filter (fun p => !(p.fpid == a.n && p.job == a.c))
  if a.n = s.fpid then s
  else if a.words.isEmpty then { s with peers := others }
  else
    let w := fun (i : Nat) => (a.words.getD i 0).toNat
    let old := s.peer? a.n a.c
    let p : Peer :=
      { fpid := a.n, job := a.c, routed := true, exports := Vector.ofFn (fun (i : Fin 16) => ⟨w (3 * i.val), w (3 * i.val + 1), w (3 * i.val + 2) % 4⟩),
        mem := (old.map Peer.mem).getD [], poison := (old.map Peer.poison).getD [],
        images := (List.range ((a.words.length - 48) / 2)).map (fun i => (w (48 + 2 * i), w (49 + 2 * i))),
        links := (List.range 8).filter (fun k => bit (word a.id) k), lost := (a.bytes.getD []).map BitVec.toNat }
    { s with peers := others ++ [p] }.reroute

end Sys2Proof.Machine
end

