-- ==== Sys2Proof/Machine/Integer.lean ====
section
/-! DEFINITION. The integer units ix0 and ix1 (R154 to R158): the value of each trigger and its start. -/

namespace Sys2Proof.Machine

/-- LAT_IX (R154). -/
def latIx : Nat := 1
/-- LAT_IMUL (R154). -/
def latImul : Nat := 3
/-- LAT_IDIV (R154). -/
def latIdiv : Nat := 20

/-- What an integer trigger delivers: res, and hi where it writes it. -/
structure IxOut where
  res : Word
  hi : Option Word := none
  deriving DecidableEq, Repr

/-- add: a + t modulo 2^64 (R155). -/
def ixAdd (a t : Word) : Word := a + t
/-- sub: a - t modulo 2^64 (R155). -/
def ixSub (a t : Word) : Word := a - t
/-- and (R155). -/
def ixAnd (a t : Word) : Word := a &&& t
/-- or (R155). -/
def ixOr (a t : Word) : Word := a ||| t
/-- xor (R155). -/
def ixXor (a t : Word) : Word := a ^^^ t
/-- andn: a and (not t) (R155). -/
def ixAndn (a t : Word) : Word := a &&& ~~~t
/-- shl: a shifted left by t[5:0] (R155). -/
def ixShl (a t : Word) : Word := a <<< (t.toNat % 64)
/-- shr: a shifted right with zeros by t[5:0] (R155). -/
def ixShr (a t : Word) : Word := a >>> (t.toNat % 64)
/-- sra: a shifted right with copies of bit 63 by t[5:0] (R155). -/
def ixSra (a t : Word) : Word := a.sshiftRight (t.toNat % 64)
/-- min, signed (R155). -/
def ixMin (a t : Word) : Word := if a.toInt < t.toInt then a else t
/-- max, signed (R155). -/
def ixMax (a t : Word) : Word := if a.toInt < t.toInt then t else a
/-- minu (R155). -/
def ixMinu (a t : Word) : Word := if a.toNat < t.toNat then a else t
/-- maxu (R155). -/
def ixMaxu (a t : Word) : Word := if a.toNat < t.toNat then t else a
/-- mov: t (R155). -/
def ixMov (t : Word) : Word := t
/-- sxt: a[k:0] sign-extended from bit k = t[5:0] (R155). -/
def ixSxt (a t : Word) : Word := BitVec.ofInt 64 (signed (t.toNat % 64 + 1) a.toNat)
/-- zxt: a[k:0] zero-extended (R155). -/
def ixZxt (a t : Word) : Word := word (a.toNat % 2 ^ (t.toNat % 64 + 1))
/-- clz: leading zeros of t; 64 when t = 0 (R155). -/
def ixClz (t : Word) : Word := word (if t = 0 then 64 else 63 - Nat.log2 t.toNat)
/-- popc: one bits of t (R155). -/
def ixPopc (t : Word) : Word := word ((List.range 64).countP (fun i => t.getLsbD i))
/-- sel: a when t ≠ 0, otherwise c (R155). -/
def ixSel (a c t : Word) : Word := if t = 0 then c else a
/-- ceq (R155). -/
def ixCeq (a t : Word) : Bool := a == t
/-- cne (R155). -/
def ixCne (a t : Word) : Bool := a != t
/-- clt, signed (R155). -/
def ixClt (a t : Word) : Bool := decide (a.toInt < t.toInt)
/-- cle, signed (R155). -/
def ixCle (a t : Word) : Bool := decide (a.toInt ≤ t.toInt)
/-- cltu (R155). -/
def ixCltu (a t : Word) : Bool := decide (a.toNat < t.toNat)
/-- cleu (R155). -/
def ixCleu (a t : Word) : Bool := decide (a.toNat ≤ t.toNat)
/-- ctst: whether a and t is non-zero (R155). -/
def ixCtst (a t : Word) : Bool := (a &&& t) != 0
/-- mul: the signed 128-bit product, low and high (R155). -/
def ixMul (a t : Word) : Word × Word :=
  let p := a.toInt * t.toInt
  (BitVec.ofInt 64 p, BitVec.ofInt 64 (asr p 64))
/-- mulu: the unsigned 128-bit product, low and high (R155). -/
def ixMulu (a t : Word) : Word × Word :=
  let p := a.toNat * t.toNat
  (word p, word (p / 2 ^ 64))
/-- mac: a + c × t modulo 2^64 (R155). -/
def ixMac (a c t : Word) : Word := a + c * t
/-- div: the signed quotient truncated towards zero and the remainder; by zero: 0 and a (R155, R156). -/
def ixDiv (a t : Word) : Word × Word :=
  if t = 0 then (0, a)
  else (BitVec.ofInt 64 (Int.tdiv a.toInt t.toInt), BitVec.ofInt 64 (Int.tmod a.toInt t.toInt))
/-- divu: the unsigned quotient and remainder; by zero: 0 and a (R155, R156). -/
def ixDivu (a t : Word) : Word × Word :=
  if t = 0 then (0, a) else (word (a.toNat / t.toNat), word (a.toNat % t.toNat))

/-- The compares, which also write a guard (R157); none for the other triggers. -/
def ixCompare (o : IxOp) (a t : Word) : Option Bool :=
  match o with
  | .ceq => some (ixCeq a t)
  | .cne => some (ixCne a t)
  | .clt => some (ixClt a t)
  | .cle => some (ixCle a t)
  | .cltu => some (ixCltu a t)
  | .cleu => some (ixCleu a t)
  | .ctst => some (ixCtst a t)
  | _ => none

/-- What a trigger delivers from a, c and t (R155). -/
def ixOut (o : IxOp) (a c t : Word) : IxOut :=
  match o with
  | .add => ⟨ixAdd a t, none⟩
  | .sub => ⟨ixSub a t, none⟩
  | .and => ⟨ixAnd a t, none⟩
  | .or => ⟨ixOr a t, none⟩
  | .xor => ⟨ixXor a t, none⟩
  | .andn => ⟨ixAndn a t, none⟩
  | .shl => ⟨ixShl a t, none⟩
  | .shr => ⟨ixShr a t, none⟩
  | .sra => ⟨ixSra a t, none⟩
  | .min => ⟨ixMin a t, none⟩
  | .max => ⟨ixMax a t, none⟩
  | .minu => ⟨ixMinu a t, none⟩
  | .maxu => ⟨ixMaxu a t, none⟩
  | .mov => ⟨ixMov t, none⟩
  | .sxt => ⟨ixSxt a t, none⟩
  | .zxt => ⟨ixZxt a t, none⟩
  | .clz => ⟨ixClz t, none⟩
  | .popc => ⟨ixPopc t, none⟩
  | .sel => ⟨ixSel a c t, none⟩
  | .ceq => ⟨word (b2n (ixCeq a t)), none⟩
  | .cne => ⟨word (b2n (ixCne a t)), none⟩
  | .clt => ⟨word (b2n (ixClt a t)), none⟩
  | .cle => ⟨word (b2n (ixCle a t)), none⟩
  | .cltu => ⟨word (b2n (ixCltu a t)), none⟩
  | .cleu => ⟨word (b2n (ixCleu a t)), none⟩
  | .ctst => ⟨word (b2n (ixCtst a t)), none⟩
  | .mul => ⟨(ixMul a t).1, some (ixMul a t).2⟩
  | .mulu => ⟨(ixMulu a t).1, some (ixMulu a t).2⟩
  | .mac => ⟨ixMac a c t, none⟩
  | .div => ⟨(ixDiv a t).1, some (ixDiv a t).2⟩
  | .divu => ⟨(ixDivu a t).1, some (ixDivu a t).2⟩

/-- The latency of a trigger (R154). -/
def ixLat : IxOp → Nat
  | .mul | .mulu | .mac => latImul
  | .div | .divu => latIdiv
  | _ => latIx

/-- The destination number of port 0 of a unit (R154). -/
def ixBase : IxUnit → Nat
  | .ix0 => 0x100
  | .ix1 => 0x180

/-- The result port of a unit (R154). -/
def ixPort : IxUnit → ResPort
  | .ix0 => .ix0Res
  | .ix1 => .ix1Res

/-- R157: the guard that g selects; 0 selects none. -/
def ixGuard (g : Word) (r : Bool) : Option (Fin 3 × Bool) :=
  if g.toNat = 1 then some (0, r) else if g.toNat = 2 then some (1, r) else if g.toNat = 3 then some (2, r) else none

/-- R157: a compare with g above 3 raises OPERAND_RANGE. -/
def ixCheck (u : IxUnit) (o : IxOp) (i : Iss) (s : State) : Check :=
  match ixCompare o 0 0 with
  | some _ => need (decide (((i.strand s).opw (ixBase u + 2)).toNat ≤ 3)) .operandRange i.slot
  | none => none

/-- The result of a trigger of a unit in a strand, with hi and guard. -/
def ixResult (u : IxUnit) (o : IxOp) (st : Strand) (t : Word) : Result :=
  let a := st.opw (ixBase u)
  let c := st.opw (ixBase u + 1)
  let out := ixOut o a c t
  ⟨out.res.setWidth 1024, out.hi, (ixCompare o a t).bind (ixGuard (st.opw (ixBase u + 2)))⟩

/-- Starts an integer operation (R154, R155). -/
def ixStart (u : IxUnit) (o : IxOp) (i : Iss) (s : State) : State :=
  i.modStrand s (fun st => st.flyAt (s.cycle + ixLat o) (ixPort u) (ixResult u o st i.t))

end Sys2Proof.Machine
end

