-- ==== Sys2Proof/Machine/Bundle.lean ====
section
/-! DEFINITION. Issuing a bundle (R9 to R17, R35 to R54, R129 to R134): its checks, its readiness, its acceptance and its effects. -/

namespace Sys2Proof.Machine

/-! ### The checks of the encoding (R51 to R54) -/

/-- R45, R9, R10, R11: a strand may name a source. -/
def srcAllowed (k : StrandId) : Src → Bool
  | .v _ => k == .compute
  | .q n =>
    if h : n.val < 8 then (queueEnds ⟨n.val, h⟩).2 == k
    else if n.val < 10 then k == .feed
    else if n.val < 12 then k == .drain
    else if n.val = 12 || n.val = 15 then k == .feed
    else n.val == 13
  | .port p => match p.owner with | none => true | some o => o == k
  | .go c => cpOwner c == k
  | _ => true

/-- R47: a strand may write a destination number. -/
def dstAllowed (k : StrandId) (d : Nat) : Bool := match dOwner d with | none => true | some o => o == k

/-- The heads that a POP field names. -/
def headerPops (h : Header) : List (Fin 16) := (List.finRange 16).filter (fun n => bit h.pop n.val)

/-- R51: the ILLEGAL_PORT check of a bundle. -/
def illegalPort (k : StrandId) (b : Bundle) : Check :=
  match b.moves.find? (fun m => !(m.src.any (srcAllowed k) && m.dst.isSome && dstAllowed k m.d)) with
  | some m => some (.illegalPort, m.slot)
  | none => need ((headerPops b.hdr).all (fun n => srcAllowed k (.q n))) .illegalPort 8

/-- R52: two moves with one D whose guards are not exclusive. -/
def bundleDest (b : Bundle) : Check :=
  (b.moves.find? (fun m => b.moves.any (fun n => n.slot != m.slot && n.d == m.d && !m.g.exclusive n.g))).map
    (fun m => (.bundleDest, m.slot))

/-- The socket of a trigger (R53). -/
def trigSocket : Trig → Nat
  | .sys _ => 0 | .br _ => 1 | .sem _ => 2 | .mb _ => 3 | .ix .ix0 _ => 4 | .ix .ix1 _ => 5 | .ls _ => 6 | .st k _ => 7 + k.val
  | .vx _ => 11 | .sf _ => 12 | .cv _ => 13 | .mx _ => 14 | .acc _ => 15 | .cp .cpi _ => 16 | .cp .cpo _ => 17 | .nx _ => 18
  | .tk _ => 19 | .wq _ => 20 | .fx _ => 21

/-- The socket whose trigger port a move writes. -/
def moveSocket (m : Move) : Option Nat := match m.dst with | some (.trig t) => some (trigSocket t) | _ => none

/-- R53: two moves write trigger ports of one socket. -/
def bundleTrig (b : Bundle) : Check :=
  (b.moves.find? (fun m => (moveSocket m).isSome && b.moves.any (fun n => n.slot != m.slot && moveSocket n == moveSocket m))).map
    (fun m => (.bundleTrig, m.slot))

/-- The x register that a move reads. -/
def moveReadsX (m : Move) : Option Nat := match m.src with | some (.x n) => some n.val | _ => none
/-- The x register that a move writes. -/
def moveWritesX (m : Move) : Option Nat := match m.dst with | some (.x n) => some n.val | _ => none

/-- R54: the limits on the banks x0–x31 and x32–x63. -/
def bundlePort (b : Bundle) : Check :=
  let inBank := fun (k : Nat) (r : Option Nat) => r.any (fun n => n / 32 == k)
  let bad := fun (f : Move → Option Nat) (limit k : Nat) =>
    decide (limit < ((b.moves.filterMap f).filter (fun n => n / 32 == k)).dedup.length)
  (b.moves.find? (fun m => [0, 1].any (fun k =>
    (bad moveReadsX 2 k && inBank k (moveReadsX m)) || (bad moveWritesX 1 k && inBank k (moveWritesX m))))).map (fun m => (.bundlePort, m.slot))

/-- The generator of a head q8 to q11. -/
def streamOf (n : Fin 16) : Option (Fin 4) := if 8 ≤ n.val ∧ n.val < 12 then some (Fin.ofNat 4 (n.val - 8)) else none

/-- R179: the bundle names or pops the head of an idle stream. -/
def idleStream (t : Tile) (b : Bundle) : Check :=
  let idle := fun (n : Fin 16) => (streamOf n).any (fun k => !t.streams[k].opened)
  match b.moves.find? (fun m => match m.src with | some (.q n) => idle n | _ => false) with
  | some m => some (.operandRange, m.slot)
  | none => need (!(headerPops b.hdr).any idle) .operandRange 8

/-- R16 step 1: the checks made before any stall condition. -/
def staticCheck (k : StrandId) (t : Tile) (b : Bundle) : Check :=
  (illegalPort k b).andThen <| (bundleDest b).andThen <| (bundleTrig b).andThen <| (bundlePort b).andThen (idleStream t b)

/-! ### Sources (R45, R46, R50) -/

/-- The entry at a head that a bundle of this cycle sees, with its width (R11, R12). -/
def State.head (s : State) (l : Nat) (k : StrandId) (n : Fin 16) : Option (Nat × Vec) :=
  let t := s.tile l
  if h : n.val < 8 then t.queues[n.val].head s.cycle
  else match streamOf n with
  | some g => t.streams[g].head s.cycle
  | none =>
    if n.val = 12 then match t.nx.q12 with | (c, _, v) :: _ => if c < s.cycle then some (1024, v) else none | [] => none
    else if n.val = 13 then match (t.strand k).mail s.cycle with | w :: _ => some (64, w.setWidth 1024) | [] => none
    else match t.wq.q15 with | e :: _ => if e.written < s.cycle then some (1024, e.parts.getD t.wq.hp 0) else none | [] => none

/-- R42: the value of a guard at the start of the issue cycle. -/
def Strand.guard (st : Strand) : Guard → Bool
  | .always => true
  | .g1 => st.g[0] | .ng1 => !st.g[0]
  | .g2 => st.g[1] | .ng2 => !st.g[1]
  | .g3 => st.g[2] | .ng3 => !st.g[2]

/-- The value of a source, with its width (R43 to R46, R50). -/
def State.source (s : State) (l : Nat) (k : StrandId) (x : Src) : Nat × Vec :=
  let t := s.tile l
  let st := t.strand k
  let w64 := fun (v : Word) => (64, v.setWidth 1024)
  match x with
  | .x n => w64 st.x[n]
  | .v n => (1024, t.vu.v[n])
  | .q n => (s.head l k n).getD (64, 0)
  | .g n => (1, if st.g[n] then 1 else 0)
  | .port p => (p.width, (st.port p).value)
  | .h n => w64 (t.handleWord n.val)
  | .w n => w64 (t.windowWord n.val)
  | .go c => w64 (t.goWord c)
  | .imm a => w64 (a.signExtend 64)
  | .litA a => w64 (a.signExtend 64)
  | .litB a => w64 (a.signExtend 64)
  | .litAB a => w64 (a.setWidth 64)
  | .zero => (64, 0)

/-- R16 step 2, R167, R268: a source can be read. -/
def State.readable (s : State) (l : Nat) (k : StrandId) : Src → Bool
  | .x n => !((s.tile l).strand k).pending n
  | .q n => (s.head l k n).isSome
  | .port p => ((s.tile l).strand k).readable p
  | .go c => (s.tile l).goReady c
  | _ => true

/-- R16 step 2: every source of a bundle can be read, every head it pops holds an entry, and no register it writes is pending, whatever the
guard of the move that writes it (R167; DESIGN CHOICE, entry 29). -/
def State.bundleReady (s : State) (l : Nat) (k : StrandId) (b : Bundle) : Bool :=
  b.moves.all (fun m => m.src.all (s.readable l k) && (match m.dst with | some (.x n) => !((s.tile l).strand k).pending n | _ => true)) &&
  (headerPops b.hdr).all (fun n => (s.head l k n).isSome)

/-- R139: a head of q6 or q7 that the bundle names or pops is empty. -/
def State.waitsOnReturn (s : State) (l : Nat) (k : StrandId) (b : Bundle) : Bool :=
  [(6 : Fin 16), 7].any (fun n => (s.head l k n).isNone && ((headerPops b.hdr).contains n || b.moves.any (fun m => m.src == some (.q n))))

/-! ### Triggers -/

/-- A trigger that a bundle performs: the move's guard is true. -/
structure Firing where
  slot : Nat
  trig : Trig
  v : Vec

/-- The moves that a bundle performs, with their source values (R17). -/
def State.performed (s : State) (l : Nat) (k : StrandId) (b : Bundle) : List (Move × Nat × Vec) :=
  (b.moves.filter (fun m => ((s.tile l).strand k).guard m.g)).map (fun m => (m, (m.src.map (s.source l k)).getD (64, 0)))

/-- The triggers that a bundle performs, in slot order. -/
def firings (ps : List (Move × Nat × Vec)) : List Firing :=
  ps.filterMap (fun p => match p.1.dst with | some (.trig t) => some ⟨p.1.slot, t, p.2.2⟩ | _ => none)

/-- The move takes the go word of a channel into an operand port of that channel: it is written after the shadow (R268). -/
def moveLateGo (m : Move) : Bool := match m.src with | some (.go c) => decide (cpBase c ≤ m.d) && decide (m.d < cpBase c + 0x40) | _ => false

/-- The operand writes of a bundle (R48); `late` picks those that a launch does not see. -/
def Strand.writeOperands (st : Strand) (ps : List (Move × Nat × Vec)) (late : Bool) : Strand :=
  ps.foldl (fun st p => match p.1.dst with
    | some (.operand d) => if moveLateGo p.1 == late then st.setOpnd d p.2.2 else st
    | _ => st) st

/-- The channels that a bundle launches on, each with the lowest slot that names its go port (R268). -/
def bundleLaunches (b : Bundle) : List (Channel × Nat) :=
  [Channel.cpi, .cpo].filterMap (fun c => (b.moves.find? (fun m => m.src == some (.go c))).map (fun m => (c, m.slot)))

/-- The checks of a trigger at issue (R16 step 3). -/
def trigCheck (t : Trig) (i : Iss) (s : State) : Check :=
  match t with
  | .sys o => sysCheck o i s
  | .br o => brCheck o i s
  | .sem o => semCheck o i s
  | .mb o => mbCheck o i
  | .ix u o => ixCheck u o i s
  | .ls o => lsCheck o i s
  | .st k o => stCheck k o i s
  | .vx o => vxCheck o i s
  | .sf o => sfCheck o i s
  | .cv o => cvCheck o i s
  | .mx o => mxCheck o i s
  | .acc o => accCheck o i s
  | .cp _ _ => none
  | .nx o => nxCheck o i s
  | .tk o => tkCheck o i s
  | .wq o => wqCheck o i s
  | .fx o => fxCheck o i s

/-- The ports that a trigger delivers to. -/
def trigPorts (t : Trig) (st : Strand) : List ResPort :=
  match t with
  | .sys .csrr => [.sysRes]
  | .br .mdrd => [.brRes]
  | .sem .rd => [.semRes]
  | .mb .pop | .mb .cnt => [.mbRes]
  | .ix u _ => [ixPort u]
  | .ls o => if (lsMapped o st).isSome then [] else (lsPort o).toList
  | .vx o => (vxPort o).toList
  | .sf o => (sfPort o).toList
  | .cv o => cvPorts o
  | .mx o => if o == .mdset then [] else [.mxRes]
  | .acc o => (accPort o).toList
  | .cp c _ => [cpStat c]
  | .nx o => (nxPort o st).toList
  | .tk o => (tkPort o).toList
  | .wq o => (wqPort o).toList
  | .fx o => (fxPort o).toList
  | _ => []

/-- R16 step 4: a trigger can accept; none accepts while a port it delivers to holds an unread result (R22). R22 speaks of a new trigger of the
socket, R163, R187, R206, R219 and R249 of each port on its own: a trigger that delivers to no port, or to another port of its socket, passes
(sclr, rclr, racc, clr, absorb, rsave, rload and the like; DEDUCED, entry 30). -/
def trigAccept (t : Trig) (i : Iss) (s : State) : Bool :=
  (trigPorts t (i.strand s)).all (fun p => !((i.strand s).port p).full) &&
  match t with
  | .sys o => sysAccept o i s
  | .mb o => mbAccept o i s
  | .ls o => lsAccept o i s
  | .vx o => vxAccept o i s
  | .sf o => sfAccept o i s
  | .mx o => mxAccept o i s
  | .acc o => accAccept o i s
  | .cp c _ => cpAccept c i s
  | .nx o => nxAccept o i s
  | .tk o => tkAccept o i s
  | .wq o => wqAccept o i s
  | .fx o => fxAccept o i s
  | .br _ | .sem _ | .ix _ _ | .st _ _ | .cv _ => true

/-- The effect of a trigger; `after` is the place of the bundle in program order. -/
def trigStart (t : Trig) (after : Nat) (i : Iss) (s : State) : State :=
  match t with
  | .sys o => sysStart o i s
  | .br o => brStart o i s
  | .sem o => semStart o after i s
  | .mb o => mbStart o i s
  | .ix u o => ixStart u o i s
  | .ls o => lsStart o after i s
  | .st k o => stStart k o i s
  | .vx o => vxStart o i s
  | .sf o => sfStart o i s
  | .cv o => cvStart o i s
  | .mx o => mxStart o i s
  | .acc o => accStart o i s
  | .cp c o => cpStart c o i s
  | .nx o => nxStart o i s
  | .tk o => tkStart o i s
  | .wq o => wqStart o i s
  | .fx o => fxStart o i s

/-! ### The decision (R16) -/

/-- What a bundle that reaches issue does: it raises a precise fault, halts for a debugger, waits, or issues. -/
inductive Decision where
  | fault (c : FaultCode) (detail : Nat)
  | debugHalt
  | wait
  | issue
  deriving DecidableEq, Repr

/-- The br trigger that a bundle performs, with its operand. -/
def brFiring (fs : List Firing) : Option (BrOp × Word) :=
  fs.findSome? (fun f => match f.trig with | .br o => some (o, f.v.setWidth 64) | _ => none)

/-- The bundle performs sys.end. -/
def endsStrand (fs : List Firing) : Bool := fs.any (fun f => match f.trig with | .sys .ending => true | _ => false)

/-- The state in which a bundle's triggers are checked and started: its operand writes are in the ports (R17, R48). -/
def State.withOperands (s : State) (l : Nat) (k : StrandId) (ps : List (Move × Nat × Vec)) : State :=
  s.modTile l (fun t => t.modStrand k (fun st => st.writeOperands ps false))

/-- R16 step 3: the first fault of the triggers and launches in slot order, then PC_OVERRUN (R131, R142). -/
def State.issueCheck (s : State) (l : Nat) (k : StrandId) (b : Bundle) (fs : List Firing) : Check :=
  let slots := (List.range 8).foldl (fun (c : Check) n =>
    (c.andThen (match (bundleLaunches b).find? (fun p => p.2 == n) with | some p => launchCheck l p.1 n s | none => none)).andThen
      (match fs.find? (fun f => f.slot == n) with
       | some f => trigCheck f.trig ⟨l, k, f.slot, f.v⟩ s
       | none => none)) none
  let t := s.tile l
  slots.andThen (need (endsStrand fs || !(t.strand k).overruns t (t.strand k).pc (brFiring fs)) .pcOverrun 8)

/-- The semaphore demands of a bundle (R134). -/
def semDemands (b : Bundle) (st : Strand) (fs : List Firing) : List SemDemand :=
  (match b.hdr.semop with
   | 1 => [⟨b.hdr.sem.toNat, 0, true⟩]
   | 3 => [⟨b.hdr.sem.toNat, 1, false⟩]
   | _ => []) ++
  fs.filterMap (fun f => match f.trig with | .sem o => semDemand o (f.v.setWidth 64) (st.opw 0x040) | _ => none)

/-- R12, R17: the tails that a bundle names have room, whatever the guards. -/
def tailsReady (t : Tile) (now : Nat) (b : Bundle) : Bool :=
  b.moves.all (fun m => match m.dst with | some (.tail n) => t.queues[n].room (queueDepth n) now | _ => true)

/-- What a trigger adds to LDCNT, to STCNT (R79, R284, R375) and to the store buffer (R77, R284). -/
def trigCounts (t : Trig) (l : Nat) (st : Strand) : Nat × Nat × Nat :=
  match t with
  | .ls o =>
    let remote := b2n (selSpace (st.opw 0x200) != 0)
    (match lsKind o with
     | .load _ _ | .gather _ | .atomic _ => (1, 0, 0)
     | .store _ => (0, 1, 1)
     | .accumulate | .scatter _ | .scadd _ => (0, remote, 0)
     | .ring _ => (0, 0, 0))
  | .nx o =>
    (match o with
     | .rld | .hacq => (1, 0, 0)
     | .rst | .rvst => (0, 1, b2n (nxBuffered o l (st.opw 0x640)))
     | .hrel => (0, 1, 0)
     | o => (b2n (nxAtomic o).isSome, 0, 0))
  | .wq .commit => (0, 1, 0)
  | .fx o => if fxAtomic o then (1, 0, 0) else (0, b2n (fxOneSided o), 0)
  | _ => (0, 0, 0)

/-- R77, R79: the counters and the store buffer have room for all that a bundle adds to them. -/
def Strand.roomFor (st : Strand) (l now : Nat) (fs : List Firing) : Bool :=
  let n := fs.map (fun f => trigCounts f.trig l st)
  let fits := fun (add now limit : Nat) => decide (add = 0) || decide (now + add ≤ limit)
  fits (n.map (·.1)).sum (st.loads now) 255 && fits (n.map (·.2.1)).sum st.stcnt 255 && fits (n.map (·.2.2)).sum st.sb.length 32

/-- The bundle's conditions count as an acquire (R84, R88, R137, R172). -/
def acquires (b : Bundle) (fs : List Firing) : Bool :=
  b.hdr.semop == 1 || b.hdr.semop == 3 || (headerPops b.hdr).contains 13 || fs.any (fun f => match f.trig with
    | .sem .wait | .sem .take | .sem .takek | .mb .pop | .ls .racq | .ls .rget => true
    | _ => false)

/-- R337: a member with an asynchronous fault to take stops before its next bar or xsend. -/
def abortsAt (t : Tile) (fs : List Firing) : Bool :=
  t.abort.isSome && fs.any (fun f => match f.trig with | .nx .bar | .nx .xsend => true | _ => false)

/-- What must precede a trigger that is performed in its issue cycle, or at a fixed cycle after it, can be performed: of a local load or
gather (R76, R84), of a local atomic or scatter or an rsave (R78, R83, R201, R260), and of an rload, with the buffered stores where one is to a byte
that it reads (R260). -/
def State.trigMay (s : State) (l : Nat) (k : StrandId) (g : Trig) : Bool :=
  let st := (s.tile l).strand k
  match g with
  | .ls o => !lsImmediate o st || (match lsKind o with | .load _ _ | .gather _ => s.canForce l k st.nextId | _ => s.canClear l k st.nextId)
  | .acc .rsave => s.canClear l k st.nextId
  | .acc .rload => if s.storeHits l k (rawAddrs (s.tile l) (st.opw 0x501)) then s.canClear l k st.nextId else s.canForce l k st.nextId
  | _ => true

/-- R73: the memory operations that a bundle triggers from lower slots come before those of its higher slots. The bundle waits until what a
local access of ls, an rsave or an rload has to follow can be performed, the nx, fx and ls operations of its own lower slots among it (DEDUCED,
entry 29). -/
def State.slotOrder (s : State) (l : Nat) (k : StrandId) (fs : List Firing) : Bool :=
  let after := ((s.tile l).strand k).nextId
  fs.all (fun f =>
    let low := fs.filter (fun g => decide (g.slot < f.slot) && (match g.trig with | .nx _ | .fx _ | .ls _ => true | _ => false))
    low.isEmpty || (match f.trig with | .ls _ | .acc .rsave | .acc .rload => false | _ => true) ||
      (low.foldl (fun s g => trigStart g.trig after ⟨l, k, g.slot, g.v⟩ s) s).trigMay l k f.trig)

/-- R234, R252: the matrix operation of a bundle goes into an accumulator that an acc trigger of the bundle names. Each is in flight from its issue
cycle on, so that neither may issue in the cycle of the other and the bundle never issues (DEDUCED, entry 30). -/
def Strand.accClash (st : Strand) (fs : List Firing) : Bool :=
  let into := fs.filterMap (fun f => match f.trig with | .mx .mdset => none | .mx _ => some (mxAccOf (f.v.setWidth 64)) | _ => none)
  fs.any (fun f => match f.trig with
    | .acc .stat | .acc .sclr => false
    | .acc .clr => into.contains (Fin.ofNat 8 (field (f.v.setWidth 64) 2 0))
    | .acc .absorb => into.contains (adAcc (st.opw 0x500))
    | .acc _ => into.contains (adAcc (f.v.setWidth 64))
    | _ => false)

/-- R16 step 4 for a bundle whose operand writes are in the ports. A wait or take that passes is performed after the accesses that must
precede it (R84, R88). -/
def State.issueAccept (s : State) (l : Nat) (k : StrandId) (b : Bundle) (ps : List (Move × Nat × Vec)) : Bool :=
  let t := s.tile l
  let fs := firings ps
  fs.all (fun f => trigAccept f.trig ⟨l, k, f.slot, f.v⟩ s) && (bundleLaunches b).all (fun p => launchAccept l p.1 s) &&
  tailsReady t s.cycle b && (t.strand k).roomFor l s.cycle fs && t.semsReady (semDemands b (t.strand k) fs) && !abortsAt t fs &&
  (!acquires b fs || s.canForce l k (t.strand k).nextId) && s.slotOrder l k fs && !(t.strand k).accClash fs

/-- R16: the decision on a bundle. A fault of the bundle comes before the debug halt of a sys.brk in it (R51, R128; DESIGN CHOICE, entry 29). -/
def State.decideBundle (s : State) (l : Nat) (k : StrandId) (b : Bundle) : Decision :=
  let t := s.tile l
  let st := t.strand k
  match staticCheck k t b with
  | some (c, d) => .fault c d
  | none =>
    if !s.bundleReady l k b then .wait
    else
      let ps := s.performed l k b
      let fs := firings ps
      let s1 := s.withOperands l k ps
      match s1.issueCheck l k b fs with
      | some (c, d) => .fault c d
      | none =>
        if st.att && !st.brkm && fs.any (fun f => match f.trig with | .sys .brk => true | _ => false) then .debugHalt
        else if s1.issueAccept l k b ps then .issue
        else .wait

/-! ### Trace and debug halt (R150 to R153) -/

/-- R151: a strand enters debug halt before the bundle at its program counter, and the halt is reported to the debugger. -/
def State.haltForDebug (s : State) (l : Nat) (k : StrandId) : State :=
  let st := (s.tile l).strand k
  ((s.trace l k 3 st.pc st.pc).modTile l (fun t => t.modStrand k (fun st => { st.halt .debugHalt with stepping := false }))).modCtx
    (s.ctxOf l) (fun x => { x with halts := x.halts ++ [(l, k, st.pc)] })

/-- R150, R151: a strand enters debug halt; with ALLH the other two enter it at their next bundle boundary. One inside a REP bundle is at
such a boundary: it halts at once, and the idle cycle of the current cycle stays among those left (R38; DESIGN CHOICE, entry 29). -/
def State.debugHaltStrand (s : State) (l : Nat) (k : StrandId) : State :=
  let st := (s.tile l).strand k
  let s := s.haltForDebug l k
  if st.allh then
    (allStrands.filter (fun j => j != k)).foldl (fun s j =>
      if ((s.tile l).strand j).run = .running then s.haltForDebug l j else s) s
  else s

/-- R151: a breakpoint holds the index of the strand's next bundle. -/
def Strand.atBreakpoint (st : Strand) : Bool :=
  st.att && !st.pass && st.bpa.toList.any (fun w => bit w 63 && decide (field w 10 0 = st.pc))

/-- R152: the strand has issued the one bundle of its single step, with its idle cycles. -/
def Strand.stepDone (st : Strand) : Bool :=
  st.stepping && !st.pass && decide (st.repLeft = 0) && st.resumeAt.any (fun c => decide (c < st.issuedAt))

/-! ### The effects (R17, R39, R49, R134) -/

/-- R39, R22: what a bundle consumes: the entries it pops and the unread results it names. A pop of q15 sets HP to 0, but where the bundle
triggers hsel as well (R365). -/
def State.consume (s : State) (l : Nat) (k : StrandId) (b : Bundle) (mbPop hsel : Bool) : State :=
  let ports := (b.moves.filterMap (fun m => match m.src with | some (.port p) => some p | _ => none)).dedup
  let s := s.modTile l (fun t => t.modStrand k (fun st => ports.foldl (fun st p => if (st.port p).full then st.consume p else st) st))
  let pops := if mbPop && !(headerPops b.hdr).contains 13 then (headerPops b.hdr) ++ [13] else (headerPops b.hdr)
  pops.foldl (fun s n => s.modTile l (fun t =>
    if h : n.val < 8 then { t with queues := t.queues.set n.val (t.queues[n.val].pop s.cycle) }
    else match streamOf n with
    | some g => t.setStream g (t.streams[g].pop s.cycle)
    | none =>
      if n.val = 12 then { t with nx := { t.nx with q12 := t.nx.q12.drop 1, q12Pop := s.cycle + 1 } }
      else if n.val = 13 then t.modStrand k (fun st => { st with mailbox := st.mailbox.drop 1, mailPop := s.cycle + 1 })
      else { t with wq := { t.wq with q15 := t.wq.q15.drop 1, q15Pop := s.cycle + 1, hp := if hsel then t.wq.hp else 0 } })) s

/-- A state move (R49, R50): a register, guard or tail takes its value. -/
def Tile.stateMove (t : Tile) (k : StrandId) (now : Nat) (p : Move × Nat × Vec) : Tile :=
  match p.1.dst with
  | some (.x n) => t.modStrand k (fun st => (st.dropMapped n).setX n (p.2.2.setWidth 64))
  | some (.g n) => t.modStrand k (fun st => st.setG n (p.2.2 != 0))
  | some (.v n) => { t with vu := { t.vu with v := t.vu.v.set n.val p.2.2 n.isLt } }
  | some (.tail n) =>
    let w := if n.val < 6 then max 64 p.2.1 else 64
    let v := if n.val < 6 then p.2.2 else (p.2.2.setWidth 64).setWidth 1024
    { t with queues := t.queues.set n.val (t.queues[n].push now w v) n.isLt }
  | _ => t

/-- The header's semaphore operation (R36, R88, R134). -/
def State.headerSem (s : State) (l : Nat) (k : StrandId) (after : Nat) (h : Header) : State :=
  match h.semop with
  | 2 => s.modTile l (fun t => t.modStrand k (fun st => st.post (.sem h.sem.toNat 1) after))
  | 3 => s.modTile l (fun t => t.takeSem k h.sem.toNat 1)
  | _ => s

/-- Where the strand goes next, with its loops, return stack and idle cycles (R37, R126, R130, R132), and its counters
(R123, R139, R144, R150). A strand that ends keeps the index of its sys.end bundle, in the PC field of R148 as well (DESIGN CHOICE,
entry 25). -/
def Strand.advance (st : Strand) (t : Tile) (now rep : Nat) (ends : Bool) (o : Option (BrOp × Word)) : Strand :=
  let r := if ends then (st, st.pc) else st.nextIndex t st.pc o
  let st := { r.1 with
    pc := r.2, issued := st.issued + 1, issuedAt := now + 1, advancedAt := now + 1, repLeft := r.1.repLeft + rep, pass := false,
    dbgctl := st.dbgctl &&& ~~~(16 : Word), token := st.token.map (fun n => if 65 ≤ n then n else n - 1) }
  let st := if st.lodWait then { st.lodEvent with lodWait := false } else st
  if ends then { st with run := .ended, inner := none, outer := none, rstack := [] } else st

/-- R153: the kind of trace record that leaving a bundle writes, of a strand whose ports hold the bundle's operand writes (R17): a taken branch,
a loop return, or none. br.lexit, and br.loop with a count of 0, count as taken branches (DESIGN CHOICE, entry 25). -/
def Strand.leaveKind (st : Strand) (t : Tile) (o : Option (BrOp × Word)) : Nat :=
  match o with
  | some (.jmp, _) | some (.ret, _) | some (.mdjmp, _) | some (.lexit, _) | some (.call, _) => 1
  | some (.loop, _) => if (st.nextIndex t st.pc o).2 = st.pc + 1 then 0 else 1
  | some (.mdset, _) | some (.mdrd, _) | none => if (st.nextIndex t st.pc o).2 = st.pc + 1 then 0 else 2

/-- The csrr that a bundle performs: a CSR is read as it is at the start of the cycle, before anything else (R123). -/
def csrReads (fs : List Firing) : List Firing := fs.filter (fun f => match f.trig with | .sys .csrr => true | _ => false)

/-- The other triggers, in the order in which they are started; a CSR is written last (R123). -/
def startOrder (fs : List Firing) : List Firing := fs.filter (fun f => match f.trig with | .sys .csrr | .sys .csrw => false | _ => true)

/-- The csrw that a bundle performs; it is started after the bundle's counters are written (R123). -/
def csrWrites (fs : List Firing) : List Firing := fs.filter (fun f => match f.trig with | .sys .csrw => true | _ => false)

/-- R127: the operand of the sys.trap that a bundle performs. -/
def trapCode (fs : List Firing) : Option Word :=
  fs.findSome? (fun f => match f.trig with | .sys .trap => some (f.v.setWidth 64) | _ => none)

/-- A bundle performs mb.pop (R137). -/
def popsMail (fs : List Firing) : Bool := fs.any (fun f => match f.trig with | .mb .pop => true | _ => false)

/-- A bundle performs wq.hsel (R365). -/
def selectsHead (fs : List Firing) : Bool := fs.any (fun f => match f.trig with | .wq .hsel => true | _ => false)

/-- A bundle issues: all its effects (R17). -/
def State.performBundle (s : State) (l : Nat) (k : StrandId) (b : Bundle) : State :=
  let ps := s.performed l k b
  let fs := firings ps
  let st0 := (s.tile l).strand k
  let after := st0.nextId
  let o := brFiring fs
  let s1 := s.withOperands l k ps
  let kind := if endsStrand fs then 0 else ((s1.tile l).strand k).leaveKind (s1.tile l) o
  let s := (csrReads fs).foldl (fun s f => trigStart f.trig after ⟨l, k, f.slot, f.v⟩ s) s
  let s := if acquires b fs then s.forceBefore l k after else s
  let s := s.withOperands l k ps
  let s := ps.foldl (fun s p => s.modTile l (fun t => t.stateMove k s.cycle p)) s
  let s := (startOrder fs).foldl (fun s f => trigStart f.trig after ⟨l, k, f.slot, f.v⟩ s) s
  let s := s.consume l k b (popsMail fs) (selectsHead fs)
  let s := s.headerSem l k after b.hdr
  let s := (bundleLaunches b).foldl (fun s p => launchCopy l p.1 s) s
  let s := s.modTile l (fun t => t.modStrand k (fun st => st.writeOperands ps true))
  let s := s.modTile l (fun t => t.modStrand k (fun st => st.advance (s.tile l) s.cycle b.hdr.rep (endsStrand fs) o))
  let s := (csrWrites fs).foldl (fun s f => trigStart f.trig after ⟨l, k, f.slot, f.v⟩ s) s
  let s := if kind = 0 then s else s.trace l k kind st0.pc ((s.tile l).strand k).pc
  match trapCode fs with
  | some c => s.modTile l (fun t => t.modStrand k (fun st => st.takeFault ⟨.trap, .after, st0.pc, word (c.toNat % 2 ^ 16), none, false⟩))
  | none => s

/-! ### Who may issue -/

/-- The strand whose turn it is. -/
def State.current (s : State) : Option (Nat × StrandId) := match s.turn with | .strand l k => some (l, k) | _ => none

/-- R16, R26, R142, R144, R291, R297: a strand has a bundle to issue in this cycle. A feed strand with the stop token (its count is 0)
issues none. -/
def State.mayIssue (s : State) (l : Nat) (k : StrandId) : Bool :=
  let t := s.tile l
  t.live && !t.fenced && (t.strand k).mayIssue && (t.strand k).token != some 0 && !(k == .drain && t.nx.barWait.isSome) && t.nx.gate != .gated

/-! ### Launches of the cycle ahead of the stream fetches (R273) -/

/-- The bundle that a strand would issue in this cycle, if it would. -/
def State.nextBundle (s : State) (l : Nat) (k : StrandId) : Option Bundle :=
  let st := (s.tile l).strand k
  if !s.mayIssue l k || st.atBreakpoint then none
  else match decodeBundle (mget st.store st.pc 0) with
  | .error _ => none
  | .ok b => if s.decideBundle l k b = .issue then some b else none

/-- The copies that a strand would launch in this cycle, with their footprints. -/
def State.launching (s : State) (l : Nat) (k : StrandId) : List Copy :=
  match s.nextBundle l k with
  | none => []
  | some b =>
    let t := (s.withOperands l k (s.performed l k b)).tile l
    (bundleLaunches b).map (fun p => launchShadow l p.1 t)

/-- R273: an access of a tile's own SPM bytes is held by a launch in the same cycle of a strand whose turn is still to come. -/
def State.heldByLaunch (s : State) (l : Nat) (later : List StrandId) (isLoad : Bool) (as : List (Option Nat)) : Bool :=
  later.any (fun j => (s.launching l j).any (fun x =>
    as.any (fun a => match a with | some b => inRange x.dfoot b || (!isLoad && inRange x.sfoot b) | none => false)))

/-- R240, R260: the SPM bytes that a matrix operation of a bundle of the compute strand begins to read when it issues, and those that an
rsave of it begins to hold. -/
def State.bundleTakes (s : State) (l : Nat) (b : Bundle) : List (Option Nat) × List (Option Nat) :=
  let ps := s.performed l .compute b
  let t := (s.withOperands l .compute ps).tile l
  let st := t.strand .compute
  (firings ps).foldl (fun r f => match f.trig with
    | .mx .mdset => r
    | .mx o => (r.1 ++ mxAddrsA t st o (f.v.setWidth 64) ++ mxAddrsB t st o (f.v.setWidth 64), r.2)
    | .acc .rsave => (r.1, r.2 ++ rawAddrs t (st.opw 0x501))
    | _ => r) ([], [])

/-- The same of the bundle that the compute strand would issue in this cycle. -/
def State.computeAhead (s : State) (l : Nat) : List (Option Nat) × List (Option Nat) :=
  match s.nextBundle l .compute with
  | none => ([], [])
  | some b => s.bundleTakes l b

/-- R260: bytes that the compute strand's rsave of this cycle begins to hold are held for the stream fetches before it in the cycle (DEDUCED,
entry 30); R273: those of a launch likewise. -/
def State.fetchHeld (s : State) (l : Nat) (as : List (Option Nat)) : Bool :=
  s.heldByLaunch l [.feed, .drain] true as || as.any (fun a => a.isSome && (s.computeAhead l).2.contains a)

/-- The bytes of which an ls trigger of a bundle accepts no write, and those of which it accepts no access, because the compute strand takes
them in this cycle: for the feed strand, whose turn comes before, those of the compute strand's bundle; for the compute strand's own bundle,
those that its matrix operation reads, since its read span begins in the cycle in which it issues (R240), so that a bundle that does both never
issues. -/
def State.takenNow (s : State) (l : Nat) (k : StrandId) (b : Bundle) : List (Option Nat) × List (Option Nat) :=
  match k with
  | .feed => s.computeAhead l
  | .compute => ((s.bundleTakes l b).1, [])
  | .drain => ([], [])

/-- R273, R240, R260: an ls trigger of a bundle reaches bytes that a strand later in the order of the cycle takes in this cycle: the drain
strand for a copy, or the compute strand for a matrix operation or an rsave. -/
def State.lsHeld (s : State) (l : Nat) (k : StrandId) (b : Bundle) : Bool :=
  let ps := s.performed l k b
  let s1 := s.withOperands l k ps
  k != .drain && (firings ps).any (fun f => match f.trig with
    | .ls o =>
      let isLoad := match lsKind o with | .load _ _ | .gather _ => true | _ => false
      let as := lsBytes o ⟨l, k, f.slot, f.v⟩ s1
      let ahead := if as.isEmpty then ([], []) else s.takenNow l k b
      s.heldByLaunch l [.drain] isLoad as ||
      as.any (fun a => a.isSome && ((!isLoad && ahead.1.contains a) || ahead.2.contains a))
    | _ => false)

/-! ### A strand's turn -/

/-- A strand waits in this cycle (R139). -/
def State.stall (s : State) (l : Nat) (k : StrandId) (lod : Bool) : State :=
  if lod then s.modTile l (fun t => t.modStrand k (fun st => { st with lodWait := true, lodcy := st.lodcy + 1 })) else s

/-- A strand takes a precise fault (R140). -/
def State.preciseFault (s : State) (l : Nat) (k : StrandId) (c : FaultCode) (detail : Nat) : State :=
  s.modTile l (fun t => t.modStrand k (fun st => st.precise c detail))

/-- R139, R144: in the cycle in which the stop token reaches the feed strand, the strand issues nothing, and a wait on a return queue
still counts. -/
def State.tokenWait (s : State) (l : Nat) (k : StrandId) (d : Except Reject Bundle) : State :=
  match d with
  | .error _ => s
  | .ok b =>
    if ((s.tile l).strand k).token = some 0 ∧ ((s.tile l).strand k).mayIssue ∧ (staticCheck k (s.tile l) b).isNone ∧ !s.bundleReady l k b then
      s.stall l k (s.waitsOnReturn l k b)
    else s

/-- A bundle reaches issue at the strand whose turn it is (R16): an ill-formed one faults (R51). -/
def issueDecoded (d : Except Reject Bundle) (s : State) : State :=
  match s.current with
  | none => s
  | some (l, k) =>
    if !s.mayIssue l k then s.tokenWait l k d
    else if ((s.tile l).strand k).atBreakpoint then s.debugHaltStrand l k
    else match d with
    | .error r => s.preciseFault l k .illegalBundle r.slot
    | .ok b =>
      match s.decideBundle l k b with
      | .fault c d => s.preciseFault l k c d
      | .debugHalt => s.debugHaltStrand l k
      | .wait => s.stall l k (s.waitsOnReturn l k b)
      | .issue => if s.lsHeld l k b then s else s.performBundle l k b

/-- The issue of a whole bundle by its bits (R35 to R44). -/
def issueWord (w : BitVec 256) (s : State) : State := issueDecoded (decodeBundle w) s

/-- The header of a bundle without header operations. -/
def plainHeader : Header := ⟨0, 0, 0, 0⟩

/-- The issue of a bundle that holds one move, in slot 0. -/
def issueMove (g : Guard) (x : Src) (d : Nat) (s : State) : State :=
  issueDecoded (.ok ⟨plainHeader, [⟨0, g, some x, d, Dst.ofD d⟩]⟩) s

/-- The issue of a bundle that holds one trigger move. -/
def issueTrig (t : Trig) (m : Mv) (s : State) : State := issueMove m.g m.s t.d s

/-- The issue of a bundle that holds only a header operation. -/
def issueHeader (h : Header) (s : State) : State := issueDecoded (.ok ⟨h, []⟩) s

end Sys2Proof.Machine
end

