-- ==== Sys2Proof/Machine/Landing.lean ====
section
/-! DEFINITION. The steps of a tile between issues: results and posts that land (R21 to R24, R88, R166, R172, R188), stores that
drain (R77), stream fetches (R177, R178), accumulator and matrix landings (R212, R233, R252, R260), the gate latch (R291), and the
write-back of a die cache (R87). -/

namespace Sys2Proof.Machine

/-! ### Results (R21 to R24) -/

/-- The strand is stopped at a bundle boundary (R23). -/
def Strand.stopped (st : Strand) : Bool := st.run == .halted || st.run == .debugHalt

/-- R23: the landing distance of a result that lands in a cycle: from the cycle of the strand's last issue. -/
def Strand.distance (st : Strand) (due : Nat) : Nat := due + 1 - st.base

/-- R23: puts a value with its landing distance into the shadow of a port. -/
def Strand.setShadow (st : Strand) (p : ResPort) (v : Vec) (d : Nat) : Strand :=
  st.setPort p { st.port p with shadow := some (resV v, d) }

/-- R23, R158: the hi value of a result goes into the shadow of its own port, with a landing distance. -/
def Strand.shadowHi (st : Strand) (p : ResPort) (r : Result) (d : Nat) : Strand :=
  match hiPort p, r.hi with
  | some h, some v => st.setShadow h (v.setWidth 1024) d
  | _, _ => st

/-- R23: the free-running result of a port that lands in this cycle, the one triggered last (R21), goes into its shadow, and its hi value
into that of the hi port. A compare, whose distance is 1, writes its guard at once: the first bundle after the resume sees it either way. -/
def Strand.shadowPort (st : Strand) (now : Nat) (p : ResPort) : Strand :=
  let due := st.flights.filter (fun f => f.port == p && !f.locked && f.due == some now)
  match due.getLast? with
  | none => st
  | some last =>
    let st := due.foldl (fun st f => st.landGuard f.res) st
    let st := (st.setShadow p last.res.value (st.distance now)).shadowHi p last.res (st.distance now)
    { st with flights := st.flights.filter (fun f => !(f.port == p && !f.locked && f.due == some now)) }

/-- R22, R23: a data-locked result of a stopped strand enters its port; its hi value, which is free-running (R158), goes into its shadow. -/
def Strand.enterStopped (st : Strand) (now : Nat) (p : ResPort) : Strand :=
  match st.entering now p with
  | some f => (((st.landGuard f.res).place p { f.res with hi := none } true).shadowHi p f.res (st.distance now)).dropFlight f.id
  | none => st

/-- The data-locked result of a port enters it, at a strand that runs or is stopped. -/
def Strand.deliver (st : Strand) (now : Nat) (p : ResPort) : Strand := if st.stopped then st.enterStopped now p else st.enterPort now p

/-- RESULT_LAND (R21, R23): the free-running results of strand `k` of tile `l` that land in this cycle reach their ports, or the
shadows of a stopped strand. A data-locked result of ix0 enters before those of ix1 land, so that its guard is written first (R157). -/
def execResultLand (s : State) : State :=
  s.modTile s.args.l (fun t => t.modStrand s.args.k (fun st =>
    ResPort.all.foldl (fun st p =>
      let st := if st.stopped then st.shadowPort s.cycle p else st.landPort s.cycle p
      if p = .ix0Res then st.deliver s.cycle p else st) st))

/-- DATA_LOCKED_DELIVER (R22): the waiting results of strand `k` of tile `l` enter their empty ports. -/
def execDataLockedDeliver (s : State) : State :=
  s.modTile s.args.l (fun t => t.modStrand s.args.k (fun st => ResPort.all.foldl (fun st p => st.deliver s.cycle p) st))

/-- The result port that a hi port belongs to (R158). -/
def resOfHi : ResPort → Option ResPort
  | .ix0Hi => some .ix0Res
  | .ix1Hi => some .ix1Res
  | _ => none

/-- R24: places the shadow of a port whose cycle has come. A hi value is lost where a later result lands on its unit's res port in the same
cycle (R21, R158). -/
def Strand.landShadow (st : Strand) (now resumed : Nat) (p : ResPort) : Strand :=
  match (st.port p).shadow with
  | none => st
  | some (r, d) =>
    if now + 1 < resumed + d then st
    else
      let lost := (resOfHi p).any (fun q => st.flights.any (fun f => f.port == q && !f.locked && f.due == some now))
      st.setPort p { st.port p with value := if lost then (st.port p).value else r.value, shadow := none }

/-- SHADOW_LAND (R24): the shadows of strand `k` of tile `l` that are due after its resume reach their ports. -/
def execShadowLand (s : State) : State :=
  s.modTile s.args.l (fun t => t.modStrand s.args.k (fun st =>
    match st.resumeAt with
    | some c => if st.stopped then st else ResPort.all.foldl (fun st p => st.landShadow s.cycle c p) st
    | none => st))

/-- MAPPED_WRITE_LAND (R166, R168, R281): the mapped values of strand `k` of tile `l` that are due land; those of ls at a stopped strand
keep their distance for the resume. -/
def execMappedWriteLand (s : State) : State :=
  s.modTile s.args.l (fun t => t.modStrand s.args.k (fun st => st.landMapped s.cycle st.stopped))

/-! ### Posts and ring commits (R13, R88, R172) -/

/-- SEM_POST_APPLY (R13, R88): the posts of the strands of tile `l` that no earlier store holds back are applied, and then the
takes of the cycle. -/
def execSemPostApply (s : State) : State :=
  s.modTile s.args.l (fun t => (allStrands.foldl (fun t k => t.releasePosts k) t).applySems)

/-- RING_COMMIT_APPLY (R172): the same for the ring commits of tile `l`, with the racq and rget of the cycle. -/
def execRingCommitApply (s : State) : State :=
  s.modTile s.args.l (fun t => (allStrands.foldl (fun t k => t.releaseRings k) t).applyRings)

/-! ### Stores (R77) -/

/-- STORE_BUFFER_DRAIN (R77): the oldest store of strand `k` of tile `l` leaves its buffer and is performed; one to a gated tile
waits for it to wake (R291). -/
def execStoreBufferDrain (s : State) : State :=
  let l := s.args.l
  let k := s.args.k
  match ((s.tile l).strand k).sb with
  | [] => s
  | e :: r =>
    if s.cycle < e.due || !s.mayDrain l k e then s
    else match e.loc with
    | .global _ => s.drainHead l k
    | .window tl _ _ =>
      if tl = l then s.drainHead l k
      else
        let w := s.arrive tl false
        if w.2 ≤ s.cycle then w.1.drainHead l k
        else w.1.modTile l (fun t => t.modStrand k (fun st => { st with sb := { e with due := w.2 } :: r }))

/-! ### Streams (R177, R178) -/

/-- STREAM_FETCH (R177, R260, R273): generator `n` of tile `l` fetches its next element. -/
def execStreamFetch (s : State) : State :=
  let l := s.args.l
  let k : Fin 4 := Fin.ofNat 4 s.args.n
  let t := s.tile l
  let x := t.streams[k.val]
  let held := match x.loc t l x.next with
    | .window _ w off => x.opened && s.fetchHeld l ((t.window w).addrs off (stEsz x.cfg))
    | .global _ => false
  if held then s else s.fetchElement l k

/-- STREAM_REFETCH (R178): generator `n` of tile `l` refetches the elements that the last cycle's stores covered. -/
def execStreamRefetch (s : State) : State := s.refetchElements s.args.l (Fin.ofNat 4 s.args.n)

/-- HANDLE_STREAM_FETCH_RETURN (R177, R331): a fetched element of the handle stream `n` of tile `l` reaches its head. -/
def execHandleStreamFetchReturn (s : State) : State := s.returnElement s.args.l (Fin.ofNat 4 s.args.n)

/-! ### The vector-side engines (R212, R233, R252, R260) -/

/-- RACC_TAKE_EFFECT (R212) on tile `l`. -/
def execRaccTakeEffect (s : State) : State := s.modTile s.args.l (fun t => t.applyRaccs s.cycle)

/-- MX_LAND (R233) on tile `l`. -/
def execMxLand (s : State) : State := s.modTile s.args.l (fun t => t.landMx s.cycle)

/-- ABSORB_WRITE (R252) on tile `l`. -/
def execAbsorbWrite (s : State) : State := s.modTile s.args.l (fun t => t.writeAbsorbs s.cycle)

/-- RSAVE_PERFORM (R260) on tile `l`. -/
def execRsavePerform (s : State) : State := s.modTile s.args.l (fun t => t.writeRsaves s.cycle)

/-- RLOAD_WRITE (R252) on tile `l`. -/
def execRloadWrite (s : State) : State := s.modTile s.args.l (fun t => t.writeRloads s.cycle)

/-! ### Debug halt (R151, R152) -/

/-- DEBUG_HALT (R151, R152): strand `k` of tile `l` halts before a breakpointed bundle, or after its single step. -/
def execDebugHalt (s : State) : State :=
  let st := (s.tile s.args.l).strand s.args.k
  if st.run = .running ∧ st.repLeft = 0 ∧ (st.atBreakpoint ∨ st.stepDone) then s.debugHaltStrand s.args.l s.args.k else s

/-! ### The gate latch (R291) -/

/-- A strand is parked on mb.wait, a semaphore or a ring condition (R291). -/
def State.parks (s : State) (l : Nat) (k : StrandId) : Bool :=
  let t := s.tile l
  let st := t.strand k
  st.mayIssue && match decodeBundle (mget st.store st.pc 0) with
  | .error _ => false
  | .ok b =>
    let ps := s.performed l k b
    let fs := firings ps
    let s1 := s.withOperands l k ps
    (staticCheck k t b).isNone && s.bundleReady l k b && (s1.issueCheck l k b fs).isNone &&
    (!t.semsReady (semDemands b ((s1.tile l).strand k) fs) || fs.any (fun f =>
      match f.trig with
      | .mb .wait => !mbAccept .wait ⟨l, k, f.slot, f.v⟩ s1
      | .ls .racq => !lsAccept .racq ⟨l, k, f.slot, f.v⟩ s1
      | .ls .rget => !lsAccept .rget ⟨l, k, f.slot, f.v⟩ s1
      | _ => false))

/-- R291: a message is held for the task of a tile, or one that woke the tile is still to be delivered. -/
def State.messageFor (s : State) (l : Nat) : Bool :=
  let t := s.tile l
  decide (s.cycle < t.nx.gateAt) && t.nx.gate == .opened || allStrands.any (fun k => !(t.strand k).mailHeld.isEmpty) ||
  s.tiles.any (fun p => p.2.owner.any (fun o => t.owner.any (fun q => q.1 == o.1 &&
    (p.2.nx.held.any (fun h => h.uid == q.2) || p.2.nx.mcasts.any (fun m => m.dst == q.2 && decide (m.due ≤ s.cycle))))) ||
    p.2.copies.any (fun x => x.completed && x.messageTile p.1 == l))

/-- R291: the tile is idle in this cycle: its strands have ended or are parked, and issued nothing in it. -/
def State.idle (s : State) (l : Nat) : Bool :=
  let t := s.tile l
  t.live && allStrands.all (fun k => (t.strand k).run == .ended ||
    ((t.strand k).issuedAt != s.cycle + 1 && (t.strand k).advancedAt != s.cycle + 1 && s.parks l k)) &&
  t.quiet l s.cycle false && t.fx.colls.isEmpty && !s.messageFor l

/-- GATE_ARM (R291) at the start of a cycle: after the threshold of idle cycles the latch of tile `l` goes ARMED. -/
def execGateArm (s : State) : State :=
  s.modTile s.args.l (fun t =>
    if t.nx.gate = .opened ∧ t.nx.threshold ≠ 0 ∧ t.nx.threshold ≤ t.nx.idleFor then
      { t with nx := { t.nx with gate := .armed, gateAt := s.cycle, arrived := false } }
    else t)

/-- GATE_CLOSE (R291): an ARMED latch of tile `l` notes whether the tile stays idle in the cycle it armed, and at the end of the
next goes GATED, or OPEN where something arrived or the tile was not idle. -/
def execGateClose (s : State) : State :=
  let l := s.args.l
  let idle := s.idle l
  s.modTile l (fun t =>
    if t.nx.gate ≠ .armed then t
    else if s.cycle = t.nx.gateAt then { t with nx := { t.nx with arrived := t.nx.arrived || !idle } }
    else if t.nx.arrived then { t with nx := { t.nx with gate := .opened, gateAt := 0 } }
    else { t with nx := { t.nx with gate := .gated } })

/-- GATE_WAKE (R291): something arrives at the interface of tile `l`. -/
def execGateWake (s : State) : State := (s.arrive s.args.l true).1

/-! ### Die caches (R87) -/

/-- DIE_CACHE_WRITE_BACK (R87): the cache of die `n` writes the dirty bytes of line `id` home; with `flag` it also drops the line. -/
def execDieCacheWriteBack (s : State) : State :=
  let d : Fin 8 := Fin.ofNat 8 s.args.n
  if s.args.flag then s.dropLine d s.args.id else s.writeBack d s.args.id

end Sys2Proof.Machine
end

