-- ==== Sys2Proof/Machine/Image.lean ====
section
/-! DEFINITION. The context image of a stopped task (R147, R148 and the saved-state tables of the engine chapters): writing it from a
tile and loading a tile from it. -/

namespace Sys2Proof.Machine

/-- A field of an image: offset, size in bytes, value. -/
abbrev ImageField := Nat × Nat × Nat

/-- 64-bit words from an offset. -/
def wordFields (off : Nat) (ws : List Word) : List ImageField := ws.zipIdx.map (fun p => (off + 8 * p.2, 8, p.1.toNat))

/-- Entries of a size from an offset. -/
def entryFields (off size : Nat) (vs : List Vec) : List ImageField := vs.zipIdx.map (fun p => (off + size * p.2, size, p.1.toNat))

/-- Fields moved by an offset. -/
def shiftFields (off : Nat) (fs : List ImageField) : List ImageField := fs.map (fun f => (off + f.1, f.2))

/-! ### A strand block (R148) -/

/-- The source index of port number k of R148. -/
def portIndex (k : Nat) : Nat := if k < 4 then 0x074 + k else 0x09C + k

/-- The port of a source index. -/
def portOf (k : Nat) : Option ResPort := ResPort.all.find? (fun p => p.idx == portIndex k)

/-- A loop word (R148). -/
def loopWord : Option Loop → Word
  | some p => word (2 ^ 63 + p.start % 2048 * 2 ^ 43 + p.stop % 2048 * 2 ^ 32 + p.count % 2 ^ 32)
  | none => 0

/-- The loop of a word (R148). -/
def loopOf (w : Word) : Option Loop := if bit w 63 then some ⟨field w 53 43, field w 42 32, field w 31 0⟩ else none

/-- A waiting result as the image holds it. DESIGN CHOICE (entry 15): for ix, hi stands above res, and above it whether there is one and the
guard that a compare writes, since R157 and R158 give them effect when the result is delivered. -/
def Result.waitWord (r : Result) : Vec :=
  match r.hi, r.guard with
  | none, none => r.value
  | h, g => BitVec.ofNat 1024 ((r.value.toNat % 2 ^ 64) + (h.getD 0).toNat * 2 ^ 64 + b2n h.isSome * 2 ^ 128 +
      (match g with | some (n, b) => (n.val + 1) * 2 ^ 129 + b2n b * 2 ^ 131 | none => 0))

/-- The waiting result of an image entry of a port. -/
def Result.ofWait (p : ResPort) (v : Vec) : Result :=
  if (hiPort p).isNone then resV v
  else ⟨(v.setWidth 64).setWidth 1024, if bit v 128 then some (BitVec.ofNat 64 (field v 127 64)) else none,
    if field v 130 129 = 0 then none else some (Fin.ofNat 3 (field v 130 129 - 1), bit v 131)⟩

/-- The results that wait behind a data-locked port (R22). -/
def Strand.waiting (st : Strand) (p : ResPort) : List Vec :=
  (st.flights.filter (fun f => f.locked && f.port == p && f.due.isSome)).map (fun f => f.res.waitWord)

/-- The shadow of a port (R23). -/
def Strand.shadowOf (st : Strand) (p : ResPort) : Option (Vec × Nat) :=
  (st.port p).shadow.map (fun (x : Result × Nat) => (x.1.value, x.2))

/-- The fields of a port (R148). -/
def Strand.portFields (st : Strand) (k : Nat) : List ImageField :=
  match portOf k with
  | none => []
  | some p =>
    let sh := st.shadowOf p
    let w := b2n sh.isSome * 2 ^ 63 + b2n (st.port p).full * 2 ^ 62 + (sh.map (fun (x : Vec × Nat) => x.2)).getD 0 % 256 * 2 ^ 48 + (st.waiting p).length % 256 * 2 ^ 40
    [(0x800 + 8 * k, 8, w), (0x1000 + 256 * k, 128, (st.port p).value.toNat), (0x1080 + 256 * k, 128, ((sh.map (fun (x : Vec × Nat) => x.1)).getD 0).toNat)]

/-- A strand block (R148). -/
def Strand.blockFields (st : Strand) : List ImageField :=
  let ctl := st.pc % 2048 * 2 ^ 32 + st.repLeft % 16 * 2 ^ 28 + b2n (st.run == .ended) * 2 ^ 27 + b2n st.g[2] * 2 ^ 26 + b2n st.g[1] * 2 ^ 25 +
    b2n st.g[0] * 2 ^ 24
  wordFields 0 st.x.toList ++ [(0x200, 8, ctl)] ++
  wordFields 0x208 [st.smode.setWidth 64, st.sstat.setWidth 64, loopWord st.inner, loopWord st.outer, word st.rstack.length] ++
  wordFields 0x230 (st.rstack.reverse.map word) ++
  wordFields 0x270 ([word st.mdc, st.cyc, st.issued, st.stall, st.lodc.setWidth 64, st.lodcy] ++ st.bpa.toList ++
    [st.dbgctl, st.opw 0x001, st.opw 0x020, st.opw 0x040]) ++
  (List.range 33).flatMap st.portFields ++
  entryFields 0x3100 128 ((List.range 33).flatMap (fun k => match portOf k with | some p => st.waiting p | none => []))

/-- The ix and ls area of a strand (R168, R182). DEDUCED (entry 15): a returned peer or handle value is saved with D = 1, so that no bundle
reads its pending register before it lands (R167). R182 has room for eight mapped accesses: those past the eighth are dropped (DESIGN
CHOICE, entry 15). -/
def Strand.areaFields (st : Strand) : List ImageField :=
  wordFields 0 ([0x100, 0x101, 0x102, 0x180, 0x181, 0x182, 0x200, 0x201, 0x202, 0x204, 0x205].map st.opw) ++
  [(0x080, 128, (st.opnd 0x203).toNat)] ++
  wordFields 0x100 ((st.mapped.take 8).flatMap (fun m =>
    [word (2 ^ 63 + m.reg.val * 2 ^ 56 + (if m.pend then 1 else (m.due + 1 - st.base) % 256) * 2 ^ 48), m.value]))

/-! ### The tile block -/

/-- Operand ports of a strand as words. -/
def opFields (off : Nat) (st : Strand) (ds : List Nat) : List ImageField := wordFields off (ds.map st.opw)

/-- A row-statistics set (R215). -/
def RowSet.fields (r : RowSet) : List ImageField :=
  let im := fun (a : AccEntry) => leNat a.image
  [(0, 8, r.cnt), (8, 8, r.max.toNat), (0x10, 22, im r.s1.1), (0x26, 22, im r.s1.2), (0x40, 22, im r.s2.1), (0x56, 22, im r.s2.2)]

/-- A hold latch (R244). -/
def Latch.fields (x : Latch) (isA : Bool) : List ImageField :=
  [(0, 8, x.desc.toNat), (8, 8, x.sdesc.toNat),
   (16, 8, b2n x.lv * 2 ^ 63 + b2n (isA && x.lsp) * 2 ^ 62 + x.lrows % 256 * 2 ^ 48 + (if isA then x.lmd % 2048 else 0) * 2 ^ 32 +
     x.lrb % 65536 * 2 ^ 16 + x.lsc % 256 * 2 ^ 8)]

/-- A ring (R181). -/
def Ring.fields (r : Ring) : List ImageField := wordFields 0 [r.desc, r.status, word (r.ph * 2 ^ 48 + r.ch * 2 ^ 16)]

/-- A stream generator K with its operand ports (R48, R181). DESIGN CHOICE (entry 15): the image has one set of sel to cfg, which for an open
stream holds what the open captured, and for an idle one the ports; Scarab keeps the ports of an open one. -/
def Stream.fields (x : Stream) (ports : List Word) : List ImageField :=
  if x.opened then
    wordFields 0 [x.sel, x.base, x.d0, x.d1, x.d2, x.cfg, word (2 ^ 63 + x.next % 2 ^ 48), word ((x.total - x.next + x.elems.length) % 2 ^ 48)]
  else wordFields 0 ports

/-- The operand port numbers of a generator (R173). -/
def stPortNums (k : Fin 4) : List Nat := (List.range 6).map (stBase k + ·)

/-- The operand ports of the tile's open streams, which Scarab keeps at a stop. -/
def Tile.openPorts (t : Tile) : List (Nat × Vec) :=
  ((List.finRange 4).filter (fun k => t.streams[k].opened)).flatMap (fun k => (stPortNums k).map (fun d => (d, (t.strand (stOwner k)).opnd d)))

/-- A copy channel with its operand ports (R279). The image has room for 16 held messages; what a second stop adds to them Scarab keeps (DESIGN
CHOICE, entry 30). -/
def copyFields (c : Channel) (st : Strand) (ch : CopyChannel) (held : List (StrandId × Word)) : List ImageField :=
  let b := cpBase c
  opFields 0 st ((List.range 5).map (b + ·)) ++ opFields 0x80 st ((List.range 32).map (b + 0x10 + ·)) ++
  wordFields 0x180 [word ch.nextXid, word (min 16 held.length)] ++ wordFields 0x200 ((held.take 16).map (·.2))

/-- A collective that waits for readiness (R391). -/
def Collective.fields (x : Collective) : List ImageField := wordFields 0 [x.cb, x.cn, x.cring, x.ccfg, word x.off, word (2 ^ 63)]

/-- The occupancy of a head (R147): of q13, that of the feed strand's mailbox (log entry 15). -/
def Tile.occupancy (t : Tile) (n : Nat) : Nat :=
  if n < 8 then (t.queues.toList.getD n ⟨[], 0⟩).entries.length
  else if n < 12 then ((t.streams.toList.getD (n - 8) .idle).elems).length
  else match n with
  | 12 => t.nx.q12.length
  | 13 => t.feed.mailbox.length
  | 15 => t.wq.q15.length
  | _ => 0

/-- The completed copies' messages that a stop moves into a channel's saved state, in the order sent, after those still held there
(R279). -/
def Tile.stopMessages (t : Tile) (l : Nat) (c : Channel) : List (StrandId × Word) :=
  let ch := t.channel c
  ch.held ++ (((ch.copies.filter (fun x => x.completed && x.sends)).insertionSort (fun x y => x.sent ≤ y.sent)).map (fun x => (x.mstr, x.message l c)))

/-- The tile block (R147, R338). -/
def Tile.blockFields (t : Tile) (l : Nat) : List ImageField :=
  let q := fun (n : Nat) => (t.queues.toList.getD n ⟨[], 0⟩).entries.map (fun e => e.2.2)
  let mail := fun (st : Strand) => st.mailbox.map (·.2)
  t.sems.toList.zipIdx.map (fun p => (2 * p.2, 2, p.1.toNat)) ++
  t.rings.toList.zipIdx.flatMap (fun p => shiftFields (0x80 + 32 * p.2) p.1.fields) ++
  entryFields 0x180 8 (q 6) ++ entryFields 0x1C0 8 (q 7) ++ (List.range 16).map (fun n => (0x200 + n, 1, t.occupancy n)) ++
  wordFields 0x240 (mail t.feed) ++ wordFields 0x2C0 (mail t.compute) ++ wordFields 0x340 (mail t.drain) ++
  (List.finRange 4).flatMap (fun k =>
    shiftFields (0x400 + 256 * k.val) (t.streams[k].fields ((stPortNums k).map (t.strand (stOwner k)).opw)) ++
    entryFields (0x800 + 2048 * k.val) 128 (t.streams[k].elems.map Element.value)) ++
  t.nx.q12.zipIdx.flatMap (fun p => [(0x2800 + 192 * p.2, 128, p.1.2.2.toNat), (0x2880 + 192 * p.2, 8, p.1.2.1.toNat)]) ++
  t.wq.q15.zipIdx.flatMap (fun p => entryFields (0x4000 + 1024 * p.2) 128 (p.1.parts.take 8)) ++
  allStrands.flatMap (fun k => shiftFields (0xC000 + 0x200 * strandNum k) (t.strand k).areaFields) ++
  [(0xC600, 128, (t.compute.opnd 0x300).toNat), (0xC680, 128, (t.compute.opnd 0x301).toNat)] ++
  opFields 0xC700 t.compute [0x302, 0x303, 0x304] ++ [(0xC718, 8, t.vu.vxStat.toNat)] ++
  [(0xC800, 128, (t.compute.opnd 0x3A0).toNat), (0xC880, 128, (t.compute.opnd 0x3A1).toNat)] ++
  opFields 0xC900 t.compute [0x3A2, 0x3A3, 0x3A4] ++ [(0xC918, 8, t.vu.sfStat.toNat)] ++
  t.vu.rowSets.toList.zipIdx.flatMap (fun p => shiftFields (0xCA00 + 128 * p.2) p.1.fields) ++
  [(0xCC00, 128, (t.compute.opnd 0x400).toNat)] ++ opFields 0xCC80 t.compute [0x401, 0x402, 0x403, 0x404, 0x405] ++
  [(0xCCA8, 8, t.vu.cvStat.toNat)] ++
  opFields 0xCD00 t.compute [0x480, 0x481, 0x482, 0x483] ++ [(0xCD20, 8, t.mx.mdc), (0xCD28, 8, t.mx.seq.toNat)] ++
  shiftFields 0xCD30 (t.mx.a.fields true) ++ shiftFields 0xCD50 (t.mx.b.fields false) ++
  opFields 0xCE00 t.compute [0x500, 0x501, 0x502, 0x503, 0x504] ++ [(0xCE28, 8, t.vu.accStat.toNat)] ++
  shiftFields 0xD000 (copyFields .cpi t.feed t.cpi (t.stopMessages l .cpi)) ++
  shiftFields 0xD400 (copyFields .cpo t.drain t.cpo (t.stopMessages l .cpo)) ++
  [(0xD800, 8, (t.feed.opw 0x600).toNat), (0xD808, 8, t.nx.threshold)] ++
  wordFields 0xD810 (t.nx.mtab.toList.map (fun e => match e with | some g => word (2 ^ 63 + g.1.toNat) | none => 0)) ++
  opFields 0xD850 t.drain [0x640, 0x641, 0x642, 0x644, 0x645] ++ [(0xD880, 128, (t.drain.opnd 0x643).toNat)] ++
  wordFields 0xD900 (t.nx.held.map HeldMsg.word) ++ [(0xD940, 8, t.nx.held.length)] ++
  opFields 0xDC00 t.drain [0x740, 0x741] ++
  [(0xDC10, 8, (t.regions.zipIdx.map (fun p => b2n p.1.closed * 2 ^ p.2)).sum)] ++
  opFields 0xDE00 t.feed [0x700, 0x701, 0x702] ++ [(0xDE18, 8, t.wq.hp % 8 + t.wq.nextQid % 65536 * 2 ^ 16)] ++
  opFields 0xE000 t.drain [0x680, 0x681, 0x682, 0x684, 0x685, 0x686, 0x687, 0x688] ++ [(0xE080, 128, (t.drain.opnd 0x683).toNat)] ++
  ((t.fx.colls.filter (fun x => !x.ready)).zipIdx.flatMap (fun p => shiftFields (0xE100 + 64 * p.2) p.1.fields)) ++
  t.fx.err.map (fun p => (0xE200 + p.1, 1, p.2.toNat)) ++
  wordFields 0xE300 (t.fx.collDone.map (fun p => word (2 ^ 63 + p.2 * 2 ^ 56 + p.1)))

/-- The whole image, SPM bytes apart (R147). -/
def Tile.imageFields (t : Tile) (l : Nat) : List ImageField :=
  t.vu.acc.toList.zipIdx.flatMap (fun p => (List.range 32).map (fun r => (0x080000 + 22528 * p.2 + 704 * r, 704, leNat (rowImage p.1 r)))) ++
  entryFields 0x0AC000 128 t.vu.v.toList ++
  (List.range 6).flatMap (fun n => entryFields (0x0AD000 + 2048 * n) 128 ((t.queues.toList.getD n ⟨[], 0⟩).entries.map (fun e => e.2.2))) ++
  allStrands.flatMap (fun k => shiftFields (0x0B0000 + 0x4000 * strandNum k) (t.strand k).blockFields) ++
  shiftFields 0x0BC000 (t.blockFields l)

/-- The bytes of an image by offset; an RSV field is zero. -/
def Tile.image (t : Tile) (l : Nat) : Memory :=
  let fs := t.imageFields l
  fs.foldl (fun m f => writeRange m f.1 (leBytes f.2.1 f.2.2)) t.spm

/-- Writes the image of a tile into a slot of the context's image area, through the undo log (R147, R330): whole lines, which lose their errors and
their poison marks (R347, R348). A fenced line (R351) and one of a registered image (R399) take nothing. -/
def State.writeImage (s : State) (c l slot : Nat) : State :=
  let base := lineOf ((s.ctx c).imgbase.toNat + slot * 2 ^ 20)
  let n := 0xCC000 / 128
  let im := (s.tile l).image l
  let fenced := (List.range n).filter (fun i => s.lineFenced (base + i) || s.imageLine (base + i))
  let taken := fun (pl : Nat) => decide (base ≤ pl) && decide (pl < base + n) && !fenced.contains (pl - base)
  let s := ((List.range n).filter (fun i => !fenced.contains i)).foldl (fun s i => s.logLine c (base + i)) s
  let block := (List.range n).flatMap (fun i =>
    if fenced.contains i then within s.mem ((base + i) * 128) 128 else (within im (i * 128) 128).map (fun p => (base * 128 + p.1, p.2)))
  { s with mem := below s.mem (base * 128) ++ block ++ onward s.mem ((base + n) * 128),
           poison := s.poison.filter (fun q => !taken q), latent := s.latent.filter (fun p => !taken (p.1 / 4)) }

/-! ### Loading (R149) -/

/-- Reads a number of n bytes at an offset of an image in memory. -/
abbrev ImageReader := Nat → Nat → Nat

/-- The lines of an image that a resume reads: all but those of the reserved range (R147). -/
def State.imageLines (s : State) (c slot : Nat) : List Nat :=
  (List.range (0xCC000 / 128)).map (lineOf ((s.ctx c).imgbase.toNat + slot * 2 ^ 20) + ·)

/-- R347, R348, R351: the lines of an image are read at home, and errors in them are met; the first that is poisoned or fenced, if any. -/
def State.readImage (s : State) (c slot : Nat) : State × Option Nat :=
  let pls := s.imageLines c slot
  let s := pls.foldl (fun s pl => s.readHome pl) s
  (s, pls.find? s.linePoison)

/-- The image in a slot at home, by offset. -/
def State.imageAt (s : State) (c slot : Nat) : Memory :=
  let base := (s.ctx c).imgbase.toNat + slot * 2 ^ 20
  (within s.mem base (2 ^ 20)).map (fun p => (p.1 - base, p.2))

/-- A reader of an image. -/
def imageReader (im : Memory) : ImageReader := fun off n => leNat (readRange im off n)

/-- A reader from an offset on. -/
def readerAt (rd : ImageReader) (off : Nat) : ImageReader := fun o n => rd (off + o) n

/-- A word at an offset. -/
def rdWord (rd : ImageReader) (off : Nat) : Word := word (rd off 8)

/-- n words from an offset. -/
def rdWords (rd : ImageReader) (off n : Nat) : List Word := (List.range n).map (fun i => rdWord rd (off + 8 * i))

/-- A vector at an offset. -/
def rdVec (rd : ImageReader) (off : Nat) : Vec := BitVec.ofNat 1024 (rd off 128)

/-! ### RSV fields of an image (R149) -/

/-- The word whose ones are some fields, each from its highest bit to its lowest. -/
def fieldMask (fs : List (Nat × Nat)) : Word := word (fs.map (fun p => 2 ^ (p.1 + 1) - 2 ^ p.2)).sum

/-- The bits of a matrix descriptor that are not RSV (R228). -/
def mdBits : Word := fieldMask [(47, 32), (21, 0)]

/-- The bits of a collective's ring that are not RSV (R381). -/
def ringBits (ccfg : Word) : Word := word (2 ^ (8 * min 8 (field ccfg 47 44)) - 1)

/-- The bits of an operand port that an image loads: those of an RSV field are zero (R149), a field for which a trigger names a fault among them
(R185, R205, R217, R228, R250, R251, R265 to R267, R282, R354, R356, R372, R381). -/
def imageBits (d : Nat) : Word :=
  match d with
  | 0x303 => fieldMask [(14, 9), (4, 0)]
  | 0x3A3 => fieldMask [(14, 12), (10, 9), (6, 0)]
  | 0x402 => fieldMask [(21, 16), (14, 12), (9, 0)]
  | 0x480 | 0x481 | 0x482 | 0x483 => mdBits
  | 0x500 => fieldMask [(15, 12), (9, 5), (2, 0)]
  | 0x501 => fieldMask [(21, 0)]
  | 0x502 => fieldMask [(2, 0)]
  | 0x580 | 0x582 | 0x5C0 | 0x5C2 => fieldMask [(26, 16), (13, 12), (3, 0)]
  | 0x584 | 0x5C4 => fieldMask [(63, 56), (47, 42), (39, 37), (34, 33), (20, 16), (2, 0)]
  | 0x640 => fieldMask [(29, 28), (26, 16), (13, 12), (3, 0)]
  | 0x680 => fieldMask [(23, 16), (3, 0)]
  | 0x685 => fieldMask [(13, 12), (3, 0)]
  | 0x686 => fieldMask [(36, 0)]
  | 0x688 => fieldMask [(47, 44), (42, 39), (37, 31), (29, 20), (15, 0)]
  | 0x700 | 0x702 => fieldMask [(3, 0)]
  | 0x701 => fieldMask [(47, 6), (3, 0)]
  | _ => if (0x5A0 ≤ d ∧ d ≤ 0x5AF) ∨ (0x5E0 ≤ d ∧ d ≤ 0x5EF) then fieldMask [(31, 0)] else ~~~(0 : Word)

/-- The bits of a result that an image loads: those of the stat word of a copy channel (R276) and of the result word of mx (R233) without their RSV
fields. A port whose results have several layouts has no RSV field of its own (DEDUCED, entry 30). -/
def resBits (p : ResPort) : Vec :=
  match p with
  | .cpiStat | .cpoStat => (fieldMask [(63, 61), (39, 0)]).setWidth 1024
  | .mxRes => (fieldMask [(63, 32), (23, 16), (10, 10), (2, 0)]).setWidth 1024
  | _ => ~~~(0 : Vec)

/-- A mailbox message without its RSV field: that of a copy completion (R274) or of a notice (R324). -/
def mailBits (w : Word) : Word :=
  match field w 63 60 with
  | 1 => w &&& ~~~(fieldMask [(37, 17)])
  | 4 => w &&& ~~~(fieldMask [(39, 32)])
  | _ => w

/-- A part of a q15 entry without its RSV fields, which part 0 alone has (R363, R364). -/
def tripleBits (j : Nat) (v : Vec) : Vec :=
  if j = 0 then v &&& BitVec.ofNat 1024 (2 ^ 144 - 1 - (2 ^ 104 - 2 ^ 96) + (2 ^ 208 - 2 ^ 160)) else v

/-- Loads operand ports of a strand from words (R149). -/
def Strand.loadOps (st : Strand) (rd : ImageReader) (off : Nat) (ds : List Nat) : Strand :=
  ds.zipIdx.foldl (fun st p => st.setOpnd p.1 ((rdWord rd (off + 8 * p.2) &&& imageBits p.1).setWidth 1024)) st

/-- Loads a port and its shadow (R24); a free-running port that no one has shadowed keeps its value. -/
def Strand.loadPort (st : Strand) (rd : ImageReader) (k : Nat) : Strand :=
  match portOf k with
  | none => st
  | some p =>
    let w := rdWord rd (0x800 + 8 * k)
    let v := rdVec rd (0x1000 + 256 * k) &&& resBits p
    let sh := if bit w 63 then some (resV (rdVec rd (0x1080 + 256 * k) &&& resBits p), field w 55 48) else none
    st.setPort p ⟨v, bit w 62, sh⟩

/-- The results that wait behind the ports, in trigger order (R22). -/
def Strand.loadWaiting (st : Strand) (rd : ImageReader) : Strand :=
  ((List.range 33).foldl (fun (p : Strand × Nat) k =>
    match portOf k with
    | none => p
    | some q =>
      let n := field (rdWord rd (0x800 + 8 * k)) 47 40
      ((List.range n).foldl (fun st i => st.fly (some 0) q (Result.ofWait q (rdVec rd (0x3100 + 128 * (p.2 + i)) &&& resBits q)) true) p.1, p.2 + n)) (st, 0)).1

/-- A strand from its block and area, with its bundle store and mailbox; RSV fields are loaded as zero (R18, R148, R149, R182). With DBGCTL.STEP
set it issues one bundle (R152). -/
def loadStrand (k : StrandId) (rd area : ImageReader) (store : SMap (BitVec 256)) (mail : List Word) : Strand :=
  let ctl := rdWord rd 0x200
  let st : Strand :=
    { Strand.empty with
      run := if bit ctl 27 then .ended else .halted, store := store,
      x := Vector.ofFn (fun (n : Fin 64) => rdWord rd (8 * n.val)), g := Vector.ofFn (fun (n : Fin 3) => bit ctl (24 + n.val)),
      pc := field ctl 42 32, repLeft := field ctl 31 28, smode := BitVec.ofNat 32 (rd 0x208 4 &&& smodeMask k), sstat := BitVec.ofNat 2 (rd 0x210 8),
      inner := loopOf (rdWord rd 0x218), outer := loopOf (rdWord rd 0x220),
      rstack := ((rdWords rd 0x230 (rd 0x228 8 % 16)).map (fun w => field w 10 0)).reverse, mdc := rd 0x270 8 % 2048,
      cyc := rdWord rd 0x278, issued := rdWord rd 0x280, stall := rdWord rd 0x288, lodc := BitVec.ofNat 32 (rd 0x290 8), lodcy := rdWord rd 0x298,
      bpa := Vector.ofFn (fun (n : Fin 4) => rdWord rd (0x2A0 + 8 * n.val) &&& word (2 ^ 63 + 2047)), dbgctl := rdWord rd 0x2C0 &&& 31,
      stepping := bit (rdWord rd 0x2C0) 1,
      mailbox := mail.map (fun w => (0, w)),
      mapped := (List.range 8).filterMap (fun i =>
        let w := rdWord area (0x100 + 16 * i)
        if bit w 63 then some ⟨Fin.ofNat 64 (field w 61 56), rdWord area (0x108 + 16 * i), field w 55 48 - 1, false, false⟩ else none) }
  let st := (st.loadOps rd 0x2C8 [0x001, 0x020, 0x040]).loadOps area 0 [0x100, 0x101, 0x102, 0x180, 0x181, 0x182, 0x200, 0x201, 0x202, 0x204, 0x205]
  ((List.range 33).foldl (fun st k => st.loadPort rd k) (st.setOpnd 0x203 (rdVec area 0x080))).loadWaiting rd

/-- A row-statistics set (R215). -/
def loadRowSet (rd : ImageReader) : RowSet :=
  let e := fun (lower : Bool) (off : Nat) => AccEntry.ofImage lower (leBytes 22 (rd off 22))
  ⟨rd 0 4, BitVec.ofNat 32 (rd 8 4), (e true 0x10, e false 0x26), (e true 0x40, e false 0x56)⟩

/-- A ring (R181). -/
def loadRing (rd : ImageReader) : Ring :=
  let w := rdWord rd 8
  let h := rdWord rd 16
  ⟨bit w 63, rdWord rd 0 &&& operandBits 0x204, field w 60 48, field w 44 32, field w 28 16, field w 12 0, field h 60 48, field h 28 16⟩

/-- The operand ports of generator K: those of an idle one from the image, those of an open one as Scarab kept them (R48, R181). -/
def Strand.loadStPorts (st : Strand) (k : Fin 4) (rd : ImageReader) (kept : List (Nat × Vec)) : Strand :=
  if bit (rdWord rd 0x30) 63 then (kept.filter (fun p => (stPortNums k).contains p.1)).foldl (fun st p => st.setOpnd p.1 p.2) st
  else st.loadOps rd 0 (stPortNums k)

/-- A stream generator with n head entries (R180, R181); the RSV bits of sel and cfg are loaded as zero (R149, R160, R174). Which bundle opened it
is not saved (log entry 15). -/
def loadStream (rd heads : ImageReader) (n now pc : Nat) : Stream :=
  let w := rdWord rd 0x30
  let next := field w 47 0
  if !bit w 63 then .idle else
  { opened := bit w 63, pc := pc, sel := rdWord rd 0 &&& operandBits 0x280, base := rdWord rd 8, d0 := rdWord rd 16, d1 := rdWord rd 24, d2 := rdWord rd 32,
    cfg := rdWord rd 40 &&& operandBits 0x285, since := now - 1, after := 0, next := next, refetch := [], lastPop := 0,
    elems := (List.range n).map (fun i => ⟨next - n + i, rdVec heads (128 * i), 0, 0, true⟩) }

/-- A hold latch: a valid one reads its operand again from its saved descriptors, whose RSV bits are loaded as zero (R149, R244, R245). -/
def Tile.loadLatch (t : Tile) (rd : ImageReader) (isA : Bool) : Latch :=
  let w := rdWord rd 16
  let desc := rdWord rd 0 &&& mdBits
  let sdesc := rdWord rd 8 &&& mdBits
  if !bit w 63 then { Latch.invalid with desc := desc, sdesc := sdesc }
  else
    let rows := field w 55 48
    let sp := isA && bit w 62
    readOperand t desc sdesc rows (field w 31 16) (field w 15 8) sp (if isA then field w 42 32 else 0) (if sp then 48 * rows else 0)

/-- The vector-side engines (R147, R203, R215, R224, R263). -/
def loadVu (rd : ImageReader) : Vu :=
  let tb := readerAt rd 0x0BC000
  { Vu.start with
    v := Vector.ofFn (fun (n : Fin 32) => rdVec rd (0x0AC000 + 128 * n.val)),
    acc := Vector.ofFn (fun (k : Fin 8) => (List.range 1024).foldl (fun a i =>
      mputD AccEntry.cleared a i (AccEntry.ofImage false (leBytes 22 (rd (0x080000 + 22528 * k.val + 22 * i) 22)))) []),
    vxStat := BitVec.ofNat 7 (tb 0xC718 1 % 64), sfStat := BitVec.ofNat 7 (tb 0xC918 1 % 64), cvStat := BitVec.ofNat 7 (tb 0xCCA8 1),
    accStat := BitVec.ofNat 7 (tb 0xCE28 1 % 64),
    rowSets := Vector.ofFn (fun (k : Fin 4) => loadRowSet (readerAt tb (0xCA00 + 128 * k.val))) }

/-- A copy channel; Scarab keeps the mailbox that each held message goes to, and the messages past the sixteenth (R279). -/
def loadChannel (rd : ImageReader) (hs : List (StrandId × Word)) : CopyChannel :=
  let n := min 16 (rd 0x188 1 % 32)
  ⟨rd 0x180 2, [], (List.range n).map (fun i => (((hs[i]?).map (·.1)).getD .drain, mailBits (rdWord rd (0x200 + 8 * i)))) ++ hs.drop 16, 0, 0⟩

/-- The network interface (R303); a subscription that the task had before keeps its number. -/
def loadNx (rd : ImageReader) (targets : List HeldMsg) (subs : List (Option (BitVec 16 × Nat))) (now : Nat) : Nx :=
  { Nx.start with
    threshold := rd 0xD808 4,
    mtab := Vector.ofFn (fun (k : Fin 8) => let w := rdWord rd (0xD810 + 8 * k.val); if bit w 63 then
      some (w.setWidth 16, (((subs.getD k.val none).filter (fun e => e.1 == w.setWidth 16)).map (·.2)).getD now) else none),
    held := (targets.take (rd 0xD940 1 % 16)).zipIdx.map (fun p => { p.1 with word := rdWord rd (0xD900 + 8 * p.2) }),
    q12 := (List.range (rd 0x20C 1)).map (fun i => (0, rdWord rd (0x2880 + 192 * i), rdVec rd (0x2800 + 192 * i))) }

/-- The fabric interface: its waiting collectives, error bytes and retired codes (R391). -/
def loadFx (rd : ImageReader) : Fx :=
  { err := (List.range 256).foldl (fun m f => mputD (0 : BitVec 5) m f (BitVec.ofNat 5 (rd (0xE200 + f) 1))) [],
    ops := [],
    colls := (List.range 4).filterMap (fun i =>
      let b := 0xE100 + 64 * i
      if bit (rdWord rd (b + 40)) 63 then
        let ccfg := rdWord rd (b + 24) &&& imageBits 0x688
        some { order := 0, cb := rdWord rd b &&& imageBits 0x685, cn := rdWord rd (b + 8) &&& imageBits 0x686,
               cring := rdWord rd (b + 16) &&& ringBits ccfg, ccfg := ccfg,
               off := rd (b + 32) 8, after := 0, ready := false, due := 0 }
      else none),
    collDone := (List.range 16).filterMap (fun i =>
      let w := rdWord rd (0xE300 + 8 * i)
      if bit w 63 then some (field w 15 0, field w 58 56) else none) }

/-- The queues q0 to q7 (R147); an entry's width is not saved, and no value depends on it. -/
def loadQueue (rd : ImageReader) (n : Nat) : Queue :=
  let m := rd (0x0BC200 + n) 1
  let at1 := fun (i : Nat) => if n < 6 then (0, 1024, rdVec rd (0x0AD000 + 2048 * n + 128 * i))
    else (0, 64, (rdWord rd (0x0BC180 + 64 * (n - 6) + 8 * i)).setWidth 1024)
  ⟨(List.range m).map at1, 0⟩

/-- The messages of a mailbox: its words up to the first zero, which no message is (R136, R147). -/
def loadMail (rd : ImageReader) (k : StrandId) : List Word :=
  ((rdWords rd (0x0BC240 + 128 * strandNum k) 16).takeWhile (fun w => w != 0)).map mailBits

/-- Loads the image of a task into its tile, whose bundle and metadata stores are already loaded (R149). `p` gives the targets of held
messages, which Scarab keeps, and `fpc` the bundle of its open streams. -/
def Tile.loadImage (t : Tile) (im : Memory) (p : Task) (now fpc : Nat) : Tile :=
  let rd := imageReader im
  let tb := readerAt rd 0x0BC000
  let strand := fun (k : StrandId) =>
    loadStrand k (readerAt rd (0x0B0000 + 0x4000 * strandNum k)) (readerAt tb (0xC000 + 0x200 * strandNum k)) (t.strand k).store (loadMail rd k)
  let hs := fun (c : Channel) => (p.heldMail.filter (fun (h : Channel × StrandId × Word) => h.1 == c)).map (fun (h : Channel × StrandId × Word) => h.2)
  let closed := rdWord tb 0xDC10
  let feed := ((strand .feed).loadOps tb 0xD000 ((List.range 5).map (cpBase .cpi + ·))).loadOps tb 0xD080 ((List.range 32).map (cpBase .cpi + 0x10 + ·))
  let feed := (feed.loadOps tb 0xD800 [0x600]).loadOps tb 0xDE00 [0x700, 0x701, 0x702]
  let st := fun (e : Strand) (k : Fin 4) => e.loadStPorts k (readerAt tb (0x400 + 256 * k.val)) p.stPorts
  let feed := st (st feed 0) 1
  let comp := (strand .compute).loadOps tb 0xC700 [0x302, 0x303, 0x304]
  let comp := ((comp.setOpnd 0x300 (rdVec tb 0xC600)).setOpnd 0x301 (rdVec tb 0xC680)).loadOps tb 0xC900 [0x3A2, 0x3A3, 0x3A4]
  let comp := ((comp.setOpnd 0x3A0 (rdVec tb 0xC800)).setOpnd 0x3A1 (rdVec tb 0xC880)).loadOps tb 0xCC80 [0x401, 0x402, 0x403, 0x404, 0x405]
  let comp := ((comp.setOpnd 0x400 (rdVec tb 0xCC00)).loadOps tb 0xCD00 [0x480, 0x481, 0x482, 0x483]).loadOps tb 0xCE00 [0x500, 0x501, 0x502, 0x503, 0x504]
  let drain := ((strand .drain).loadOps tb 0xD400 ((List.range 5).map (cpBase .cpo + ·))).loadOps tb 0xD480 ((List.range 32).map (cpBase .cpo + 0x10 + ·))
  let drain := ((drain.loadOps tb 0xD850 [0x640, 0x641, 0x642, 0x644, 0x645]).setOpnd 0x643 (rdVec tb 0xD880)).loadOps tb 0xDC00 [0x740, 0x741]
  let drain := (drain.loadOps tb 0xE000 [0x680, 0x681, 0x682, 0x684, 0x685, 0x686, 0x687, 0x688]).setOpnd 0x683 (rdVec tb 0xE080)
  let drain := drain.setOpnd 0x687 ((drain.opw 0x687 &&& ringBits (drain.opw 0x688)).setWidth 1024)
  let drain := st (st drain 2) 3
  let streams := Vector.ofFn (fun (k : Fin 4) =>
    loadStream (readerAt tb (0x400 + 256 * k.val)) (readerAt tb (0x800 + 2048 * k.val)) (tb (0x208 + k.val) 1) now fpc)
  let hp := rdWord tb 0xDE18
  let t := { t with
    spm := below im 524288, feed := feed, compute := comp, drain := drain,
    sems := Vector.ofFn (fun (n : Fin 64) => BitVec.ofNat 16 (tb (2 * n.val) 2)),
    rings := Vector.ofFn (fun (n : Fin 8) => loadRing (readerAt tb (0x80 + 32 * n.val))),
    queues := Vector.ofFn (fun (n : Fin 8) => loadQueue rd n.val), streams := streams, vu := loadVu rd,
    cpi := loadChannel (readerAt tb 0xD000) (hs .cpi), cpo := loadChannel (readerAt tb 0xD400) (hs .cpo),
    nx := loadNx tb p.heldOut p.mtab now, fx := loadFx tb,
    wq := { Wq.start with nextQid := field hp 31 16, hp := field hp 2 0,
                          q15 := (List.range (tb 0x20F 1)).map (fun i => ⟨(List.range 8).map (fun j => tripleBits j (rdVec tb (0x4000 + 1024 * i + 128 * j))), 0⟩) },
    regions := t.regions.zipIdx.map (fun (r : Region × Nat) => { r.1 with closed := bit closed r.2 }) }
  { t with mx := { Mx.start with mdc := tb 0xCD20 2 % 2048, seq := BitVec.ofNat 32 (tb 0xCD28 4),
                                 a := t.loadLatch (readerAt tb 0xCD30) true, b := t.loadLatch (readerAt tb 0xCD50) false } }

end Sys2Proof.Machine
end

