-- ==== Sys2Proof/Machine/Stop.lean ====
section
/-! DEFINITION. Stopping and resuming tasks: the stop token (R144 to R146), the fault of a task (R142, R143), domain aborts (R337),
pre-emption (R298, R311, R324), the watchdog and hang probes (R419), and resume (R149, R317). -/

namespace Sys2Proof.Machine

/-! ### The stop token (R144) -/

/-- R23: a strand that runs halts at its bundle boundary; one in debug halt counts as halted (R144). -/
def Strand.stopNow (st : Strand) : Strand :=
  let st := if st.run = .running then st.halt .halted else st
  { st with token := none }

/-- R144: a strand passes the token on: the drain strand has it from the next cycle. -/
def Tile.passToken (t : Tile) : StrandId → Tile
  | .compute => t.modStrand .drain (fun st => { st with token := some 65 })
  | .drain => { t with stop := .draining }
  | .feed => t

/-- R298: a gang is stopped only while its domain is in the compute phase, and no barrier is about to complete. -/
def State.mayStop (s : State) (l : Nat) : Bool :=
  match s.taskOn l with
  | some t => !t.gang || (s.domainOf l).all (fun p => p.2.phase.isNone && decide (p.2.arrivals.length < p.2.members.length))
  | none => false

/-- STOP_TOKEN_INJECT (R144, R310): a stop asked for on tile `l`, or announced 20 µs ago, begins: its feed strand issues nothing from
the next cycle, in which the token is on its way to the compute strand. A STARTING task has no strands to stop, and one in ENDING is not
stopped (R311). -/
def execStopTokenInject (s : State) : State :=
  let l := s.args.l
  let t := s.tile l
  let noticed := (s.taskOn l).any (fun p => p.noticed.any (fun c => s.elapsed c 20000))
  let placed := (s.taskOn l).any (fun p => p.state == .running || p.state == .starting)
  if !(t.stop == .requested || (t.stop == .none && noticed)) || !placed || !s.mayStop l then s
  else if !t.live then s.modTile l (fun t => { t with stop := .draining })
  else s.modTile l (fun t =>
    (Tile.modStrand { t with stop := .token } .feed (fun st => { st with token := some 0 })).modStrand .compute (fun st => { st with token := some 65 }))

/-- STRAND_HALT_ON_TOKEN (R144, R146) at the end of a cycle: strand `k` of tile `l`, which has the stop token, halts where it did
not issue in the cycle, has issued its 64th bundle or has ended, and passes the token on. -/
def execStrandHaltOnToken (s : State) : State :=
  let a := s.args
  let t := s.tile a.l
  let st := t.strand a.k
  match t.stop, st.token with
  | .token, some n =>
    if n = 65 then s.modTile a.l (fun t => t.modStrand a.k (fun st => { st with token := some 64 }))
    else if a.k ≠ .feed ∧ n ≠ 0 ∧ st.run = .running ∧ st.issuedAt = s.cycle + 1 then s
    else s.modTile a.l (fun t => (t.modStrand a.k Strand.stopNow).passToken a.k)
  | _, _ => s

/-! ### Faults of a task (R142, R337) -/

/-- The task of a tile stays stopped until its owner acts (R142). -/
def State.parkTask (s : State) (l : Nat) : State :=
  match (s.tile l).owner with
  | some (c, uid) => s.modTask c uid (fun t => { t with parked := true, noticed := none })
  | none => s

/-- Every strand of a tile stops with no run-on, and its task stays stopped until its owner acts (R142). -/
def State.stopAll (s : State) (l : Nat) : State :=
  (s.modTile l (fun t => allStrands.foldl (fun t k => t.modStrand k Strand.stopNow) { t with stop := .draining })).parkTask l

/-- Some strand has a fault that leads to no rollback. -/
def Tile.faulted (t : Tile) : Bool := allStrands.any (fun k => (t.strand k).fault.any (fun f => f.poison.isNone))

/-- Some strand has met poison. -/
def Tile.poisoned (t : Tile) : Bool := allStrands.any (fun k => (t.strand k).fault.any (fun f => f.poison.isSome))

/-- TASK_FAULT (R142, R153, R337): the fault of a strand of tile `l` stops its task, and is carried to the other members of its gang. A
fault reported while a stop is already completing keeps the task stopped in the same way. -/
def execTaskFault (s : State) : State :=
  let l := s.args.l
  let s := s.traceFaults l
  let t := s.tile l
  if !t.live || !t.faulted || t.poisoned || (t.stop == .draining && (s.taskOn l).all Task.parked) then s
  else
    let s := if t.stop == .draining then s.parkTask l else s.stopAll l
    match s.taskOn l with
    | some p => s.carryAbort (s.ctxOf l) p l
    | none => s

/-- R337: the drain strand has come to a bar or xsend bundle, or waits for a barrier. -/
def State.abortPoint (s : State) (l : Nat) : Bool :=
  let t := s.tile l
  t.nx.barWait.isSome || ((t.strand .drain).mayIssue && match decodeBundle (mget t.drain.store t.drain.pc 0) with
    | .error _ => false
    | .ok b => (staticCheck .drain t b).isNone && s.bundleReady l .drain b && abortsAt t (firings (s.performed l .drain b)))

/-- DOMAIN_ABORT (R337): the fault carried to tile `l` arrives at its next bar or xsend bundle, or at the barrier that it waits for. -/
def execDomainAbort (s : State) : State :=
  let l := s.args.l
  if (s.tile l).abortPends && (s.tile l).live && s.abortPoint l then s.stopAll l else s

/-- DOMAIN_ABORT_DEADLINE (R337): the fault carried to tile `l` arrives 20 µs after the fault; a member in ENDING has no bundle boundary left at
which to take it, and is not stopped (R311). -/
def execDomainAbortDeadline (s : State) : State :=
  let l := s.args.l
  if (s.tile l).abortPends && (s.taskOn l).all (fun p => p.state != .ending) && (s.tile l).abort.any (fun a => decide (a.deadline ≤ s.time)) then s.stopAll l else s

/-! ### The end of a stop (R145, R317) -/

/-- R145, R311, R317: what a stop waits for on a tile before the image: nothing in flight, no action in progress, and every start action
done. -/
def State.stopSettled (s : State) (l : Nat) : Bool :=
  let t := s.tile l
  t.stop == .draining && allStrands.all (fun k => (t.strand k).run != .running) && t.quiet l s.cycle true &&
  t.regions.all (fun r => r.est == 2)

/-- The other members of a gang that stop with a tile have come as far, and the records of a faulting one go first (R298, R337). A member
that is not stopped has nothing in flight (R68). -/
def State.gangSettled (s : State) (c l : Nat) (t : Task) : Bool :=
  ((s.ctx c).members t).all (fun p => match s.onTile c p with
    | none => true
    | some m => m == l || p.state == .ending || ((s.tile m).stop == .none && (s.tile m).abort.isNone && (!(s.tile m).live || (s.tile m).finished m s.cycle)) ||
        (s.stopSettled m && (!(s.tile m).faulted || (s.tile l).faulted)))

/-- R142, R143, R337, R419: the records of a stopped tile: its strands' faults in order, and the fault of the whole task. -/
def Tile.records (e : Tile) (t : Task) (l : Nat) : List FaultRecord :=
  allStrands.filterMap (fun k => (e.strand k).fault.map (fun f => faultRecord f (strandNum k) (e.strand k).pc t.idWord l t.ts)) ++
  (match e.abort with
   | some a => if a.code == .watchdog || !e.faulted then [faultRecord ⟨a.code, .asynchronous, 0, a.detail, none, false⟩ 3 0 t.idWord l t.ts] else []
   | none => [])

/-- What Scarab keeps of a stopped task beside its image: messages held for its mailboxes and by its tile, the arrival at a barrier, the
strands whose next bundle has waited on an empty head, those whose single step is still to issue, and the entries sent in this instance of
the phase (R138, R139, R152, R279, R290, R298, R301). -/
def Task.stoppedOn (t : Task) (e : Tile) (l : Nat) : Task :=
  { t with
    state := .stopped, hasImage := true, noticed := none, ltn := none,
    heldMail := (e.stopMessages l .cpi).map (fun h => (.cpi, h.1, h.2)) ++ (e.stopMessages l .cpo).map (fun h => (.cpo, h.1, h.2)),
    agentMail := e.mailHeld,
    heldOut := e.nx.held, mtab := e.nx.mtab.toList, barrier := e.nx.barWait.map (·.2), lodWaits := allStrands.filter (fun k => (e.strand k).lodWait),
    steps := allStrands.filter (fun k => (e.strand k).stepping && !(e.strand k).stepDone), sentIdx := e.nx.sentIdx, stPorts := e.openPorts }

/-- STOP_COMPLETE (R145, R239, R311, R317): the stop of tile `l` completes: the latches lose bytes written in the cycle, then stop actions,
the image, the fault records; the task is STOPPED and leaves the tile. A task stopped while it resumes keeps the image that it has. -/
def execStopComplete (s : State) : State :=
  let l := s.args.l
  let c := s.ctxOf l
  match s.taskOn l with
  | none => s
  | some t =>
    if !s.stopSettled l || !s.gangSettled c l t || (s.ctx c).recovery.isSome then s
    else
      let recs := (s.tile l).records t l
      let s := s.modTile l (fun e => { e with mx := e.mx.settle })
      if !(s.tile l).live && t.hasImage then
        let e := s.tile l
        ((s.leaveTile c t.uid).modTask c t.uid (fun p =>
          { p with state := .stopped, ltn := none, noticed := none, agentMail := p.agentMail ++ e.mailHeld })).addFaults c recs
      else
        let s := if (s.tile l).live then s.stopActions c l t else s.modTile l (fun e => e.startTask t ((s.ctx c).imageFor t.code))
        let s := s.writeImage c l (t.slot.getD 0)
        let e := s.tile l
        ((s.leaveTile c t.uid).modTask c t.uid (fun p => p.stoppedOn e l)).addFaults c recs

/-! ### Resume (R149, R317) -/

/-- The stopped members that resume with a task: its gang's, or the task alone. -/
def Context.stoppedMembers (x : Context) (t : Task) : List Task := (x.members t).filter (fun p => p.state == .stopped)

/-- R149, R310: places stopped tasks in their slots: a gang on a free rectangle, each member in its place of it. -/
def State.placeStopped (s : State) (c : Nat) (t : Task) : State :=
  let ms := (s.ctx c).stoppedMembers t
  match s.choose t with
  | none => s
  | some ls =>
    let o := ls.headD 0
    let at1 := fun (p : Task) => if p.gang then ({ p with origin := o } : Task).memberTile p.gidx else o
    let s := ms.foldl (fun s p => s.occupy c p (at1 p) (p.slot.getD 0) o) s
    match s.domains.find? (fun p => t.gang && p.2.ctx == c && p.2.gangUid == t.gangUid) with
    | some p => { s with domains := mput s.domains p.1 { p.2 with members := ls } }
    | none => s

/-- R298, R301: a member that waited for a barrier waits again, its arrival standing, and the entries that it has sent stay sent. -/
def Tile.rejoin (e : Tile) (t : Task) : Tile :=
  let e := { e with nx := { e.nx with sentIdx := t.sentIdx } }
  match t.barrier with
  | none => e
  | some w =>
    let id := e.drain.nextId
    { e.modStrand .drain (fun st => st.fly none .nxSres (res64 0) true) with nx := { e.nx with barWait := some (id, w) } }

/-- R149: loads a placed task's stores and image and starts its strands. -/
def State.startResumed (s : State) (c l : Nat) (t : Task) : State :=
  let s := s.resumeActions c l t
  let im := s.imageAt c (t.slot.getD 0)
  let now := s.firstCycle
  let fpc := Config.value s.free
  (s.bump.modTile l (fun e =>
    let mail := t.agentMail ++ e.mailHeld
    let e := (e.loadStores ((s.ctx c).imageFor t.code)).loadImage im t now fpc
    let e := mail.foldl (fun e m => e.modStrand m.1 (fun st => { st with mailHeld := st.mailHeld ++ [m.2] })) e
    let e := allStrands.foldl (fun e k => e.modStrand k (fun st =>
      { st.resumeAtCycle now with lodWait := t.lodWaits.contains k, stepping := st.stepping || t.steps.contains k })) e
    { (e.rejoin t) with live := true, since := now })).modTask c t.uid (fun p =>
      { p with
        state := .running, started := s.cycle, heldMail := [], agentMail := [], heldOut := [], mtab := [], barrier := none, lodWaits := [], steps := [],
        sentIdx := [], stPorts := [] })

/-- R347, R348, R351: a line of the image of a task that resumes is poisoned or fenced. Its bytes reach no register and no SPM byte, so that no strand
starts; the feed strand's MEM_POISON, at its entry bundle as for a STAGE_IN fill, leads to what R331 gives for the line, which has no virtual
address but the one that the driver gave it (DEDUCED, entry 30). -/
def State.imagePoison (s : State) (c : Nat) (t : Task) (pl : Nat) : State :=
  let x := s.ctx c
  let l := (s.onTile c t).getD 0x7FF
  let f : FaultInfo := ⟨.memPoison, .deferred, t.entryF, word (pl * 128), none, false⟩
  s.recover c ⟨if x.log.any (fun r => r.1 == pl) then [] else [t.kid], true, [faultRecord f 0 t.entryF t.idWord l t.ts], l, [], [], false⟩

/-- The images of some tasks are read, one after the other, up to the first that meets poison. -/
def State.readImages (s : State) (c : Nat) (ts : List Task) : State × Option (Task × Nat) :=
  ts.foldl (fun r t => match r with
    | (s, some p) => (s, some p)
    | (s, none) => match s.readImage c (t.slot.getD 0) with
      | (s, pl) => (s, pl.map (fun n => (t, n)))) (s, none)

/-- R412: a fault record of a task is held for a full fault queue. -/
def Context.recordHeld (x : Context) (t : Task) : Bool :=
  x.fqHeld.any (fun r => decide (field r.w1 63 32 = t.idWord) && r.w3 == t.ts)

/-- TASK_RESUME (R142, R149, R304, R314, R317, R403, R412): task `uid` of context `c`, with its gang, is placed where it is STOPPED and not parked,
or its owner asks (`flag`), once no record of it is held; placed with an image, it starts again when its dependences are satisfied and every
record is DONE. -/
def execTaskResume (s : State) : State :=
  let a := s.args
  let x := s.ctx a.c
  match x.task? a.uid with
  | none => s
  | some t =>
    if x.ckpt || x.recovery.isSome then s
    else if t.state == .stopped && (a.flag || !t.parked) then
      if t.marked then s.codeGone a.c t
      else
        let ms := x.stoppedMembers t
        let s := if a.flag then ms.foldl (fun s p => s.modTask a.c p.uid (fun p => { p with parked := false })) s else s
        let waits := s.ctxs.any (fun p => p.2.tasks.any (fun q => q.state == .ready && !q.parked && !q.marked &&
          s.placesBefore (p.1, q) (a.c, t) && (s.placement p.1 q).isSome))
        let busy := (x.members t).any (fun p => p.state == .running || p.state == .starting)
        if waits || busy || ms.any x.recordHeld then s else s.placeStopped a.c t
    else if (t.state == .waiting || t.state == .ready) && a.flag && !x.recordHeld t then s.modTask a.c a.uid (fun t => { t with parked := false })
    else if t.state == .starting && t.hasImage then
      let ms := (x.members t).filter (fun p => p.state == .starting && p.hasImage)
      if ms.all (fun p => (s.onTile a.c p).any (fun l => (s.tile l).stop == .none) && (s.regionsOf a.c p).all (fun r => r.est == 2) &&
          (p.speculating || s.depsMet a.c p)) then
        match s.readImages a.c ms with
        | (s, some p) => s.imagePoison a.c p.1 p.2
        | (s, none) => ms.foldl (fun s p => match s.onTile a.c p with | some l => s.startResumed a.c l p | none => s) s
      else s
    else s

/-! ### Pre-emption, watchdog, hang probes -/

/-- R310, R311: of two running tasks, which is pre-empted first: on a tie of PRIO the one whose strands started last, at placement or at a resume. -/
def victimBefore (a b : Task) : Bool := decide (a.prio < b.prio) || (decide (a.prio = b.prio) && decide (b.started < a.started))

/-- The first of a list under an order. -/
def firstBy {α : Type} (f : α → α → Bool) : List α → Option α
  | [] => none
  | a :: r => match firstBy f r with
    | none => some a
    | some b => if f b a then some b else some a

/-- PREEMPT_NOTICE (R310, R311, R324, R298): READY task `uid` of context `c` has waited 100 µs: the running task of lowest PRIO, the
one that started last, gets its notice 20 µs before the token, with its gang; an uncommitted speculative one is aborted instead. -/
def execPreemptNotice (s : State) : State :=
  let a := s.args
  match (s.ctx a.c).task? a.uid with
  | none => s
  | some t =>
    let all := s.ctxs.flatMap (fun p => p.2.tasks.map (fun q => (p.1, q)))
    let run := all.filter (fun p => p.2.state == .running && decide (p.2.prio < t.prio) &&
      (s.onTile p.1 p.2).any (fun l => (s.tile l).stop == .none && s.mayStop l))
    let pending := all.any (fun p => p.2.noticed.isSome)
    if t.state != .ready || t.parked || !s.elapsed t.readyAt 100000 || (s.placement a.c t).isSome || pending then s
    else match firstBy (fun p q => victimBefore p.2 q.2) run with
    | none => s
    | some (c, v) =>
      if v.speculating then s.abortSpec c [v.uid] ((s.ctx c).tasks.length + 1)
      else ((s.ctx c).members v).foldl (fun s p =>
        match s.onTile c p with
        | some l =>
          if p.state != .running then s
          else (s.modTask c p.uid (fun p => { p with noticed := some s.time })).modTile l (fun e =>
            e.modStrand .drain (fun st => { st with mailHeld := st.mailHeld ++ [mailWord 4 0xFFF (2 ^ 40 + s.cyclesOf 20000 % 2 ^ 32)] }))
        | none => s) s

/-- R419: a placed task of a hung kernel is stopped as for pre-emption, with a WATCHDOG record, and stays stopped; where a stop is under way
already, it gets the record with it, and at once where that stop has a DOMAIN_ABORT record to write. -/
def State.stopHung (s : State) (c l : Nat) (t : Task) (hang : FaultInfo) : State :=
  let e := s.tile l
  let s := s.modTask c t.uid (fun t => { t with parked := true, noticed := none })
  match e.abort with
  | some a => if a.code = .watchdog then s else s.addFaults c [faultRecord hang 3 0 t.idWord l t.ts]
  | none => s.modTile l (fun e => { e with stop := if e.stop = .none then .requested else e.stop, abort := some ⟨.watchdog, hang.detail, s.time⟩ })

/-- WATCHDOG (R311, R419): kernel `n` of context `c` has run for WDOG ms and not completed in that millisecond (DEDUCED, entry 29: Stag acts at
its end): each of its placed tasks is stopped as for pre-emption, with a WATCHDOG record, an uncommitted speculative one aborted
instead, and the limit counts anew. -/
def execWatchdog (s : State) : State :=
  let a := s.args
  let x := s.ctx a.c
  match x.kernels.find? (fun k => k.kid == a.n && k.alive) with
  | none => s
  | some k =>
    let wdog := x.wdog.toNat
    if wdog = 0 ∨ !s.elapsed k.startedAt ((wdog + 1) * 1000000) then s
    else
      let s := s.modCtx a.c (fun x => { x with kernels := x.kernels.map (fun j => if j.kid = a.n then { j with startedAt := s.time } else j) })
      (x.tasks.filter (fun t => t.kid == a.n && (t.state == .running || t.state == .starting))).foldl (fun s t =>
        match s.onTile a.c t with
        | some l =>
          let hang : FaultInfo := ⟨.watchdog, .asynchronous, 0, x.wdog, none, false⟩
          if t.speculating then
            ((s.modTask a.c t.uid (fun t => { t with parked := true })).addFaults a.c [faultRecord hang 3 0 t.idWord l t.ts]).abortSpec a.c [t.uid]
              (x.tasks.length + 1)
          else if (s.tile l).stop == .aborting then s
          else s.stopHung a.c l t hang
        | none => s) s

/-- HANG_PROBE (R419): Stag probes tile `l`, 1 ms after it probed it last; the tile answers (`flag`) or fails, and after 10 failures in a row it is
fenced. -/
def execHangProbe (s : State) : State :=
  let l := s.args.l
  if !s.elapsed (s.tile l).probedAt 1000000 then s
  else
  let s := s.modTile l (fun t => { t with probedAt := s.time })
  if s.args.flag then s.modTile l (fun t => { t with probes := 0 })
  else
    let s := s.modTile l (fun t => { t with probes := t.probes + 1 })
    if 10 ≤ (s.tile l).probes then execTileFence s else s

end Sys2Proof.Machine
end

