-- ==== Sys2Proof/Machine/Stacks.lean ====
section
/-! DEFINITION. The memory stacks in service (R339 to R351): the window table, refresh, activation counts, the patrol scrub, the
row-remap table and fenced pseudo-channels; and the counts that Stag keeps (R421). -/

namespace Sys2Proof.Machine

/-! ### Stacks -/

/-- The stack that a step names. -/
def State.argStack (s : State) : Fin 16 := Fin.ofNat 16 s.args.n

/-- The key of a row of a bank. -/
def rowKey (bank row : Nat) : Nat := bank * 2 ^ 16 + row

/-- R339: the physical rows of a bank: 49,152 and then 32 spare rows. -/
def physicalRows : Nat := 49184

/-- R349: the row that an activate of a row reaches, after remapping. -/
def Stack.physicalRow (k : Stack) (bank row : Nat) : Nat :=
  match (List.range 32).find? (fun i => mget k.remap (32 * bank + i) 0 == BitVec.ofNat 32 (2 ^ 31 + row % 2 ^ 16)) with
  | some i => 49152 + i
  | none => row

/-- R345: a refreshed row's count is zero. -/
def Stack.refreshRow (k : Stack) (bank row : Nat) : Stack := { k with acts := mdel k.acts (rowKey bank row) }

/-- R344: the interval between the refreshes of a bank, in ns. -/
def Stack.interval (k : Stack) : Nat := if k.hot then 1950 else 3900

/-- R351: the pseudo-channel of a bank of a stack accepts no activate. -/
def Stack.bankFenced (k : Stack) (bank : Nat) : Bool := k.fenced.contains (2 * (bank % 1024 / 32) + bank / 16 % 2)

/-- Holds a bank for so many ns from a time, or from the end of the hold that it is in (R344, R345); holds that are over are forgotten. -/
def Stack.hold (k : Stack) (bank now ns : Nat) : Stack :=
  { k with held := mput (k.held.filter (fun p => decide (now < p.2))) bank (max now (mget k.held bank 0) + 342 * ns) }

/-- A refresh or back-off holds a bank. -/
def Stack.bankHeld (k : Stack) (bank now : Nat) : Bool := decide (now < mget k.held bank 0)

/-- The rows that a refresh of a bank takes in its turn (R344): six of the 49,152, and in the first 32 turns of 8,192 a spare row, so that
every row is refreshed within 8,192 intervals, 32 ms. The order is the model's (DESIGN CHOICE, entry 28). -/
def refreshRows (turn : Nat) : List Nat := (List.range 6).map (6 * (turn % 8192) + ·) ++ (if turn % 8192 < 32 then [49152 + turn % 8192] else [])

/-- The bank whose refresh comes next. -/
def Stack.nextBank (k : Stack) : Nat := k.refreshes % 1024

/-- R344, R345: a refresh of a bank in its turn, which holds it for 120 ns. -/
def Stack.refresh (k : Stack) (now bank turn : Nat) : Stack := ((refreshRows turn).foldl (fun k r => k.refreshRow bank r) k).hold bank now 120

/-- R345: the rows at distance 1 and 2 of a physical row, on both sides. -/
def nearRows (r : Nat) : List Nat := ([r - 2, r - 1, r + 1, r + 2]).filter (fun x => x != r && decide (x < physicalRows) && decide (r ≤ x + 2))

/-- R345: the back-off of a bank for a physical row: its neighbours are refreshed, its count is zero, and the bank is held for 250 ns. -/
def Stack.backOff (k : Stack) (now bank r : Nat) : Stack :=
  ((nearRows r).foldl (fun k x => k.refreshRow bank x) (k.refreshRow bank r)).hold bank now 250

/-- R344: when the time has come, the bank whose turn it is owes a refresh; a fenced one is passed over (R351). -/
def Stack.takeTurn (k : Stack) (now : Nat) : Stack :=
  if now < k.nextRefresh then k
  else
    { k with
      refreshes := k.refreshes + 1, nextRefresh := k.nextRefresh + 342 * k.interval / 1024,
      owed := if k.bankFenced k.nextBank then k.owed else k.owed ++ [(k.nextBank, k.refreshes / 1024)] }

/-- R344 to R346, R368: every bank that is free takes the refresh that it owes, and after it the back-off that waits; the others keep waiting,
and hold up no bank but their own. A fenced bank accepts no activate (R351). -/
def Stack.serve (k : Stack) (now : Nat) (free : Nat → Bool) : Stack :=
  let ready := fun (p : Nat × Nat) => free p.1 && !k.bankFenced p.1
  let waits := fun (p : Nat × Nat) => !free p.1 && !k.bankFenced p.1
  let k' := { k with owed := k.owed.filter waits, backOffs := k.backOffs.filter waits }
  (k.backOffs.filter ready).foldl (fun k p => k.backOff now p.1 p.2) ((k.owed.filter ready).foldl (fun k p => k.refresh now p.1 p.2) k')

/-- A bank is free for a refresh or back-off: neither holds it and no Weevil row read of it is in progress. -/
def State.bankFree (s : State) (n : Fin 16) (bank : Nat) : Bool := !(s.stack n).bankHeld bank s.time && !s.rowOpen n.val bank

/-- BANK_REFRESH (R344, R345, R346, R351, R368): the next bank of stack `n` owes a refresh when its time has come; the banks take turns, each once in
an interval. Those that are free take what they owe. -/
def execBankRefresh (s : State) : State := s.modStack s.argStack (fun k => (k.takeTurn s.time).serve s.time (s.bankFree s.argStack))

/-- ROW_HAMMER_ALERT (R345): a precharge of row `row` of bank `id` of stack `n` raises its count; at ACTTH the alert refreshes the four
neighbours of the row, taken after remapping, resets its count and holds the bank for 250 ns, after a refresh of the bank that is due and after a
Weevil row read in progress (R346, R368). A fenced bank accepts no activate (R351), and nothing is issued to a held one or to one that a back-off
waits for. -/
def execRowHammerAlert (s : State) : State :=
  let a := s.args
  let n := s.argStack
  let k := s.stack n
  let r := k.physicalRow a.id a.row
  if k.bankFenced a.id || k.bankHeld a.id s.time || k.backOffs.any (fun p => p.1 == a.id) then s
  else
  let v := mget k.acts (rowKey a.id r) 0 + 1
  if v < k.actth then s.modStack n (fun k => { k with acts := mput k.acts (rowKey a.id r) v })
  else
    (s.modStack n (fun k =>
      let k := if k.nextBank = a.id then k.takeTurn s.time else k
      let k := { k with backOffs := k.backOffs ++ [(a.id, r)] }.serve s.time (fun b => b == a.id && s.bankFree n b)
      { k with alerts := mput k.alerts a.id (mget k.alerts a.id 0 + 1) })).count .rowAlert (n.val / 2)

/-- STACK_TEMPERATURE_REPORT (R344): stack `n` reports whether it is above 85 °C. -/
def execStackTemperatureReport (s : State) : State := s.modStack s.argStack (fun k => { k with hot := s.args.flag })

/-! ### Errors (R347, R348) -/

/-- The code words of HBM. -/
def codeWords : Nat := hbmSize / 32

/-- The units of time in 24 hours. -/
def dayUnits : Nat := 342 * 86400000000000

/-- R347: the next read of the patrol scrub is due, so that it reads every code word once in 24 hours. -/
def State.scrubDue (s : State) : Bool := decide (s.scrubbed * dayUnits ≤ s.time * codeWords)

/-- PATROL_SCRUB (R347): the scrub reads the next code word, and treats an error as any read does. With `flag` an error `err` appears in the
code word at byte `addr` of HBM, which the next read of it meets. -/
def execPatrolScrub (s : State) : State :=
  let a := s.args
  if a.flag then
    if hbmSize ≤ a.addr then s
    else { s with latent := if a.err == .clean then mdel s.latent (a.addr / 32) else mput s.latent (a.addr / 32) a.err }
  else if s.scrubDue then { s.readWord32 (s.scrubbed % codeWords) with scrubbed := s.scrubbed + 1 }
  else s

/-! ### The window table (R340) -/

/-- R340: the defined bits of an entry. -/
def windowEntry (v : Word) : Word := v &&& 5

/-- A context holds a translation into a window. -/
def Context.mapsWindow (x : Context) (n : Nat) : Bool := x.xlates.any (fun e => overlap (e.pa, e.size) (n * 2 ^ 30, 2 ^ 30))

/-- Writes zero into a whole window: its errors and poison marks are gone and no die cache keeps a line of it. -/
def State.clearWindow (s : State) (n : Nat) : State :=
  let inW := fun (a : Nat) => decide (n * 2 ^ 30 ≤ a) && decide (a < (n + 1) * 2 ^ 30)
  let s := { s with
    mem := s.mem.filter (fun p => !inW p.1), poison := s.poison.filter (fun q => !inW (q * 128)), latent := s.latent.filter (fun p => !inW (p.1 * 32)) }
  (List.finRange 8).foldl (fun s d => s.modDie d (fun e => { e with cache := e.cache.filter (fun p => !inW (p.1 * 128)) })) s

/-- The windows that a change concerns: a whole aligned group, whose IL changes together, or one window. -/
def windowsOf (n : Nat) (group : Bool) : List Nat := if group then (List.range 16).map (n / 16 * 16 + ·) else [n]

/-- WINDOW_TABLE_CHANGE (R340): Stag sets entry `n`, or with `flag` its whole aligned group, to `v`, and zeroes the windows; not where a
context maps one of them or the group's IL values would differ. -/
def execWindowTableChange (s : State) : State :=
  let a := s.args
  let ws := windowsOf a.n a.flag
  let il := fun (k : Nat) => bit (mget s.wintab k 0) 0
  if 768 ≤ a.n ∨ ws.any (fun k => s.ctxs.any (fun p => p.2.mapsWindow k)) ∨ (!a.flag ∧ il a.n ≠ bit a.v 0) then s
  else ws.foldl (fun s k => { s with wintab := mputD 0 s.wintab k (windowEntry a.v) }.clearWindow k) s

/-! ### The row-remap table (R349, R350) -/

/-- ROW_REMAP (R349): Stag copies row `row` of bank `id` of stack `n` into spare `uid` and then sets the entry in both copies. No byte
changes; the spare takes the row's activation count with its bits. -/
def execRowRemap (s : State) : State :=
  let a := s.args
  let n := s.argStack
  let key := 32 * a.id + a.uid
  if 32 ≤ a.uid ∨ 49152 ≤ a.row ∨ 1024 ≤ a.id ∨ bit (mget (s.stack n).remap key 0) 31 then s
  else s.modStack n (fun k =>
    let old := k.physicalRow a.id a.row
    let e := BitVec.ofNat 32 (2 ^ 31 + a.row)
    { k with
      remap := mput k.remap key e, remap2 := mput k.remap2 key e,
      acts := match mfind k.acts (rowKey a.id old) with | some v => mput k.acts (rowKey a.id (49152 + a.uid)) v | none => k.acts })

/-! ### Fenced pseudo-channels (R351) -/

/-- A line lies wholly or partly in a pseudo-channel of a stack. -/
def State.lineIn (s : State) (pl : Nat) (stack pch : Nat) : Bool :=
  decide (pl * 128 < hbmSize) && [0, 32].any (fun o =>
    let b := s.bankPlace (pl * 128 + o)
    decide (b.stack = stack) && decide (2 * b.channel + b.pc = pch))

/-- A range of a context is mapped onto a pseudo-channel. -/
def State.rangeIn (s : State) (x : Context) (va n stack pch : Nat) : Bool := (x.lines va n).any (fun pl => s.lineIn pl stack pch)

/-- R351: a context whose kernels hold a region mapped onto a pseudo-channel is rolled back; at the end of the rollback it lets go of the
pages there, and the tasks that declare them wait in ACCEPTED for the driver (`State.dropFenced`, `Context.returning`). -/
def State.leaveChannel (s : State) (c stack pch : Nat) : State :=
  let x := s.ctx c
  let hit := fun (t : Task) => t.state != .aborted && t.regions.any (fun r => s.rangeIn x r.base r.extent stack pch)
  if x.tasks.any hit then s.recover c ⟨[], true, [], 0x7FF, [], [], false⟩ else s

/-- PSEUDO_CHANNEL_FENCE (R350, R351): the row-remap entry of spare `uid` of bank `id` of stack `n` is read; `err` is what the first copy
shows and `flag` says that the second is uncorrectable. One good copy is used and rewrites the other; otherwise, or where good
copies differ, the bank's pseudo-channel is fenced. Stag's report of it is its list of fenced pseudo-channels, for which the manual gives
no register (entry 28). -/
def execPseudoChannelFence (s : State) : State :=
  let a := s.args
  let n := s.argStack
  let k := s.stack n
  let key := 32 * a.id + a.uid
  let e1 := mget k.remap key 0
  let e2 := mget k.remap2 key 0
  let bad1 := a.err == .uncorrectable
  if bad1 && !a.flag then (s.modStack n (fun k => { k with remap := mputD 0 k.remap key e2 })).count .corrected (n.val / 2)
  else if !bad1 && a.flag then (s.modStack n (fun k => { k with remap2 := mputD 0 k.remap2 key e1 })).count .corrected (n.val / 2)
  else if !bad1 && e1 == e2 then s
  else
    let pch := 2 * (a.id % 1024 / 32) + a.id / 16 % 2
    let s := s.modStack n (fun k => { k with fenced := if k.fenced.contains pch then k.fenced else k.fenced ++ [pch] })
    (s.ctxs.map (·.1)).foldl (fun s c => s.leaveChannel c n.val pch) s

end Sys2Proof.Machine
end

