-- ==== Sys2Proof/Machine/Manage.lean ====
section
/-! DEFINITION. Host link, firmware and management (R406 to R421): BAR0 registers and BAR2, queues and vectors, host messages, the
debug interface, boot, attestation, the power governor and firmware updates. -/

namespace Sys2Proof.Machine

/-! ### Translations that the driver writes (R71, R308) -/

/-- A page that holds a pinned 2 MiB unit or a page of a registered image: its translation does not change (R308, R399). -/
def Context.keeps (x : Context) (va size : Nat) : Bool :=
  x.pins.any (fun p => decide (va ≤ p.1) && decide (p.1 < va + size)) || touchesPage x.imagePages va size

/-- A translation is well-formed (R71). -/
def validXlate (e : Xlate) : Bool :=
  (e.size == 2 ^ 21 || e.size == 2 ^ 30) && decide (e.va % e.size = 0) && decide (e.pa % e.size = 0) &&
  decide (e.va + e.size ≤ 2 ^ 48) && decide (e.pa + e.size ≤ 2 ^ 48)

/-- The driver writes an entry of the translation table: a page of 2 MiB or 1 GiB; one of size 0 invalidates the page that holds its
address. A pinned translation does not change (R308), and no other translation maps the physical pages `images` of the registered images
(R399). -/
def Context.setXlate (x : Context) (images : List (Nat × Nat)) (e : Xlate) : Context :=
  let hit := fun (o : Xlate) => if e.size = 0 then decide (o.va ≤ e.va) && decide (e.va < o.va + o.size) else overlap (o.va, o.size) (e.va, e.size)
  if x.xlates.any (fun o => hit o && x.keeps o.va o.size) then x
  else if e.size = 0 then { x with xlates := x.xlates.filter (fun o => !hit o) }
  else if validXlate e && !touchesPage images e.pa e.size then { x with xlates := x.xlates.filter (fun o => !hit o) ++ [e] }
  else x

/-- A task that has not retired declares a page in a LAZY record (R309). -/
def Context.lazyPage (x : Context) (e : Xlate) : Bool :=
  x.tasks.any (fun t => !t.state.over && t.regions.any (fun r => r.lazyMap && overlap (r.base, r.extent) (e.va, e.size)))

/-- No translation of any context, and no registered image, reaches the physical page of an entry. -/
def State.unmapped (s : State) (e : Xlate) : Bool :=
  s.ctxs.all (fun q => q.2.xlates.all (fun o => !overlap (o.pa, o.size) (e.pa, e.size))) && !touchesPage s.imagePhysical e.pa e.size

/-- The translation that a step brings, if any. The region TLBs forget a translation of the context that has changed, but one of a LAZY
region in use, which the driver must not change, may stay until its place is taken (R309; entry 26), as long as its page reaches no page that a
translation of any context or a registered image covers: what a driver's fault does stays within its context (R5). -/
def State.withXlate (s : State) (c : Nat) : State :=
  match s.args.xlate with
  | none => s
  | some e =>
    let s := s.modCtx c (fun x => x.setXlate s.imagePhysical e)
    let x := s.ctx c
    { s with dies := s.dies.map (fun d => { d with tlb := d.tlb.filter (fun p =>
      (s.ctx p.1).xlates.contains p.2 || ((p.1 != c || x.lazyPage p.2) && s.unmapped p.2)) }) }

/-! ### Features and limits (R407, R409, R418) -/

/-- R409: the offered features. -/
def featCap (k : Fin 4) : Word := if k = 0 then 0xFF else 0

/-- FEAT_ACC_WRITE (R409): the first write of `v` to FEAT_ACC`n` since reset is stored, masked by FEAT_CAP`n`. -/
def execFeatAccWrite (s : State) : State :=
  let k : Fin 4 := Fin.ofNat 4 s.args.n
  match s.featAcc[k.val] with
  | some _ => s
  | none => { s with featAcc := s.featAcc.set k.val (some (s.args.v &&& featCap k)) k.isLt }

/-- FEAT_ACCk as read. -/
def State.featAccept (s : State) (k : Fin 4) : Word := s.featAcc[k.val].getD 0

/-- R407: a limit in W as PWRLIM stores it. -/
def clampPower (v : Word) : Nat := max 1000 (min 4200 (v.toNat % 2 ^ 16))

/-- PWRLIM_WRITE (R407, R418). -/
def execPwrlimWrite (s : State) : State := { s with pwrlim := clampPower s.args.v }

/-- DEVSTAT (R407). -/
def State.devstat (s : State) : Word := word (s.governor.step % 256 * 256 + b2n s.recovery * 2 + b2n s.ready)

/-! ### Context pages (R408) -/

/-- The tile and strand that DBGSEL selects, where a task of the context holds the tile (R408). -/
def State.debugTarget (s : State) (c : Nat) : Option (Nat × StrandId) :=
  let w := (s.ctx c).dbgsel
  let l := field w 10 0
  if (s.tile l).owner.any (fun o => o.1 == c) && (s.tile l).live && decide (field w 17 16 ≠ 3) then some (l, targetStrand (word (field w 17 16)))
  else none

/-- A debug register of the selected strand (R150, R408): DBGCTL, then BPA0 to BPA3. -/
def Strand.setDebug (st : Strand) (i : Nat) (v : Word) : Strand :=
  if i = 0 then { st with dbgctl := v &&& 31 }
  else if h : i - 1 < 4 then { st with bpa := st.bpa.set (i - 1) (v &&& word (2 ^ 63 + 2047)) h } else st

/-- A word of an export (R408): BASE, EXTENT, MODE. -/
def Export.setWord (e : Export) (j : Nat) (v : Word) : Export :=
  match j with
  | 0 => { e with base := v.toNat }
  | 1 => { e with extent := v.toNat }
  | _ => { e with mode := field v 1 0 }

/-- A write of a context register with no behaviour of its own (R408). RW-off registers take it only while EN = 0. -/
def Context.writeReg (x : Context) (off : Nat) (v : Word) : Context :=
  let x' := match off with
    | 0x090 => { x with msix := v &&& 0x07FF07FF }
    | 0x098 => { x with wdog := v }
    | 0x0A8 => { x with hmsgt := v &&& 0x307FF }
    | 0x280 => { x with dbgsel := v &&& 0x307FF }
    | 0x2B8 => { x with trbase := v, trpos := 0 }
    | 0x2C0 => { x with trsize := v, trpos := 0 }
    | _ => x
  if x.en then x'
  else match off with
    | 0x008 => { x with ptbase := v }
    | 0x010 => { x with logbase := v }
    | 0x018 => { x with logsize := v }
    | 0x020 => { x with imgbase := v }
    | 0x028 => { x with imgsize := v }
    | 0x030 => { x with lqbase := v }
    | 0x038 => { x with lqcfg := v &&& 31 }
    | 0x050 => { x with cqbase := v }
    | 0x058 => { x with cqcfg := v &&& 31 }
    | 0x070 => { x with fqbase := v }
    | 0x078 => { x with fqcfg := v &&& 31 }
    | _ =>
      if 0x100 ≤ off ∧ off < 0x280 ∧ off % 8 = 0 then
        { x with exports := Vector.ofFn (fun (k : Fin 16) =>
            if (off - 0x100) / 24 = k.val then x.exports[k.val].setWord ((off - 0x100) / 8 % 3) v else x.exports[k.val]) }
      else x'

/-- The offsets of a context page that R408 lists. -/
def listedContextReg (off : Nat) : Bool :=
  decide (off % 8 = 0) && (decide (off ≤ 0xB0) || (decide (0x100 ≤ off) && decide (off < 0x280)) || (decide (0x280 ≤ off) && decide (off ≤ 0x2C0)))

/-- The offsets of the global page that R407 lists. -/
def listedGlobalReg (off : Nat) : Bool :=
  decide (off % 8 = 0) && (decide (off ≤ 0x90) || (decide (0x1000 ≤ off) && decide (off < 0x1000 + 8 * 768)))

/-- A global register as the host reads it (R407). -/
def State.readGlobalReg (s : State) (off : Nat) : Word :=
  if off ≤ 0x18 then featCap (Fin.ofNat 4 (off / 8))
  else if off = 0x20 then s.featAccept 0
  else if off = 0x28 then s.devstat
  else if off = 0x30 then word s.pwrlim
  else if off = 0x38 then word (s.pwrnow % 2 ^ 16)
  else if off < 0x80 then (Config.temperature (8 * s.cycle + (off - 0x40) / 8)).setWidth 64
  else if off ≤ 0x90 then s.featAccept (Fin.ofNat 4 ((off - 0x80) / 8 + 1))
  else mget s.wintab ((off - 0x1000) / 8) 0

/-- Answers a host access. -/
def State.reply (s : State) (r : Reply) : State := { s with replies := s.replies ++ [r] }

/-- R421: what Stag keeps of a die, as the host and the board controller read it: temperature, power (free readings, entry 11) and the counts of clock
steps, corrected errors, row alerts and link replays. -/
def State.dieReading (s : State) (d k : Nat) : Word :=
  match k with
  | 0 => (Config.temperature (8 * s.cycle + d)).setWidth 64
  | 1 => (Config.power (8 * s.cycle + d)).setWidth 64
  | 2 => word (mget s.telemetry (Count.clockStep.key d) 0)
  | 3 => word (mget s.telemetry (Count.corrected.key d) 0)
  | 4 => word (mget s.telemetry (Count.rowAlert.key d) 0)
  | 5 => word (mget s.telemetry (Count.linkReplay.key d) 0)
  | _ => 0

/-- R421: the test access port. Instruction 0 is BYPASS, which shifts its input through one bit, and 1 is IDCODE; any other is BYPASS too unless
the configuration record enables test, and then a free value, for the manual names none (entry 18). -/
def State.testPort (s : State) (instr : Nat) (v : Word) : Word :=
  if instr = 1 then Config.idCode.setWidth 64
  else if s.testEnable && instr != 0 then word (Config.value s.free)
  else v <<< 1

/-- R421: the ways into the package beside BAR0, as offsets above it: the board controller reads value `addr` mod 8 of die `addr` div 8, or,
from 2^33 on, an instruction of the test access port takes `v`; from 2^34 on, the host reads such a value through the global page, for which R407 lists
no offset (entry 18). -/
def State.sideRead (s : State) : State :=
  let a := s.args
  if a.addr < 2 ^ 33 ∨ 2 ^ 34 ≤ a.addr then s.reply ⟨leBytes 8 (s.dieReading (a.addr / 8 % 8) (a.addr % 8)).toNat, false, false⟩
  else (s.reply ⟨leBytes 8 (s.testPort (a.addr - 2 ^ 33) a.v).toNat, false, false⟩).bump

/-- CTXCTL (R408). -/
def Context.ctl (x : Context) : Word := word (x.job % 2 ^ 16 * 2 ^ 16 + x.weight % 256 * 256 + b2n x.en)

/-- A context register as the host reads it (R408); a write-only one reads as zero. -/
def State.readContextReg (s : State) (c off : Nat) : Word :=
  let x := s.ctx c
  match off with
  | 0x000 => x.ctl | 0x008 => x.ptbase | 0x010 => x.logbase | 0x018 => x.logsize | 0x020 => x.imgbase | 0x028 => x.imgsize
  | 0x030 => x.lqbase | 0x038 => x.lqcfg | 0x040 => x.lqtail.setWidth 64 | 0x048 => x.lqhead.setWidth 64
  | 0x050 => x.cqbase | 0x058 => x.cqcfg | 0x060 => x.cqtail.setWidth 64 | 0x068 => x.cqhead.setWidth 64
  | 0x070 => x.fqbase | 0x078 => x.fqcfg | 0x080 => x.fqtail.setWidth 64 | 0x088 => x.fqhead.setWidth 64
  | 0x090 => x.msix | 0x098 => x.wdog | 0x0A8 => x.hmsgt | 0x280 => x.dbgsel | 0x2B8 => x.trbase | 0x2C0 => x.trsize
  | _ =>
    if 0x100 ≤ off ∧ off < 0x280 then
      let e := x.exports.toList.getD ((off - 0x100) / 24) ⟨0, 0, 0⟩
      match (off - 0x100) / 8 % 3 with
      | 0 => word e.base
      | 1 => word e.extent
      | _ => word e.mode
    else if 0x290 ≤ off ∧ off ≤ 0x2B0 then
      match s.debugTarget c with
      | some (l, k) =>
        let st := (s.tile l).strand k
        if off = 0x290 then st.dbgctl else st.bpa.toList.getD ((off - 0x298) / 8) 0
      | none => 0
    else 0

/-- REGISTER_WRITE (R407, R408, R406, R417): the host writes `v` to the register at BAR0 offset `addr`, or with `flag` reads it; with a
write the driver may change a translation. An unlisted offset is an Unsupported Request; before bring-up ends, a context page takes
no action. The registers that act when written have steps of their own. From 2^32 on it is a read of the board controller, of the test port, or
of the counts through the global page (R421). -/
def execRegisterWrite (s : State) : State :=
  let a := s.args
  if 2 ^ 32 ≤ a.addr then s.sideRead
  else if 0x100000 ≤ a.addr ∧ a.addr < 0x200000 then
    let c := (a.addr - 0x100000) / 0x1000
    let off := (a.addr - 0x100000) % 0x1000
    if !listedContextReg off then s.reply ⟨[], false, true⟩
    else if a.flag then s.reply ⟨leBytes 8 (s.readContextReg c off).toNat, false, false⟩
    else if !s.ready then s
    else
      let s := (s.withXlate c).modCtx c (fun x => x.writeReg off a.v)
      if 0x290 ≤ off ∧ off ≤ 0x2B0 then
        match s.debugTarget c with
        | some (l, k) => s.modTile l (fun t => t.modStrand k (fun st => st.setDebug ((off - 0x290) / 8) a.v))
        | none => s
      else s
  else if !listedGlobalReg a.addr then s.reply ⟨[], false, true⟩
  else if a.flag then s.reply ⟨leBytes 8 (s.readGlobalReg a.addr).toNat, false, false⟩
  else s

/-- R406: BAR0 has pages for contexts 0 to 255; an access to another is one to an unlisted offset. -/
def State.noPage (s : State) : Bool := decide (256 ≤ s.args.c)

/-- The answer to an access to an unlisted offset (R406). -/
def State.refuseAccess (s : State) : State := s.reply ⟨[], false, true⟩

/-- The weights of the fabric classes of a context at the start of a job: 1 and 1 on every link (R390). -/
def startShares : SMap Nat := (List.range 8).map (fun k => (k, 0x0101))

/-- CTXCTL (R408, R390): EN, WEIGHT and JOB of a context. Clearing EN is refused while a task or kernel of the context exists. -/
def Context.setCtl (x : Context) (v : Word) : Context :=
  let busy := x.kernels.any Kernel.alive || x.tasks.any (fun t => !t.state.over)
  { x with
    en := bit v 0 || (x.en && busy), weight := field v 15 8, job := field v 31 16,
    fxShare := if x.job = field v 31 16 ∧ (x.en ∨ !bit v 0) then x.fxShare else startShares }

/-- CTXCTL_WRITE (R408): the host writes `v` to CTXCTL of context `c`. With `flag` a driver of the fabric joins a context of another package
to a job, or takes it out (R370). -/
def execCtxctlWrite (s : State) : State :=
  let a := s.args
  if a.flag then s.hearPeer
  else if s.noPage then s.refuseAccess
  else if !s.ready then s
  else (s.withXlate a.c).modCtx a.c (fun x => x.setCtl a.v)

/-! ### Queues and vectors (R410 to R413) -/

/-- R410: the size check of a written count. -/
def countOk (cfg : Word) (tail head : BitVec 32) : Bool := decide (queueFill tail head ≤ queueSize cfg)

/-- LAUNCH_QUEUE_DOORBELL (R410): the host writes `v` to LQTAIL of context `c`. -/
def execLaunchQueueDoorbell (s : State) : State :=
  let a := s.args
  let n : BitVec 32 := a.v.setWidth 32
  if s.noPage then s.refuseAccess
  else if !s.ready then s
  else if countOk (s.ctx a.c).lqcfg n (s.ctx a.c).lqhead then s.modCtx a.c (fun x => { x with lqtail := n })
  else s.report a.c ⟨7, 0, n.toNat, 0, 0⟩

/-- CQHEAD_WRITE (R410, R411): the host writes `v` to CQHEAD of context `c`, and held entries go out. -/
def execCqheadWrite (s : State) : State :=
  let a := s.args
  let n : BitVec 32 := a.v.setWidth 32
  if s.noPage then s.refuseAccess
  else if !s.ready || !countOk (s.ctx a.c).cqcfg (s.ctx a.c).cqtail n then s
  else (s.modCtx a.c (fun x => { x with cqhead := n })).flushCq a.c (s.ctx a.c).cqHeld.length

/-- FQHEAD_WRITE (R410, R412): the host writes `v` to FQHEAD of context `c`, and held records go out. -/
def execFqheadWrite (s : State) : State :=
  let a := s.args
  let n : BitVec 32 := a.v.setWidth 32
  if s.noPage then s.refuseAccess
  else if !s.ready || !countOk (s.ctx a.c).fqcfg (s.ctx a.c).fqtail n then s
  else (s.modCtx a.c (fun x => { x with fqhead := n })).flushFq a.c (s.ctx a.c).fqHeld.length

/-- COMPLETION_VECTOR (R411, R412): the completion vector of context `c`, or with `flag` its fault vector, is raised for the entries
written since the last raise, at most once per microsecond; cqRaised and fqRaised are one more than the time of the last raise. -/
def execCompletionVector (s : State) : State :=
  let a := s.args
  let x := s.ctx a.c
  let due := fun (last : Nat) => decide (last = 0) || s.elapsed (last - 1) 1000
  let raise := fun (s : State) (v : Nat) => { s with irq := mput s.irq v (mget s.irq v 0 + 1) }
  if a.flag then
    if x.fqPending && due x.fqRaised then
      (raise s (field x.msix 26 16)).modCtx a.c (fun x => { x with fqPending := false, fqRaised := s.time + 1 })
    else s
  else if x.cqPending && due x.cqRaised then
    (raise s (field x.msix 10 0)).modCtx a.c (fun x => { x with cqPending := false, cqRaised := s.time + 1 })
  else s

/-- PGRESP_WRITE (R413): the driver answers a page request of context `c`, with the translation or with IMPOSSIBLE, which refuses the tasks
that wait for the page (R308). -/
def execPgrespWrite (s : State) : State :=
  let a := s.args
  let va := field a.v 47 0
  let u := va / 2 ^ 21 * 2 ^ 21
  if s.noPage then s.refuseAccess
  else if !s.ready || !(s.ctx a.c).requests.contains u then s
  else
    let s := s.modCtx a.c (fun x => { x with requests := x.requests.filter (fun q => q != u), pgresp := a.v })
    if bit a.v 63 then s.modCtx a.c (fun x =>
      { x with impossible := x.impossible ++ (x.tasks.filter (fun t => t.state == .accepted && (t.units (fun _ => true)).contains u)).map Task.uid })
    else (s.withXlate a.c).modCtx a.c (fun x => { x with requests := x.requests.filter (fun q => (x.translate q).isNone) })

/-! ### Host messages and the debug interface (R408, R414, R150 to R152) -/

/-- HMSGB_WRITE (R414): the host sends the body `v` from context `c`. -/
def execHmsgbWrite (s : State) : State :=
  let a := s.args
  let x := s.ctx a.c
  let l := field x.hmsgt 10 0
  let k := field x.hmsgt 17 16
  if s.noPage then s.refuseAccess
  else if !s.ready then s
  else
    let s := s.modCtx a.c (fun x => { x with hmsgb := a.v })
    if k = 3 ∨ !(s.tile l).owner.any (fun o => o.1 == a.c) then s.report a.c ⟨6, 0, 0, 0, 0⟩
    else s.modTile l (fun t => t.modStrand (targetStrand (word k)) (fun st =>
      { st with mailHeld := st.mailHeld ++ [mailWord 5 0xFFF (field a.v 47 0)] }))

/-- DBGCMD_HALT (R408, R150): the selected strand of context `c` enters debug halt. -/
def execDbgcmdHalt (s : State) : State :=
  let c := s.args.c
  if s.noPage then s.refuseAccess
  else match s.debugTarget c with
  | some (l, k) => if s.ready && ((s.tile l).strand k).run == .running then (s.modCtx c (fun x => { x with dbgcmd := 1 })).debugHaltStrand l k else s
  | none => s

/-- R151, R152: a strand leaves debug halt: it issues its next bundle whatever its breakpoints; `step`: one bundle. While its task is being
stopped (`stopping`) it counts as halted and stays so, with its stop token, until the task resumes (R142, R144, R149; DEDUCED, entry 30). -/
def Strand.leaveDebug (st : Strand) (now : Nat) (step stopping : Bool) : Strand :=
  if st.run ≠ .debugHalt then st
  else if stopping then { st with run := .halted, pass := true, stepping := step }
  else { st.resumeAtCycle now with pass := true, stepping := step }

/-- A stop of the tile's task has begun (R142, R144). -/
def Tile.stopping (t : Tile) : Bool := t.stop != .none && t.stop != .requested

/-- DBGCMD_RESUME (R408, R152): the selected strand of context `c` resumes; with STEP set it issues one bundle. -/
def execDbgcmdResume (s : State) : State :=
  let c := s.args.c
  if s.noPage then s.refuseAccess
  else match s.debugTarget c with
  | some (l, k) =>
    if !s.ready then s
    else (s.modCtx c (fun x => { x with dbgcmd := 2 })).modTile l (fun t => t.modStrand k (fun st => st.leaveDebug s.firstCycle st.step? t.stopping))
  | none => s

/-- DBGCMD_STEP (R152): the selected strand of context `c` issues one bundle and halts again. -/
def execDbgcmdStep (s : State) : State :=
  let c := s.args.c
  if s.noPage then s.refuseAccess
  else match s.debugTarget c with
  | some (l, k) =>
    if !s.ready then s
    else (s.modCtx c (fun x => { x with dbgcmd := 3 })).modTile l (fun t => t.modStrand k (fun st => st.leaveDebug s.firstCycle true t.stopping))
  | none => s

/-! ### The device-memory window (R406, R348, R399) -/

/-- BAR2_ACCESS (R406, R348, R399): the host writes `bytes` at `addr`, or reads `n` bytes there. A write is no write of a context and is not
logged (R330). -/
def execBar2Access (s : State) : State :=
  let a := s.args
  let len := match a.bytes with | some bs => bs.length | none => a.n
  if hbmSize < a.addr + len then s.refuseAccess
  else match a.bytes with
  | none =>
    let as := span a.addr len
    match s.homeRead as with
    | (s, some bs) => s.reply ⟨bs, false, false⟩
    | (s, none) => s.reply ⟨readAt s.mem as, true, false⟩
  | some bs => s.rawWrite ((span a.addr len).zip bs)

/-! ### Reset and boot (R415, R417) -/

/-- POWER_ON_RESET (R417 step 1): everything is as after reset but the fuses of the dies, the certificate and the world outside the package:
host memory, other packages, to which routes remain as the links now stand (R380), and what the host has sent. Link training starts. -/
def execPowerOnReset (s : State) : State :=
  let dies := Vector.ofFn (fun (d : Fin 8) => { Die.empty with minVersion := s.dies[d.val].minVersion, keyHash := s.dies[d.val].keyHash })
  ({ State.reset with
    dies := dies, idCert := s.idCert, mem := onward s.mem 0x800000000000, inbox := s.inbox, free := s.free, peers := s.peers } : State).reroute

/-- The configuration record (R340, R345, R370, R417, R421) as a list of words: FPID, test enable, 16 values of ACTTH, 768 window entries;
a missing word is the shipped record's. -/
def recordWord (ws : List Word) (i : Nat) : Word := ws.getD i (if 2 ≤ i ∧ i < 18 then 4096 else 0)

/-- R340: the IL values of every aligned group are equal. -/
def recordOk (ws : List Word) : Bool :=
  (List.range 768).all (fun n => bit (recordWord ws (18 + n)) 0 == bit (recordWord ws (18 + n / 16 * 16)) 0)

/-- R417 step 2: Stag loads the configuration record. -/
def State.loadRecord (s : State) (ws : List Word) : State :=
  { s with
    fpid := (recordWord ws 0).toNat % 256, testEnable := bit (recordWord ws 1) 0, configLoaded := true,
    hbm := Vector.ofFn (fun (n : Fin 16) => { s.hbm[n.val] with actth := max 1024 (min 16384 (recordWord ws (2 + n.val)).toNat) }),
    wintab := (List.range 768).foldl (fun m n => mputD 0 m n (windowEntry (recordWord ws (18 + n)))) [] }

/-- R415: extends a measurement register. -/
def Die.measure (d : Die) (k : Fin 5) (digest : BitVec 512) : Die :=
  { d with mreg := d.mreg.set k.val (Config.shake256 (leBytes 64 d.mreg[k.val].toNat ++ leBytes 64 digest.toNat)) k.isLt }

/-- R417 step 3: a failed physical tile of a die uses a spare up (R8). -/
def State.markFailed (s : State) (d : Fin 8) (p : Nat) : State :=
  if 200 ≤ p then s.modDie d (fun e => { e with spares := e.spares.erase p })
  else match (s.die d).spares, ((List.range 1600).filter (fun l => dieOf l == d))[p]? with
    | q :: r, some l => (s.modDie d (fun e => { e with spares := r })).modTile l (fun t => { t with phys := some q })
    | [], some l => s.modTile l (fun t => { t with fenced := true })
    | _, none => s

/-- The failed physical tiles of a die, its failed spares first, so that no failed tile goes to one of them. -/
def State.markAllFailed (s : State) (d : Fin 8) (ps : List Nat) : State :=
  (ps.filter (fun p => decide (200 ≤ p)) ++ ps.filter (fun p => decide (p < 200))).foldl (fun s p => s.markFailed d p) s

/-- R417 steps 3 and 4: once every die has booted, the links are trained, HBM is cleared and refreshed from now on, and READY is set. -/
def State.bringUp (s : State) : State :=
  if s.dies.toList.all (fun d => d.bootStage == 5 && !d.recovery) && s.configLoaded then
    { s with
      mem := onward s.mem hbmSize, poison := [], latent := [], ready := true, recovery := false, linkTraining := false,
      hbm := s.hbm.map (fun k => { k with nextRefresh := s.time }) }
  else s

/-- A die fails a check (R415). -/
def State.failBoot (s : State) (d : Fin 8) : State := { s.modDie d (fun e => { e with recovery := true }) with recovery := true }

/-- R415: the boot code accepts an image on a die: its signature verifies under the key whose hash the fuses hold, and its security version is
not below their minimum. -/
def Die.accepts (e : Die) (i : FwImage) : Bool := i.sigOk && i.key == e.keyHash && decide (e.minVersion ≤ i.version)

/-- R416: die 0 generates the identity key of the boot. -/
def State.newIdentity (s : State) : State := { s with idKey := some (Config.value s.free) }.bump

/-- R415: a die checks its next stage, measures it and runs it. -/
def State.bootDie (s : State) (d : Fin 8) : State :=
  let a := s.args
  let e := s.die d
  if h : e.bootStage < 5 then
    if !e.accepts a.img ∨ (e.bootStage = 4 ∧ !recordOk a.words) then s.failBoot d
    else
      let s := if d = 0 ∧ e.bootStage = 0 then s.newIdentity else s
      let s := s.modDie d (fun e => { e.measure ⟨e.bootStage % 5, Nat.mod_lt _ (by decide)⟩ a.img.digest with bootStage := e.bootStage + 1 })
      let s := if e.bootStage = 4 then (s.loadRecord a.words).markAllFailed d ((a.bytes.getD []).map BitVec.toNat) else s
      s.bringUp
  else s

/-- BOOT_STAGE (R415, R417): die `n` boots its next stage from `img`; the configuration record, its last stage, has the words `words`,
and `bytes` lists the physical tiles that fail. -/
def execBootStage (s : State) : State :=
  let d : Fin 8 := Fin.ofNat 8 s.args.n
  if (s.die d).recovery then s else s.bootDie d

/-- A die leaves RECOVERY. -/
def State.leaveRecovery (s : State) (d : Fin 8) : State :=
  let s := s.modDie d (fun e => { e with recovery := false })
  { s with recovery := s.dies.toList.any Die.recovery }

/-- RECOVERY_FIRMWARE_IMAGE (R415): die `n` in RECOVERY takes the firmware image `img` through DOE, which is checked and measured as any other:
it boots the stage that had failed, or, where all had booted, takes the place of the Scarab firmware whose update had failed (R420). -/
def execRecoveryFirmwareImage (s : State) : State :=
  let d : Fin 8 := Fin.ofNat 8 s.args.n
  let e := s.die d
  if !e.recovery || !e.accepts s.args.img then s
  else if e.bootStage < 5 then (s.leaveRecovery d).bootDie d
  else (s.leaveRecovery d).modDie d (fun e => e.measure 2 s.args.img.digest)

/-! ### Attestation (R416) -/

/-- Answers an SPDM request. -/
def State.answer (s : State) (q : SpdmRequest) (bs : List Byte) : State := { s with spdm := s.spdm ++ [(q, bs)] }

/-- Answers an SPDM request with a message whose bytes the manual does not give (log entry 10): request number `n`, answered anew for each
exchange. -/
def State.answerFree (s : State) (q : SpdmRequest) (n : Nat) : State := (s.answer q (Config.spdmBody n s.idKey s.idCert (s.free + 1))).bump

/-- Answers an SPDM request with a message that only the identity key and its certificate decide (log entry 10). -/
def State.answerFixed (s : State) (q : SpdmRequest) (n : Nat) : State := s.answer q (Config.spdmBody n s.idKey s.idCert 0)

/-- GET_VERSION (R416). -/
def execGetVersion (s : State) : State := s.answerFixed .getVersion 0
/-- GET_CAPABILITIES (R416). -/
def execGetCapabilities (s : State) : State := s.answerFixed .getCapabilities 1
/-- NEGOTIATE_ALGORITHMS (R416). -/
def execNegotiateAlgorithms (s : State) : State := s.answerFree .negotiateAlgorithms 2
/-- GET_DIGESTS (R416): of the certificate. -/
def execGetDigests (s : State) : State := s.answerFixed .getDigests 3
/-- GET_CERTIFICATE (R416): the certificate that binds the identity key. -/
def execGetCertificate (s : State) : State := s.answerFixed .getCertificate 4
/-- CHALLENGE (R416): the signature is by the boot-time identity key. -/
def execChallenge (s : State) : State := s.answerFree .challenge 5

/-- R416: measurement block i, 1 to 40: MREGk of die d with i = 5·d + k + 1. -/
def State.measurement (s : State) (i : Nat) : List Byte :=
  leBytes 64 (((s.die (Fin.ofNat 8 ((i - 1) / 5))).mreg.toList.getD ((i - 1) % 5) 0).toNat)

/-- GET_MEASUREMENTS (R416) with operation `n`: 0 gives the count, 0xFF all 40 blocks, 1 to 40 one of them. -/
def execGetMeasurements (s : State) : State :=
  let n := s.args.n
  if n = 0 then s.answer .getMeasurements [40]
  else if n = 0xFF then s.answer .getMeasurements ((List.range 40).flatMap (fun i => s.measurement (i + 1)))
  else if n ≤ 40 then s.answer .getMeasurements (s.measurement n)
  else s.answerFree .getMeasurements 6

/-! ### Power (R418) -/

/-- R418: the measured averages, `n` high 1 ms and `id` over 10 µs in W, exceed the limit. -/
def State.excess (s : State) : Bool := decide (s.pwrlim < s.args.n) || decide (11 * s.pwrlim < 10 * s.args.id)

/-- A clock step counts on every die (R421). -/
def State.countStep (s : State) : State := (List.range 8).foldl (fun s d => s.count .clockStep d) s

/-- R418: a reading of the 1 ms average, and since when it has stayed at or below 95 % of the limit with no excess. -/
def State.readPower (s : State) : State :=
  let high := decide (95 * s.pwrlim < 100 * s.args.n) || s.excess
  { s with
    pwrnow := s.args.n,
    governor := { s.governor with marginSince := if high then none else some (s.governor.marginSince.getD s.time) } }

/-- GOVERNOR_STEP_DOWN (R418): on an excess the governor takes the clock down, every 50 µs, and at the floor spaces mx issue and then vx
and sf issue. `Governor.last` is one more than the time of its last step down. -/
def execGovernorStepDown (s : State) : State :=
  let s := s.readPower
  let g := s.governor
  if !s.excess || (g.last != 0 && !s.elapsed (g.last - 1) 50000) then s
  else
    let g := { g with last := s.time + 1 }
    if g.step < 2 then { s with governor := { g with step := g.step + 1 } }.countStep
    else if !g.mxSpaced then { s with governor := { g with mxSpaced := true } }
    else { s with governor := { g with vxSpaced := true } }

/-- GOVERNOR_STEP_UP (R418): with the 1 ms average at or below 95 % of the limit for 1 ms, the governor lifts vx and sf spacing, then mx
spacing, and then raises the clock by one step for each further 1 ms; a step leaves 1 ms of the margin standing. -/
def execGovernorStepUp (s : State) : State :=
  let s := s.readPower
  let g := s.governor
  match g.marginSince with
  | none => s
  | some c =>
    if !s.elapsed c 1000000 then s
    else if g.vxSpaced then { s with governor := { g with vxSpaced := false } }
    else if g.mxSpaced then { s with governor := { g with mxSpaced := false } }
    else if g.step = 0 ∨ !s.elapsed c 2000000 then s
    else { s with governor := { g with step := g.step - 1, marginSince := some (s.time - 342 * 1000000) } }.countStep

/-! ### Repair in service (R420) -/

/-- FIRMWARE_UPDATE (R415, R420): Stag updates the Scarab firmware of die `n`, which runs: checked, measured into MREG2; new placements on the
die pause for at most 5 ms. A die in RECOVERY takes only an image through DOE. -/
def execFirmwareUpdate (s : State) : State :=
  let a := s.args
  let d : Fin 8 := Fin.ofNat 8 a.n
  let e := s.die d
  if e.recovery ∨ e.bootStage < 5 then s
  else if !e.accepts a.img then s.failBoot d
  else
    let until' := s.time + Config.latency s.free % (342 * 5000000 + 1)
    s.bump.modDie d (fun e => { e.measure 2 a.img.digest with pausedUntil := until' })

/-- LINK_RETRAIN (R380, R420): Fjolos link `id`, one of 8, fails and is retrained, its traffic on other routes, if any, and its flits
replayed; with `flag` it is trained again. -/
def execLinkRetrain (s : State) : State :=
  let a := s.args
  if 8 ≤ a.id then s
  else if a.flag then { s with linkDown := s.linkDown.filter (fun k => k != a.id) }.reroute
  else if s.linkDown.contains a.id then s
  else ({ s with linkDown := s.linkDown ++ [a.id] }.reroute).count .linkReplay (a.id % 8)

end Sys2Proof.Machine
end

