-- ==== Sys2Proof/Machine/Loader.lean ====
section
/-! DEFINITION. Code objects and the loader gyld (R392 to R405): the checks of an object, binding, relocation, registration, unloading and
copy-on-debug. -/

namespace Sys2Proof.Machine

/-! ### Objects (R392, R393) -/

/-- A section of an object: its type, byte offset and size. -/
structure Section where
  type : Nat
  off : Nat
  size : Nat
  deriving DecidableEq, Repr

/-- An object: its bytes, with its section table. -/
structure Object where
  bytes : List Byte
  sects : List Section
  deriving DecidableEq, Repr

/-- n bytes of a byte string, from an offset. -/
def slice (bs : List Byte) (off n : Nat) : List Byte := (bs.drop off).take n

/-- The 64-bit word at a byte offset. -/
def wordAtOff (bs : List Byte) (off : Nat) : Word := word (leNat (slice bs off 8))

/-- R392: NSEC. -/
def objNsec (bs : List Byte) : Nat := field (wordAtOff bs 0) 15 8

/-- R393: entry i of the section table. -/
def objSection (bs : List Byte) (i : Nat) : Section :=
  let a := wordAtOff bs (64 + 16 * i)
  ⟨field a 63 56, field a 31 0, field (wordAtOff bs (72 + 16 * i)) 31 0⟩

/-- R392: the header is right: MAGIC, VER, NSEC, SIZE, RSV fields. -/
def headerOk (bs : List Byte) : Bool :=
  let w := wordAtOff bs
  decide (64 ≤ bs.length) && decide (field (w 0) 63 32 = 0x47594F42) && decide (field (w 0) 31 24 = 1) && decide (1 ≤ objNsec bs) &&
  decide (objNsec bs ≤ 16) && decide (field (w 0) 7 0 = 0) && decide (field (w 40) 63 32 = 0) && decide (field (w 40) 31 0 = bs.length) &&
  w 48 == 0 && w 56 == 0

/-- R393: a section is right. -/
def Section.ok (x : Section) (total : Nat) : Bool :=
  decide (1 ≤ x.type) && decide (x.type ≤ 9) && decide (x.off % 64 = 0) && decide (x.off + x.size ≤ total) &&
  (match x.type with
   | 1 | 2 | 3 => decide (x.size % 32 = 0) && decide (x.size ≤ 65536)
   | 4 => decide (x.size % 8 = 0) && decide (x.size ≤ 16384)
   | 6 => decide (x.size % 24 = 0)
   | 7 => decide (x.size % 16 = 0)
   | _ => true)

/-- Parses the header and section table of an object (R392, R393). -/
def parseObject (bs : List Byte) : Option Object :=
  if !headerOk bs || decide (bs.length < 64 + 16 * objNsec bs) then none
  else
    let ns := List.range (objNsec bs)
    let ss := ns.map (objSection bs)
    let rsv := ns.all (fun i => decide (field (wordAtOff bs (64 + 16 * i)) 55 32 = 0) && decide (field (wordAtOff bs (72 + 16 * i)) 63 32 = 0))
    if rsv && ss.all (fun x => x.ok bs.length) && decide ((ss.map Section.type).Nodup) && ss.any (fun x => x.type == 9) then some ⟨bs, ss⟩
    else none

/-- The section of a type. -/
def Object.sect (o : Object) (ty : Nat) : Section := (o.sects.find? (fun x => x.type == ty)).getD ⟨ty, 0, 0⟩

/-- The bytes of the section of a type. -/
def Object.content (o : Object) (ty : Nat) : List Byte := slice o.bytes (o.sect ty).off (o.sect ty).size

/-- A NUL-terminated name of the strings section (R393). -/
def Object.name (o : Object) (off : Nat) : List Byte := ((o.content 8).drop off).takeWhile (fun b => b != 0)

/-! ### The task section (R394) -/

/-- R394: the launch template as a record and a region table. -/
def Object.template (o : Object) : LaunchRec :=
  let c := o.content 9
  let w := fun i => wordAtOff c (8 * i)
  ⟨[word (field (w 0) 31 0), 0, 0, 0, w 1, 0, 0, 0] ++ (List.range 8).map (fun i => w (2 + i)) ++ List.replicate 8 0,
   [0, 0, 0, 0] ++ (List.range (4 * field (w 0) 23 19)).map (fun i => w (10 + i)), []⟩

/-- R394: the task section is right: its size, its fields, and R30 and R32. -/
def Object.taskOk (o : Object) : Bool :=
  let r := o.template
  let w0 := wordAtOff (o.content 9) 0
  decide (80 ≤ (o.sect 9).size) && decide ((o.sect 9).size = 80 + 32 * r.nreg) && decide (field w0 31 24 = 0) && decide (field w0 14 0 = 0) &&
  decide (field w0 63 32 < (o.sect 8).size) && r.recordOk && r.regionsOk &&
  (List.range r.nreg).all (fun k => decide (field (r.reg k 2) 1 0 = 0))

/-! ### Symbols (R397, R398) -/

/-- A symbol. -/
structure Symbol where
  name : List Byte
  bind : Nat
  kind : Nat
  sec : Nat
  value : Word
  deriving DecidableEq, Repr

/-- Symbol i (R397). -/
def Object.symbol (o : Object) (i : Nat) : Symbol :=
  let c := o.content 7
  let w := wordAtOff c (16 * i)
  ⟨o.name (field w 63 32), field w 31 28, field w 27 24, field w 23 16, wordAtOff c (16 * i + 8)⟩

/-- The symbols of an object. -/
def Object.symbols (o : Object) : List Symbol := (List.range ((o.sect 7).size / 16)).map o.symbol

/-- R397: a symbol entry is right. -/
def Object.symbolOk (o : Object) (i : Nat) : Bool :=
  let x := o.symbol i
  let w := wordAtOff (o.content 7) (16 * i)
  decide (x.bind ≤ 2) && decide (x.kind ≤ 2) && decide (field w 15 0 = 0) && decide (field w 63 32 < (o.sect 8).size) &&
  (x.bind == 2 || x.kind == 0 || (match o.sects[x.sec]? with | some y => x.kind == 1 || decide (y.type ≤ 3) | none => false))

/-- R398: the global definition of a name in the images of a context, the earliest first, with the image's base. -/
def Context.global (x : Context) (name : List Byte) : Option (Nat × Int) :=
  x.images.findSome? (fun i => (i.globals.find? (fun g => g.1 == name)).map (fun g => (i.base, g.2)))

/-- R398: the value of a symbol of an object placed at a base. -/
def Context.symbolValue (x : Context) (base : Nat) (y : Symbol) : Option Int :=
  if y.bind = 2 then (x.global y.name).map (·.2)
  else if y.kind = 1 then some (base + y.value.toInt)
  else some y.value.toInt

/-! ### Relocations (R395, R396) -/

/-- A relocation. -/
structure Reloc where
  type : Nat
  sec : Nat
  sa : Nat
  sb : Nat
  off : Nat
  sym : Nat
  add : Word
  deriving DecidableEq, Repr

/-- Relocation i (R395). -/
def Object.reloc (o : Object) (i : Nat) : Reloc :=
  let c := o.content 6
  let w := wordAtOff c (24 * i)
  ⟨field w 63 56, field w 55 48, field w 47 44, field w 43 40, field w 31 0, field (wordAtOff c (24 * i + 8)) 63 32, wordAtOff c (24 * i + 16)⟩

/-- The relocations of an object. -/
def Object.relocs (o : Object) : List Reloc := (List.range ((o.sect 6).size / 24)).map o.reloc

/-- Slot n of a bundle (R35). -/
def slotBits (b : BitVec 256) (n : Nat) : Nat := b.toNat / 2 ^ (64 + 24 * n) % 2 ^ 24

/-- A slot of a bundle holds a literal (R36). -/
def slotLit (b : BitVec 256) (n : Nat) : Bool := decide (n < 8) && bit b (48 + n)

/-- R395, R396: a relocation has the form of its type. -/
def Object.relocOk (o : Object) (i : Nat) : Bool :=
  let r := o.reloc i
  let c := o.content 6
  let rsv := decide (field (wordAtOff c (24 * i)) 39 32 = 0) && decide (field (wordAtOff c (24 * i + 8)) 31 0 = 0)
  rsv && decide (r.sym < o.symbols.length) && (match o.sects[r.sec]? with
    | none => false
    | some y =>
      let b : BitVec 256 := BitVec.ofNat 256 (leNat (slice o.bytes (y.off + r.off) 32))
      let inBundle := decide (y.type ≤ 3) && decide (r.off % 32 = 0) && decide (r.off + 32 ≤ y.size)
      let inData := (y.type == 4 || y.type == 5) && decide (r.off + 8 ≤ y.size)
      match r.type with
      | 1 => inBundle && decide (r.sb = 0) && decide (r.sa < 8) && !slotLit b r.sa && bit (BitVec.ofNat 24 (slotBits b r.sa)) 20
      | 2 => inBundle && decide (r.sb = 0) && slotLit b r.sa
      | 3 => inBundle && slotLit b r.sa && slotLit b r.sb && decide (r.sa < r.sb)
      | 4 | 5 => inData && decide (r.sa = 0) && decide (r.sb = 0)
      | _ => false)

/-- R396: a value is within the limit of a type. -/
def relocRange (type : Nat) (v : Int) : Bool :=
  match type with
  | 1 => decide (-256 ≤ v) && decide (v ≤ 255)
  | 2 => decide (-(2 ^ 23) ≤ v) && decide (v ≤ 2 ^ 23 - 1)
  | 3 | 5 => decide (0 ≤ v) && decide (v ≤ 2 ^ 48 - 1)
  | _ => true

/-- Replaces bytes of a byte string from an offset. -/
def putBytes (bs : List Byte) (off : Nat) (new : List Byte) : List Byte := bs.take off ++ new ++ bs.drop (off + new.length)

/-- Replaces slot n of a bundle. -/
def setSlot (b : Nat) (n v : Nat) : Nat :=
  let lo := 2 ^ (64 + 24 * n)
  b / (lo * 2 ^ 24) * (lo * 2 ^ 24) + v % 2 ^ 24 * lo + b % lo

/-- R396: applies one relocation to the bytes of an object. -/
def Object.patch (o : Object) (bs : List Byte) (r : Reloc) (v : Int) : List Byte :=
  let at1 := ((o.sects[r.sec]?).map Section.off).getD 0 + r.off
  let b := leNat (slice bs at1 32)
  let slots := fun (b : Nat) => putBytes bs at1 (leBytes 32 b)
  match r.type with
  | 1 =>
    let old := slotBits (BitVec.ofNat 256 b) r.sa
    slots (setSlot b r.sa (old / 2 ^ 20 * 2 ^ 20 + unsign 9 v * 2 ^ 11 + old % 2 ^ 11))
  | 2 => slots (setSlot b r.sa (unsign 24 v))
  | 3 => slots (setSlot (setSlot b r.sa (unsign 48 v % 2 ^ 24)) r.sb (unsign 48 v / 2 ^ 24))
  | 4 => putBytes bs at1 (leBytes 8 (unsign 64 v))
  | _ => putBytes bs at1 (leBytes 6 (unsign 48 v))

/-! ### Loading (R399) -/

/-- The bundles of a section. -/
def bundlesOf (bs : List Byte) : List (BitVec 256) :=
  (List.range (bs.length / 32)).map (fun i => BitVec.ofNat 256 (leNat (slice bs (32 * i) 32)))

/-- R399: the values of an object's relocations at a base; none where a symbol binds nowhere. -/
def Object.values (o : Object) (x : Context) (base : Nat) : Option (List (Reloc × Int)) :=
  if !(o.symbols.all (fun y => (x.symbolValue base y).isSome)) then none
  else some (o.relocs.map (fun r =>
    (r, (((o.symbols[r.sym]?).bind (x.symbolValue base)).getD 0) + r.add.toInt)))

/-- R399: the checks of a load in their order, and what is registered where all pass. -/
def Context.checkLoad (x : Context) (acc : Fin 4 → Word) (bs : List Byte) (base : Nat) : Except GyldStatus (Object × List (Reloc × Int)) :=
  match parseObject bs with
  | none => .error .format
  | some o =>
    if !(o.taskOk && (List.range o.symbols.length).all o.symbolOk && (List.range o.relocs.length).all o.relocOk) then .error .format
    else if field (wordAtOff bs 0) 23 16 ≠ 1 then .error .latgen
    else if (List.finRange 4).any (fun k => wordAtOff bs (8 + 8 * k.val) &&& ~~~(acc k) != 0) then .error .feature
    else match o.values x base with
    | none => .error .unresolved
    | some vs =>
      if !vs.all (fun p => relocRange p.1.type p.2) then .error .range
      else if 256 ≤ x.images.length then .error .full
      else .ok (o, vs)

/-- The image of an object at a base, from its patched bytes (R398, R401). -/
def Object.image (o : Object) (x : Context) (bs : List Byte) (base : Nat) : Image :=
  let p : Object := { o with bytes := bs }
  let md := p.content 4
  { base := base, size := bs.length, feed := bundlesOf (p.content 1), compute := bundlesOf (p.content 2), drain := bundlesOf (p.content 3),
    metaWords := (List.range (md.length / 8)).map (fun i => wordAtOff md (8 * i)),
    globals := (o.symbols.filter (fun y => y.bind == 1 && (x.global y.name).isNone)).map (fun y =>
      (y.name, (x.symbolValue base y).getD 0)),
    boundTo := ((o.symbols.filter (fun y => y.bind == 2)).filterMap (fun y => (x.global y.name).map (fun g => g.1))).dedup, priv := false,
    places := [1, 2, 3].map (fun n => (p.sect n).off) }

/-- R399: a base at which gyld may place an image of a size: aligned, translated, its pages declared for writing by no task, its physical
pages mapped by no other translation. -/
def State.placeOk (s : State) (c base size : Nat) : Bool :=
  let x := s.ctx c
  let pages := x.pagesOf base (max 1 size)
  decide (base % 65536 = 0) && decide (base + size ≤ 2 ^ 48) && pages.all (fun q => match x.translate q.1 with
    | none => false
    | some pa => decide (pa + q.2 ≤ hbmSize) &&
        s.ctxs.all (fun p => p.2.xlates.all (fun e => (p.1 == c && e == ⟨q.1, q.2, pa⟩) || !overlap (e.pa, e.size) (pa, q.2)))) &&
  x.images.all (fun i => !overlap (i.base, max 1 i.size) (base, max 1 size)) &&
  x.tasks.all (fun t => t.state.over || t.regions.all (fun r => r.mode == 0 || !touchesPage pages r.base r.extent))

/-- Answers a gyld operation. -/
def State.gyldSays (s : State) (g : GyldStatus) (base : Nat) : State := { s with gyld := some (g, base) }

/-- The bytes of memory that an image covers, written at home by gyld (R399). -/
def State.placeImage (s : State) (c base : Nat) (bs : List Byte) : State :=
  match (s.ctx c).pas base bs.length with
  | some pas => s.homeBytes [] (pas.zip bs)
  | none => s

/-- GYLD_LOAD (R392 to R399): gyld loads the object of `id` bytes in `words` for context `c` at base `addr`. -/
def execGyldLoad (s : State) : State :=
  let a := s.args
  let x := s.ctx a.c
  let bs := (a.words.flatMap (fun w => leBytes 8 w.toNat)).take a.id
  match x.checkLoad s.featAccept bs a.addr with
  | .error g => s.gyldSays g 0
  | .ok (o, vs) =>
    if !s.placeOk a.c a.addr bs.length then s
    else
      let done := vs.foldl (fun b p => o.patch b p.1 p.2) bs
      (((s.placeImage a.c a.addr done).modCtx a.c (fun x => { x with images := x.images ++ [o.image x done a.addr] }))).gyldSays .ok a.addr

/-! ### Unloading (R402 to R404) -/

/-- The tasks of an image (R402). -/
def Context.tasksOf (x : Context) (base : Nat) : List Task :=
  x.tasks.filter (fun t => t.code == base && !t.state.over)

/-- R402: the reference count of an image. -/
def Context.refs (x : Context) (base : Nat) : Nat := (x.tasksOf base).length + (x.images.filter (fun i => i.boundTo.contains base)).length

/-- R403, R404: a task of a removed image is marked. A retired one is marked for the case that a rollback brings it back, so that no task starts
from a removed image. -/
def Task.unloaded (t : Task) (base : Nat) : Task := if t.code = base then { t with marked := true } else t

/-- Removes an image and releases its pages; its tasks, those of the boundary among them, are marked. -/
def Context.dropImage (x : Context) (base : Nat) : Context :=
  { x with
    images := x.images.filter (fun i => i.base != base), replaced := x.replaced.filter (fun p => p.1 != base && p.2 != base),
    tasks := x.tasks.map (fun t => t.unloaded base), boundary := x.boundary.map (fun t => t.unloaded base) }

/-- GYLD_UNLOAD (R402): gyld unloads the image at base `addr` of context `c`. -/
def execGyldUnload (s : State) : State :=
  let a := s.args
  let x := s.ctx a.c
  if (x.image? a.addr).isNone then s.gyldSays .none a.addr
  else if x.refs a.addr ≠ 0 then s.gyldSays .busy a.addr
  else (s.modCtx a.c (fun x => x.dropImage a.addr)).gyldSays .ok a.addr

/-- GYLD_FORCED_UNLOAD (R403): the image at base `addr` of context `c` is removed at once, and its waiting and stopped tasks are marked. -/
def execGyldForcedUnload (s : State) : State :=
  let a := s.args
  let x := s.ctx a.c
  let busy := (x.tasksOf a.addr).any (fun t => t.state == .starting || t.state == .running || t.state == .ending) ||
    x.images.any (fun i => i.boundTo.contains a.addr)
  if (x.image? a.addr).isNone then s.gyldSays .none a.addr
  else if busy then s.gyldSays .busy a.addr
  else (s.modCtx a.c (fun x => x.dropImage a.addr)).gyldSays .ok a.addr

/-! ### Copy-on-debug (R405) -/

/-- Writes bundle n of a strand's section of an image. -/
def Image.setBundle (i : Image) (k : StrandId) (n : Nat) (b : BitVec 256) : Image :=
  match k with
  | .feed => { i with feed := i.feed.set n b }
  | .compute => { i with compute := i.compute.set n b }
  | .drain => { i with drain := i.drain.set n b }

/-- The 256 bits of four words. -/
def bundleOfWords (ws : List Word) : BitVec 256 := BitVec.ofNat 256 (packNat 64 (ws.map BitVec.toNat))

/-- The bundles of a strand's section of an image. -/
def Image.bundles (i : Image) (k : StrandId) : List (BitVec 256) :=
  match k with
  | .feed => i.feed
  | .compute => i.compute
  | .drain => i.drain

/-- R405: bundle n of a strand's section of the image at a base of a context is written, in the image and in its bytes in memory. -/
def State.writeBundle (s : State) (c base : Nat) (k : StrandId) (n : Nat) (b : BitVec 256) : State :=
  let s := s.modCtx c (fun x => { x with images := x.images.map (fun i => if i.base = base then i.setBundle k n b else i) })
  match (s.ctx c).image? base with
  | none => s
  | some i =>
    if (i.bundles k).length ≤ n then s
    else match (s.ctx c).pas (i.base + i.places.getD (strandNum k) 0 + 32 * n) 32 with
    | some pas => s.homeBytes [] (pas.zip (leBytes 32 b.toNat))
    | none => s

/-- R347, R348, R351, R405: the bytes of an image are read at home and written at a new base; a line of the copy that takes a byte of a poisoned or
fenced line is poisoned as well (DEDUCED, entry 30). -/
def State.copyImage (s : State) (c : Nat) (i : Image) (base : Nat) : State :=
  let x := s.ctx c
  match x.pas i.base i.size, x.pas base i.size with
  | some src, some dst =>
    let s := ((src.map lineOf).dedup).foldl (fun s pl => s.readHome pl) s
    let bad := ((src.zip dst).filter (fun p => s.linePoison (lineOf p.1))).map (fun p => lineOf p.2)
    bad.dedup.foldl (fun s pl => s.poisonLine pl) (s.homeBytes [] (dst.zip (readAt s.mem src)))
  | _, _ => s

/-- COPY_ON_DEBUG (R405): a private image of the image at base `addr` of context `c`, at the new base `id`. Once it exists, the debug
interface writes the bundle in `words` as bundle `n` of strand `k` of it. With `flag` the debug interface writes that bundle into the bundle
store of strand `k` of tile `l` of the context, which is in debug halt, whether an image is replaced or not. -/
def execCopyOnDebug (s : State) : State :=
  let a := s.args
  let x := s.ctx a.c
  let b := bundleOfWords a.words
  if a.flag then s.modTile a.l (fun t => t.modStrand a.k (fun st =>
    if t.owner.any (fun o => o.1 == a.c) ∧ st.run = .debugHalt then { st with store := mput st.store (a.n % 2048) b } else st))
  else match x.image? a.addr, x.replaced.find? (fun p => p.1 == a.addr) with
  | none, _ => s.gyldSays .none a.addr
  | some i, none =>
    if !s.placeOk a.c a.id i.size then s
    else
      ((((s.copyImage a.c i a.id)).modCtx a.c (fun x =>
        { x with images := x.images ++ [{ i with base := a.id, globals := [], priv := true }], replaced := x.replaced ++ [(a.addr, a.id)] }))).gyldSays
          .ok a.id
  | some _, some p =>
    if a.words.isEmpty then s else s.writeBundle a.c p.2 a.k a.n b

/-- END_COPY_ON_DEBUG (R405): the replacement of the image at base `addr` of context `c` is removed, and the private image unloaded under
R402. -/
def execEndCopyOnDebug (s : State) : State :=
  let a := s.args
  match (s.ctx a.c).replaced.find? (fun p => p.1 == a.addr) with
  | none => s.gyldSays .none a.addr
  | some p =>
    let s := s.modCtx a.c (fun x => { x with replaced := x.replaced.filter (fun q => q.1 != a.addr) })
    if (s.ctx a.c).refs p.2 ≠ 0 then s.gyldSays .busy p.2
    else (s.modCtx a.c (fun x => x.dropImage p.2)).gyldSays .ok p.2

end Sys2Proof.Machine
end

