-- ==== Sys2Proof/Machine/Cycle.lean ====
section
/-! DEFINITION. One cycle of the package: the steps at its start, the strands' turns, the steps at its end, and its close (log entry 6). -/

namespace Sys2Proof.Machine

/-! ### The strands' turns -/

/-- The word at a strand's program counter (R35, R131). -/
def State.fetch (s : State) (l : Nat) (k : StrandId) : BitVec 256 := mget ((s.tile l).strand k).store ((s.tile l).strand k).pc 0

/-- The tiles that have a live task. -/
def State.liveTiles (s : State) : List Nat := (s.tiles.filter (fun p => p.2.live)).map (·.1)

/-- The first turn of a cycle among some tiles. -/
def firstTurn : List Nat → Turn
  | [] => .finish
  | l :: _ => .strand l .feed

/-- The turn after a strand's (R13: feed, compute, drain). -/
def State.nextTurn (s : State) (l : Nat) : StrandId → Turn
  | .feed => .strand l .compute
  | .compute => .strand l .drain
  | .drain => firstTurn (s.liveTiles.filter (fun m => decide (l < m)))

/-- R123: a strand that had a bundle to issue in a state and did not issue it in its turn counts a stall; the turn passes on. -/
def State.turnDone (s s' : State) (l : Nat) (k : StrandId) : State :=
  let had := (s.tile l).live && ((s.tile l).strand k).run == .running && ((s.tile l).strand k).repLeft == 0
  let s' := if had && ((s'.tile l).strand k).issuedAt != s.cycle + 1 then
      s'.modTile l (fun t => t.modStrand k (fun st => { st with stall := st.stall + 1 })) else s'
  { s' with turn := s.nextTurn l k }

/-! ### The start of a cycle -/

/-- A list of steps with their arguments. -/
abbrev Agenda := List (Instr × Args)

/-- A step for each strand of a tile. -/
def perStrand (i : Instr) (l : Nat) : Agenda := allStrands.map (fun k => (i, { l := l, k := k }))

/-- The returns due on a tile (R163, R177, R292, R322, R374). -/
def State.returns (s : State) (l : Nat) : Agenda :=
  let t := s.tile l
  allStrands.flatMap (fun k => ((t.strand k).accesses.filter (fun a => a.performed && decide (a.ret ≤ s.cycle))).map (fun a =>
    (.loadReturn, { l := l, k := k, id := a.id }))) ++
  ((List.range 4).filter (fun n => (t.streams.toList.getD n .idle).elems.any (fun e => !e.returned))).map (fun n =>
    (.handleStreamFetchReturn, { l := l, n := n })) ++
  (t.nx.subs.filter (fun f => decide (f.due ≤ s.cycle))).map (fun _ => (.subComplete, { l := l })) ++
  (if t.tkFlights.isEmpty then [] else [(.xltLoadsComplete, { l := l })]) ++
  (t.fx.ops.filter (fun f => f.performed)).map (fun f => (.fxPerform, { l := l, id := f.id })) ++
  (t.mx.flights.filter (fun f => decide (f.due ≤ s.cycle))).map (fun _ => (.mxLand, { l := l }))

/-- The landings and fetches at the start of a cycle (R21 to R24, R151, R166, R177, R178, R233). -/
def State.landings (s : State) (l : Nat) : Agenda :=
  let open4 := (List.range 4).filter (fun n => ((s.tile l).streams.toList.getD n .idle).opened)
  s.returns l ++ perStrand .mappedWriteLand l ++ perStrand .shadowLand l ++ perStrand .resultLand l ++ perStrand .dataLockedDeliver l ++
  perStrand .debugHalt l ++ open4.map (fun n => (.streamRefetch, { l := l, n := n })) ++ open4.map (fun n => (.streamFetch, { l := l, n := n }))

/-- The live tiles with an idle threshold (R291). -/
def State.gatedTiles (s : State) : List Nat := s.liveTiles.filter (fun l => (s.tile l).nx.threshold != 0)

/-- The start of a cycle: the gate latches, what the outside world sends, one step a cycle, and then the landings on every live tile. -/
def State.startCycle (s : State) : State :=
  { s with
    agenda := s.gatedTiles.map (fun l => (.gateArm, { l := l })) ++ s.inbox.take 1 ++ s.liveTiles.flatMap s.landings, inbox := s.inbox.drop 1,
    turn := firstTurn s.liveTiles }

/-! ### The end of a cycle -/

/-- Stops and faults of a tile (R142, R144, R331, R337). -/
def stopSteps (l : Nat) : Agenda :=
  perStrand .strandHaltOnToken l ++ [.rollback, .taskFault, .stopTokenInject, .domainAbort, .domainAbortDeadline].map (fun i => (i, { l := l }))

/-- The step that performs an access (R86, R163, R283). -/
def accessStep (a : Access) : Instr :=
  match a.op, a.path with
  | .release _ _, _ | .acquire _ _, _ => .handleSyncComplete
  | _, .far => .remoteAccessPerform
  | _, _ => if a.home then .remoteAccessPerform else .peerAccessPerform

/-- A list from its n-th element on, and then those before it. -/
def rotate {α : Type} (n : Nat) (xs : List α) : List α := xs.drop (n % xs.length) ++ xs.take (n % xs.length)

/-- The steps of the copies of a tile (R274, R275, R278); which copy goes first in a cycle, and so moves an element, is a free choice (R422; log
entry 7). -/
def State.copySteps (s : State) (l : Nat) : Agenda :=
  (rotate (Config.value (s.free + 32 + l)) ([Channel.cpi, .cpo].flatMap (fun c => ((s.tile l).channel c).copies.map (fun x => (c, x.order))))).flatMap
    (fun p => [.copyError, .copyComplete, .copyRetire].map (fun i => (i, { l := l, ch := p.1, id := p.2 })))

/-- The memory steps of a tile (R77, R87, R163, R212, R252, R260, R274, R275, R278). -/
def State.memorySteps (s : State) (l : Nat) : Agenda :=
  let t := s.tile l
  perStrand .storeBufferDrain l ++
  allStrands.flatMap (fun k => ((t.strand k).accesses.filter (fun a => !a.performed)).map (fun a => (accessStep a, { l := l, k := k, id := a.id }))) ++
  [.raccTakeEffect, .absorbWrite, .rsavePerform, .rloadWrite].map (fun i => (i, { l := l })) ++
  s.copySteps l ++
  [.semPostApply, .ringCommitApply, .collectiveReady].map (fun i => (i, { l := l }))

/-- The messages, multicasts and scheduled sends of a tile (R138, R290, R293, R302). -/
def State.exchangeSteps (s : State) (l : Nat) : Agenda :=
  let t := s.tile l
  (allStrands.filter (fun k => !(t.strand k).mailHeld.isEmpty)).map (fun k => (.mailboxMessageEnter, { l := l, k := k, flag := true })) ++
  t.nx.held.map (fun h => (.mailboxMessageEnter, { uid := h.uid, k := h.strand, n := l })) ++
  t.nx.mcasts.map (fun m => (.mcastDeliver, { uid := m.dst, n := l })) ++
  t.nx.sends.map (fun x => (.scheduledSendDepart, { l := l, id := x.idx }))

/-- Inserts a send among those that take links before it (R302): by the cycle it reached its link, its domain and its entry. -/
def insertSend (p : Nat × SchedSend) : List (Nat × SchedSend) → List (Nat × SchedSend)
  | [] => [p]
  | q :: r =>
    if p.2.reached < q.2.reached ∨ (p.2.reached = q.2.reached ∧ (p.2.dom < q.2.dom ∨ (p.2.dom = q.2.dom ∧ p.2.idx < q.2.idx))) then p :: q :: r
    else q :: insertSend p r

/-- The scheduled sends of the package in the order in which they take links (R302). -/
def State.sendSteps (s : State) : Agenda :=
  ((s.liveTiles.flatMap (fun l => (s.tile l).nx.sends.map (fun x => (l, x)))).foldr insertSend []).map (fun p =>
    (.scheduledSendPerform, { l := p.1, id := p.2.idx }))

/-- The banks that a query still scans. -/
def WqQuery.banksLeft (x : WqQuery) : List (Nat × Nat) :=
  if x.accepted then (List.range 16).flatMap (fun n => (List.range 1024).map (fun b => (n, b))) else []

/-- The steps of the Weevil, fabric and tk sockets of a tile (R319, R358 to R363, R372, R376, R384). -/
def State.socketSteps (s : State) (l : Nat) : Agenda :=
  let t := s.tile l
  (if t.wq.commits.isEmpty then [] else [(.commitComplete, { l := l })]) ++
  (if t.wq.queries.isEmpty then [] else [(.queryAccept, { l := l })]) ++
  t.wq.queries.flatMap (fun x => x.banksLeft.map (fun p => (.bankScan, { l := l, id := x.qid, n := p.1, row := p.2 }))) ++
  (if t.wq.queries.isEmpty then [] else [(.tripleDeliver, { l := l })]) ++
  (t.fx.ops.filter (fun f => !f.performed)).map (fun f => (if f.op == .fence then .fenceComplete else .fxPerform, { l := l, id := f.id })) ++
  t.fx.colls.map (fun x => (.collectiveComplete, { l := l, id := collId x.ccfg })) ++
  (if t.tkFlights.isEmpty then [] else [(.launchAccept, { l := l, flag := true })]) ++
  [(.gateClose, { l := l })]

/-- The end of a stop on a tile, after the faults that the steps of the cycle have reported (R142, R145, R153, R331). -/
def stopEnds (ls : List Nat) : Agenda :=
  ls.flatMap (fun l => [(.rollback, { l := l }), (.taskFault, { l := l })]) ++ ls.map (fun l => (.stopComplete, { l := l }))

/-- The steps of a context in a rollback or abort, which goes on until it has ended (R332). -/
def Context.recoverySteps (x : Context) (c : Nat) : Agenda :=
  [(.rollback, { c := c, row := 1 })] ++ x.kernels.map (fun k => (.kernelAbort, { c := c, n := k.kid }))

/-- Scarab's steps on the tasks and kernels of a context (R304 to R337). -/
def Context.taskSteps (x : Context) (c : Nat) : Agenda :=
  [(.launchAccept, { c := c })] ++
  x.tasks.flatMap (fun t =>
    [.translationComplete, .taskPlace, .taskResume, .preemptNotice].map (fun i => (i, { c := c, uid := t.uid })) ++
    (List.range t.regions.length).flatMap (fun n => [(.startAction, { c := c, uid := t.uid, n := n }), (.edgeActionComplete, { c := c, uid := t.uid, n := n })]) ++
    [.taskStart, .taskFinish, .taskCommit, .tileRelease, .taskRetire].map (fun i => (i, { c := c, uid := t.uid }))) ++
  x.kernels.flatMap (fun k => [.kernelAbort, .kernelComplete, .watchdog].map (fun i => (i, { c := c, n := k.kid }))) ++
  [(.checkpoint, { c := c })]

/-- The steps of a context, and its vectors (R411, R412). -/
def Context.steps (x : Context) (c : Nat) : Agenda :=
  (if x.recovery.isSome then x.recoverySteps c else x.taskSteps c) ++ [(.completionVector, { c := c }), (.completionVector, { c := c, flag := true })]

/-- The refreshes, back-offs and the scrub read that are due (R344, R345, R347), once the package is up. -/
def State.stackSteps (s : State) : Agenda :=
  if !s.ready then []
  else ((List.finRange 16).filter (fun n =>
      let k := s.stack n
      decide (k.nextRefresh ≤ s.time) || !k.owed.isEmpty || !k.backOffs.isEmpty)).map (fun n => (.bankRefresh, { n := n.val })) ++
    (if s.scrubDue then [(.patrolScrub, { n := 0 })] else [])

/-- R419: a tile that has failed a probe is probed again 1 ms later: it answers, unless what the outside world sends says that it failed that
probe too. A tile that has failed none has no count to lose. -/
def State.probeSteps (s : State) : Agenda :=
  (s.tiles.filter (fun p => p.2.probes != 0 && !p.2.fenced && s.elapsed p.2.probedAt 1000001)).map (fun p => (.hangProbe, { l := p.1, flag := true }))

/-- R87: each die may write back, and drop, a line of its cache: a free choice (log entry 7). -/
def State.cacheSteps (s : State) : Agenda :=
  (List.finRange 8).filterMap (fun d =>
    let ls := (s.die d).cache
    let at1 := s.free + 4 * d.val
    if ls.isEmpty || !Config.choice at1 then none
    else some (.dieCacheWriteBack, { n := d.val, id := ((ls[Config.value at1 % ls.length]?).map (·.1)).getD 0, flag := Config.choice (at1 + 1) }))

/-- R37: the idle cycle of a REP bundle passes. DEDUCED (entry 6) from R38 and R24: it counts as an issued bundle for the landing
distances of R23. A strand that the stop token reaches in the cycle halts with its idle cycles left (R144). -/
def Strand.passIdle (st : Strand) (now : Nat) : Strand :=
  if st.run = .running ∧ st.repLeft ≠ 0 ∧ st.issuedAt ≠ now + 1 ∧ st.token.all (fun n => decide (65 ≤ n)) then
    { st with advancedAt := now + 1, repLeft := st.repLeft - 1 }
  else st

/-- The idle cycles of a tile's strands pass. -/
def Tile.passIdle (t : Tile) (now : Nat) : Tile :=
  { t with feed := t.feed.passIdle now, compute := t.compute.passIdle now, drain := t.drain.passIdle now }

/-- The tiles whose tasks run in this cycle. -/
def State.ranTiles (s : State) : List Nat := s.liveTiles.filter (fun l => decide ((s.tile l).since ≤ s.cycle))

/-- The end of a cycle: the idle cycles pass, and its steps are listed. -/
def State.finishCycle (s : State) : State :=
  let s := s.ranTiles.foldl (fun s l => s.modTile l (fun t => t.passIdle s.cycle)) s
  let owned := (s.tiles.filter (fun p => p.2.owner.isSome || p.2.live)).map (·.1)
  { s with
    agenda := owned.flatMap stopSteps ++ owned.flatMap s.memorySteps ++ owned.flatMap s.exchangeSteps ++ s.sendSteps ++
      s.domains.map (fun p => (.barrierComplete, { n := p.1 })) ++ owned.flatMap s.socketSteps ++ stopEnds owned ++
      s.ctxs.flatMap (fun p => p.2.steps p.1) ++ s.cacheSteps ++ s.stackSteps ++ s.probeSteps,
    free := s.free + 2048, turn := .close }

/-! ### The close of a cycle -/

/-- R123: CYC counts the cycle. -/
def Strand.closeCycle (st : Strand) : Strand := { st with cyc := st.cyc + 1 }

/-- The close of a cycle on a tile with a live task (R188, R239, R279, R291). -/
def Tile.closeCycle (t : Tile) (now : Nat) (idle : Bool) : Tile :=
  let t := (t.heldMail .cpi now).heldMail .cpo now
  { t with
    feed := t.feed.closeCycle, compute := t.compute.closeCycle, drain := t.drain.closeCycle, vu := t.vu.applyFlags now,
    mx := t.mx.settle, nx := { t.nx with idleFor := if idle then t.nx.idleFor + 1 else 0 } }

/-- R310: one tile-cycle of a context, by intervals of 1 µs of time. -/
def Context.useTile (x : Context) (time : Nat) : Context :=
  let k := microsecond time
  { x with shares := mput (x.shares.filter (fun p => decide (k < p.1 + 1000))) k (mget x.shares k 0 + 1) }

/-- The time of a cycle at a clock step, in units of 1/342 ns (R4). -/
def cycleTime (step : Nat) : Nat := 3420 / (20 - step)

/-- The close of a cycle. -/
def State.closeCycle (s : State) : State :=
  let s := s.ranTiles.foldl (fun s l =>
    let idle := s.idle l
    (s.modTile l (fun t => t.closeCycle s.cycle idle)).modCtx (s.ctxOf l) (fun x => x.useTile s.time)) s
  { s with cycle := s.cycle + 1, time := s.time + cycleTime s.governor.step, turn := .begin, args := {} }

end Sys2Proof.Machine
end

