-- ==== Sys2Proof/Machine/Events.lean ====
section
/-! DEFINITION. The meaning of each instruction: the steps that no bundle triggers. -/

namespace Sys2Proof.Machine

/-- R88. A post is applied at the end of the first cycle in which the store buffer holds no earlier store. -/
def runSemPostApply (s : State) : Host.Outcome State Fault Refusal := .next (execSemPostApply s)

/-- R21. A fixed-latency operation places its result on a free-running result port at its landing cycle. -/
def runResultLand (s : State) : Host.Outcome State Fault Refusal := .next (execResultLand s)

/-- R22. A waiting result enters an empty data-locked result port in trigger order. -/
def runDataLockedDeliver (s : State) : Host.Outcome State Fault Refusal := .next (execDataLockedDeliver s)

/-- R24. After a resume each valid shadow is placed on its port at cycle c' + d - 1. -/
def runShadowLand (s : State) : Host.Outcome State Fault Refusal := .next (execShadowLand s)

/-- R151. With a debugger attached the strand halts before a breakpointed bundle and reports the halt. -/
def runDebugHalt (s : State) : Host.Outcome State Fault Refusal := .next (execDebugHalt s)

/-- R137. A message enters a strand's mailbox, waiting while it is full. -/
def runMailboxMessageEnter (s : State) : Host.Outcome State Fault Refusal := .next (execMailboxMessageEnter s)

/-- R172. An rpub or rrel is applied once the strand's store buffer holds no earlier store. -/
def runRingCommitApply (s : State) : Host.Outcome State Fault Refusal := .next (execRingCommitApply s)

/-- R77. The oldest store leaves the strand's store buffer and is performed at die scope. -/
def runStoreBufferDrain (s : State) : Host.Outcome State Fault Refusal := .next (execStoreBufferDrain s)

/-- R163. A peer, handle or remote load or atomic returns its value after a variable time. -/
def runLoadReturn (s : State) : Host.Outcome State Fault Refusal := .next (execLoadReturn s)

/-- R166. A mapped load or atomic value is written into xN, or dropped by a later write. -/
def runMappedWriteLand (s : State) : Host.Outcome State Fault Refusal := .next (execMappedWriteLand s)

/-- R68. A peer SPM access reaches the target tile's SPM port and is performed if the target task is live. -/
def runPeerAccessPerform (s : State) : Host.Outcome State Fault Refusal := .next (execPeerAccessPerform s)

/-- R177. The generator fetches the next element once it has room and the scoreboard allows. -/
def runStreamFetch (s : State) : Host.Outcome State Fault Refusal := .next (execStreamFetch s)

/-- R178. An ORD stream refetches elements that a later store of its strand covered. -/
def runStreamRefetch (s : State) : Host.Outcome State Fault Refusal := .next (execStreamRefetch s)

/-- R212. An racc updates its set at the end of cycle t + 3. -/
def runRaccTakeEffect (s : State) : Host.Outcome State Fault Refusal := .next (execRaccTakeEffect s)

/-- R233. A matrix operation adds its terms into every accumulator entry and places its result word. -/
def runMxLand (s : State) : Host.Outcome State Fault Refusal := .next (execMxLand s)

/-- R252. An absorb writes its entries at the end of cycle t + 5, setting OF on overflow. -/
def runAbsorbWrite (s : State) : Host.Outcome State Fault Refusal := .next (execAbsorbWrite s)

/-- R260. The saved bytes are performed at home at the end of cycle t + 7. -/
def runRsavePerform (s : State) : Host.Outcome State Fault Refusal := .next (execRsavePerform s)

/-- R252. An rload writes its entries at the end of cycle t + 7. -/
def runRloadWrite (s : State) : Host.Outcome State Fault Refusal := .next (execRloadWrite s)

/-- R274. When every destination byte is performed the copy sends its message and applies its post. -/
def runCopyComplete (s : State) : Host.Outcome State Fault Refusal := .next (execCopyComplete s)

/-- R275. A completed copy whose message has entered its mailbox leaves the scoreboard and drops CPCNT. -/
def runCopyRetire (s : State) : Host.Outcome State Fault Refusal := .next (execCopyRetire s)

/-- R278. A copy that meets a gone target or poison stops, retires and faults its strand. -/
def runCopyError (s : State) : Host.Outcome State Fault Refusal := .next (execCopyError s)

/-- R292. The sub or unsub result lands when every router has acknowledged. -/
def runSubComplete (s : State) : Host.Outcome State Fault Refusal := .next (execSubComplete s)

/-- R86. A release or acquire on a handle completes when home holds the written-back bytes. -/
def runHandleSyncComplete (s : State) : Host.Outcome State Fault Refusal := .next (execHandleSyncComplete s)

/-- R283. A remote or global nx access is performed at its home. -/
def runRemoteAccessPerform (s : State) : Host.Outcome State Fault Refusal := .next (execRemoteAccessPerform s)

/-- R293. A multicast message enters a subscriber's q12, waiting while it is full. -/
def runMcastDeliver (s : State) : Host.Outcome State Fault Refusal := .next (execMcastDeliver s)

/-- R302. A held send departs at T0 + CYC onto its time-division path. -/
def runScheduledSendDepart (s : State) : Host.Outcome State Fault Refusal := .next (execScheduledSendDepart s)

/-- R302. A scheduled payload is performed at the receiver's window after its path delay. -/
def runScheduledSendPerform (s : State) : Host.Outcome State Fault Refusal := .next (execScheduledSendPerform s)

/-- R297. When all members have arrived the barrier delivers the votes and enters the next phase. -/
def runBarrierComplete (s : State) : Host.Outcome State Fault Refusal := .next (execBarrierComplete s)

/-- R291. After the idle threshold of cycles the gate latch goes ARMED. -/
def runGateArm (s : State) : Host.Outcome State Fault Refusal := .next (execGateArm s)

/-- R291. An ARMED latch with no arrival goes GATED at the end of cycle g + 1. -/
def runGateClose (s : State) : Host.Outcome State Fault Refusal := .next (execGateClose s)

/-- R291. An arrival opens the latch and is delivered after LAT_WAKE. -/
def runGateWake (s : State) : Host.Outcome State Fault Refusal := .next (execGateWake s)

/-- R358. The commit reads the descriptor at home, checks it and writes LEN, delivering its code. -/
def runCommitComplete (s : State) : Host.Outcome State Fault Refusal := .next (execCommitComplete s)

/-- R359. The device reads and checks the command block and descriptor and accepts or rejects the query. -/
def runQueryAccept (s : State) : Host.Outcome State Fault Refusal := .next (execQueryAccept s)

/-- R362. A Weevil unit scans its bank's tokens into a partial triple. -/
def runBankScan (s : State) : Host.Outcome State Fault Refusal := .next (execBankScan s)

/-- R363. A stack's combined triple enters q15; the sixteenth retires the query. -/
def runTripleDeliver (s : State) : Host.Outcome State Fault Refusal := .next (execTripleDeliver s)

/-- R372. A one-sided fx operation is performed at the peer home or fails and sets FXERR. -/
def runFxPerform (s : State) : Host.Outcome State Fault Refusal := .next (execFxPerform s)

/-- R376. The fence flag is performed at home and its result with error bits lands. -/
def runFenceComplete (s : State) : Host.Outcome State Fault Refusal := .next (execFenceComplete s)

/-- R383. The engine takes the readiness semaphore for the oldest waiting collective. -/
def runCollectiveReady (s : State) : Host.Outcome State Fault Refusal := .next (execCollectiveReady s)

/-- R384. After all members post and exchange, the collective writes its bucket, posts CSEM and retires. -/
def runCollectiveComplete (s : State) : Host.Outcome State Fault Refusal := .next (execCollectiveComplete s)

/-- R410. A host write of LQTAIL makes new launch queue entries available to Scarab. -/
def runLaunchQueueDoorbell (s : State) : Host.Outcome State Fault Refusal := .next (execLaunchQueueDoorbell s)

/-- R34. Scarab takes a launch record and its tables, reads GEN twice and accepts or rejects the launch. -/
def runLaunchAccept (s : State) : Host.Outcome State Fault Refusal := .next (execLaunchAccept s)

/-- R413. The driver answers a page request, valid or impossible. -/
def runPgrespWrite (s : State) : Host.Outcome State Fault Refusal := .next (execPgrespWrite s)

/-- R308. All non-LAZY pages of a task are translated and pinned and it becomes WAITING. -/
def runTranslationComplete (s : State) : Host.Outcome State Fault Refusal := .next (execTranslationComplete s)

/-- R310. Scarab places a READY task or gang on free tiles and loads its stores. -/
def runTaskPlace (s : State) : Host.Outcome State Fault Refusal := .next (execTaskPlace s)

/-- R312. Scarab invalidates and stages each record of a placed task. -/
def runStartAction (s : State) : Host.Outcome State Fault Refusal := .next (execStartAction s)

/-- R314. An edge action finishes and its record's EST becomes DONE. -/
def runEdgeActionComplete (s : State) : Host.Outcome State Fault Refusal := .next (execEdgeActionComplete s)

/-- R26. With all records DONE and dependences satisfied the three strands start. -/
def runTaskStart (s : State) : Host.Outcome State Fault Refusal := .next (execTaskStart s)

/-- R126. When all strands have ended and drained the task enters ENDING and starts its end actions. -/
def runTaskFinish (s : State) : Host.Outcome State Fault Refusal := .next (execTaskFinish s)

/-- R311. An ENDING task's tile is released once every STAGE_OUT has read its window. -/
def runTileRelease (s : State) : Host.Outcome State Fault Refusal := .next (execTileRelease s)

/-- R329. A task commits once lower overlapping tasks have committed, releasing held lines and operations. -/
def runTaskCommit (s : State) : Host.Outcome State Fault Refusal := .next (execTaskCommit s)

/-- R304. A task whose end actions are DONE retires, satisfying its dependants. -/
def runTaskRetire (s : State) : Host.Outcome State Fault Refusal := .next (execTaskRetire s)

/-- R305. When all tasks of a kernel retire Scarab reports its completion. -/
def runKernelComplete (s : State) : Host.Outcome State Fault Refusal := .next (execKernelComplete s)

/-- R324. After a higher-priority task waits 100 us the firmware sends a pre-emption notice. -/
def runPreemptNotice (s : State) : Host.Outcome State Fault Refusal := .next (execPreemptNotice s)

/-- R144. Scarab injects a stop token into the feed strand, which halts. -/
def runStopTokenInject (s : State) : Host.Outcome State Fault Refusal := .next (execStopTokenInject s)

/-- R144. A strand that received the token halts and passes it on. -/
def runStrandHaltOnToken (s : State) : Host.Outcome State Fault Refusal := .next (execStrandHaltOnToken s)

/-- R145. After in-flight work drains the context image is written and the task is STOPPED. -/
def runStopComplete (s : State) : Host.Outcome State Fault Refusal := .next (execStopComplete s)

/-- R142. A strand's fault halts the other strands and starts the stop of its task. -/
def runTaskFault (s : State) : Host.Outcome State Fault Refusal := .next (execTaskFault s)

/-- R149. Scarab reloads a stopped task's stores and image and starts its strands. -/
def runTaskResume (s : State) : Host.Outcome State Fault Refusal := .next (execTaskResume s)

/-- R330. Scarab writes dirty lines home, empties the undo log and sets a new boundary. -/
def runCheckpoint (s : State) : Host.Outcome State Fault Refusal := .next (execCheckpoint s)

/-- R332. Scarab replays the undo log and returns the context's alive kernels to the boundary. -/
def runRollback (s : State) : Host.Outcome State Fault Refusal := .next (execRollback s)

/-- R333. Scarab aborts a kernel, restoring memory to the boundary and reporting it. -/
def runKernelAbort (s : State) : Host.Outcome State Fault Refusal := .next (execKernelAbort s)

/-- R334. Scarab fences a failed or hung tile and rolls back its kernel. -/
def runTileFence (s : State) : Host.Outcome State Fault Refusal := .next (execTileFence s)

/-- R337. A fault is carried to other gang members at their next bar, xsend or barrier wait. -/
def runDomainAbort (s : State) : Host.Outcome State Fault Refusal := .next (execDomainAbort s)

/-- R337. 20 us after the fault a member receives DOMAIN_ABORT at its next bundle boundary. -/
def runDomainAbortDeadline (s : State) : Host.Outcome State Fault Refusal := .next (execDomainAbortDeadline s)

/-- R419. A kernel running WDOG ms has its tasks stopped with WATCHDOG records. -/
def runWatchdog (s : State) : Host.Outcome State Fault Refusal := .next (execWatchdog s)

/-- R419. Stag probes each tile every 1 ms and fences one that fails 10 probes. -/
def runHangProbe (s : State) : Host.Outcome State Fault Refusal := .next (execHangProbe s)

/-- R411. Scarab raises the completion or fault vector at most once per microsecond. -/
def runCompletionVector (s : State) : Host.Outcome State Fault Refusal := .next (execCompletionVector s)

/-- R410. The host frees completion queue entries. -/
def runCqheadWrite (s : State) : Host.Outcome State Fault Refusal := .next (execCqheadWrite s)

/-- R412. The host frees fault queue entries, releasing held records. -/
def runFqheadWrite (s : State) : Host.Outcome State Fault Refusal := .next (execFqheadWrite s)

/-- R414. The host sends a TYPE 5 message to a strand's mailbox or gets KIND 6. -/
def runHmsgbWrite (s : State) : Host.Outcome State Fault Refusal := .next (execHmsgbWrite s)

/-- R408. Enables or disables a context and sets its weight and job. -/
def runCtxctlWrite (s : State) : Host.Outcome State Fault Refusal := .next (execCtxctlWrite s)

/-- R408. The debug interface halts the selected strand. -/
def runDbgcmdHalt (s : State) : Host.Outcome State Fault Refusal := .next (execDbgcmdHalt s)

/-- R408. The debug interface resumes the selected strand. -/
def runDbgcmdResume (s : State) : Host.Outcome State Fault Refusal := .next (execDbgcmdResume s)

/-- R152. The debug interface single-steps the selected strand. -/
def runDbgcmdStep (s : State) : Host.Outcome State Fault Refusal := .next (execDbgcmdStep s)

/-- R409. The first write after reset stores the accepted features masked by the offered ones. -/
def runFeatAccWrite (s : State) : Host.Outcome State Fault Refusal := .next (execFeatAccWrite s)

/-- R418. Sets the module power limit, clamped to 1,000-4,200 W. -/
def runPwrlimWrite (s : State) : Host.Outcome State Fault Refusal := .next (execPwrlimWrite s)

/-- R408. A write to a BAR0 register with no behaviour of its own stores the value. -/
def runRegisterWrite (s : State) : Host.Outcome State Fault Refusal := .next (execRegisterWrite s)

/-- R406. A host read or write through the device-memory window reaches HBM home. -/
def runBar2Access (s : State) : Host.Outcome State Fault Refusal := .next (execBar2Access s)

/-- R417. Reset starts link training and the bring-up sequence. -/
def runPowerOnReset (s : State) : Host.Outcome State Fault Refusal := .next (execPowerOnReset s)

/-- R415. A die checks, measures and runs the next firmware stage or enters RECOVERY. -/
def runBootStage (s : State) : Host.Outcome State Fault Refusal := .next (execBootStage s)

/-- R416. SPDM request answered over DOE. -/
def runGetVersion (s : State) : Host.Outcome State Fault Refusal := .next (execGetVersion s)

/-- R416. SPDM request answered over DOE. -/
def runGetCapabilities (s : State) : Host.Outcome State Fault Refusal := .next (execGetCapabilities s)

/-- R416. SPDM request answered over DOE. -/
def runNegotiateAlgorithms (s : State) : Host.Outcome State Fault Refusal := .next (execNegotiateAlgorithms s)

/-- R416. SPDM request answered over DOE. -/
def runGetDigests (s : State) : Host.Outcome State Fault Refusal := .next (execGetDigests s)

/-- R416. SPDM request answered over DOE. -/
def runGetCertificate (s : State) : Host.Outcome State Fault Refusal := .next (execGetCertificate s)

/-- R416. SPDM challenge signed with the boot-time identity key. -/
def runChallenge (s : State) : Host.Outcome State Fault Refusal := .next (execChallenge s)

/-- R416. Returns the count or all 40 measurement blocks. -/
def runGetMeasurements (s : State) : Host.Outcome State Fault Refusal := .next (execGetMeasurements s)

/-- R418. On power excess the governor lowers the clock by 100 MHz every 50 us, then spaces issue. -/
def runGovernorStepDown (s : State) : Host.Outcome State Fault Refusal := .next (execGovernorStepDown s)

/-- R418. After 1 ms of margin the governor lifts spacing or raises the clock one step. -/
def runGovernorStepUp (s : State) : Host.Outcome State Fault Refusal := .next (execGovernorStepUp s)

/-- R420. Stag updates a die's Scarab firmware while running work continues. -/
def runFirmwareUpdate (s : State) : Host.Outcome State Fault Refusal := .next (execFirmwareUpdate s)

/-- R420. A failed Fjolos link is retrained and its traffic rerouted. -/
def runLinkRetrain (s : State) : Host.Outcome State Fault Refusal := .next (execLinkRetrain s)

/-- R340. Stag changes a stack window entry and zeroes the window. -/
def runWindowTableChange (s : State) : Host.Outcome State Fault Refusal := .next (execWindowTableChange s)

/-- R344. Each bank is refreshed once per 3.9 us interval. -/
def runBankRefresh (s : State) : Host.Outcome State Fault Refusal := .next (execBankRefresh s)

/-- R345. A row's activation count reaching ACTTH triggers neighbour refresh and back-off. -/
def runRowHammerAlert (s : State) : Host.Outcome State Fault Refusal := .next (execRowHammerAlert s)

/-- R347. The scrub reads every atom once in 24 hours, correcting or poisoning. -/
def runPatrolScrub (s : State) : Host.Outcome State Fault Refusal := .next (execPatrolScrub s)

/-- R349. Stag copies a row into a spare and validates its remap entry. -/
def runRowRemap (s : State) : Host.Outcome State Fault Refusal := .next (execRowRemap s)

/-- R351. Failed remap copies fence a pseudo-channel and roll back kernels that map it. -/
def runPseudoChannelFence (s : State) : Host.Outcome State Fault Refusal := .next (execPseudoChannelFence s)

/-- R399. gyld checks, binds, relocates and registers a code object. -/
def runGyldLoad (s : State) : Host.Outcome State Fault Refusal := .next (execGyldLoad s)

/-- R402. gyld removes an image whose reference count is zero. -/
def runGyldUnload (s : State) : Host.Outcome State Fault Refusal := .next (execGyldUnload s)

/-- R403. gyld removes an image and marks its waiting and stopped tasks. -/
def runGyldForcedUnload (s : State) : Host.Outcome State Fault Refusal := .next (execGyldForcedUnload s)

/-- R405. gyld makes a private image for one context to be debugged. -/
def runCopyOnDebug (s : State) : Host.Outcome State Fault Refusal := .next (execCopyOnDebug s)

/-- R405. gyld removes the private image replacement. -/
def runEndCopyOnDebug (s : State) : Host.Outcome State Fault Refusal := .next (execEndCopyOnDebug s)

/-- R87. A die cache writes a dirty byte back to home at a moment of its own choosing, for example on eviction. -/
def runDieCacheWriteBack (s : State) : Host.Outcome State Fault Refusal := .next (execDieCacheWriteBack s)

/-- R177. A handle stream's fetched element reaches its head after a variable die-cache latency, or meets poison. -/
def runHandleStreamFetchReturn (s : State) : Host.Outcome State Fault Refusal := .next (execHandleStreamFetchReturn s)

/-- R322. The region TLB loads of a tk.xlt finish and its result word lands on tk.res. -/
def runXltLoadsComplete (s : State) : Host.Outcome State Fault Refusal := .next (execXltLoadsComplete s)

/-- R344. A stack reports its temperature crossing 85 degrees C, halving or restoring the refresh periods. -/
def runStackTemperatureReport (s : State) : Host.Outcome State Fault Refusal := .next (execStackTemperatureReport s)

/-- R415. A die in RECOVERY receives a firmware image through DOE. -/
def runRecoveryFirmwareImage (s : State) : Host.Outcome State Fault Refusal := .next (execRecoveryFirmwareImage s)

end Sys2Proof.Machine
end

