-- ==== Sys2Proof/Machine/MovesInt.lean ====
section
/-! DEFINITION. The meaning of each instruction: the triggers of ix, ls and st. -/

namespace Sys2Proof.Machine

/-- R155: ix0.add. Delivers a + t. -/
def execIxAdd (u : IxUnit) (m : Mv) (s : State) : Host.Outcome State Fault Refusal := .next (issueTrig (.ix u .add) m s)

/-- R155: ix0.sub. Delivers a - t. -/
def execIxSub (u : IxUnit) (m : Mv) (s : State) : Host.Outcome State Fault Refusal := .next (issueTrig (.ix u .sub) m s)

/-- R155: ix0.and. Delivers a and t. -/
def execIxAnd (u : IxUnit) (m : Mv) (s : State) : Host.Outcome State Fault Refusal := .next (issueTrig (.ix u .and) m s)

/-- R155: ix0.or. Delivers a or t. -/
def execIxOr (u : IxUnit) (m : Mv) (s : State) : Host.Outcome State Fault Refusal := .next (issueTrig (.ix u .or) m s)

/-- R155: ix0.xor. Delivers a xor t. -/
def execIxXor (u : IxUnit) (m : Mv) (s : State) : Host.Outcome State Fault Refusal := .next (issueTrig (.ix u .xor) m s)

/-- R155: ix0.andn. Delivers a and not t. -/
def execIxAndn (u : IxUnit) (m : Mv) (s : State) : Host.Outcome State Fault Refusal := .next (issueTrig (.ix u .andn) m s)

/-- R155: ix0.shl. Delivers a shifted left by t[5:0]. -/
def execIxShl (u : IxUnit) (m : Mv) (s : State) : Host.Outcome State Fault Refusal := .next (issueTrig (.ix u .shl) m s)

/-- R155: ix0.shr. Delivers a shifted right with zeros. -/
def execIxShr (u : IxUnit) (m : Mv) (s : State) : Host.Outcome State Fault Refusal := .next (issueTrig (.ix u .shr) m s)

/-- R155: ix0.sra. Delivers a shifted right with sign copies. -/
def execIxSra (u : IxUnit) (m : Mv) (s : State) : Host.Outcome State Fault Refusal := .next (issueTrig (.ix u .sra) m s)

/-- R155: ix0.min. Delivers the signed minimum of a and t. -/
def execIxMin (u : IxUnit) (m : Mv) (s : State) : Host.Outcome State Fault Refusal := .next (issueTrig (.ix u .min) m s)

/-- R155: ix0.max. Delivers the signed maximum of a and t. -/
def execIxMax (u : IxUnit) (m : Mv) (s : State) : Host.Outcome State Fault Refusal := .next (issueTrig (.ix u .max) m s)

/-- R155: ix0.minu. Delivers the unsigned minimum. -/
def execIxMinu (u : IxUnit) (m : Mv) (s : State) : Host.Outcome State Fault Refusal := .next (issueTrig (.ix u .minu) m s)

/-- R155: ix0.maxu. Delivers the unsigned maximum. -/
def execIxMaxu (u : IxUnit) (m : Mv) (s : State) : Host.Outcome State Fault Refusal := .next (issueTrig (.ix u .maxu) m s)

/-- R155: ix0.mov. Delivers t. -/
def execIxMov (u : IxUnit) (m : Mv) (s : State) : Host.Outcome State Fault Refusal := .next (issueTrig (.ix u .mov) m s)

/-- R155: ix0.sxt. Sign-extends a from bit t[5:0]. -/
def execIxSxt (u : IxUnit) (m : Mv) (s : State) : Host.Outcome State Fault Refusal := .next (issueTrig (.ix u .sxt) m s)

/-- R155: ix0.zxt. Zero-extends a from bit t[5:0]. -/
def execIxZxt (u : IxUnit) (m : Mv) (s : State) : Host.Outcome State Fault Refusal := .next (issueTrig (.ix u .zxt) m s)

/-- R155: ix0.clz. Counts leading zeros of t. -/
def execIxClz (u : IxUnit) (m : Mv) (s : State) : Host.Outcome State Fault Refusal := .next (issueTrig (.ix u .clz) m s)

/-- R155: ix0.popc. Counts one bits of t. -/
def execIxPopc (u : IxUnit) (m : Mv) (s : State) : Host.Outcome State Fault Refusal := .next (issueTrig (.ix u .popc) m s)

/-- R155: ix0.sel. Delivers a when t is non-zero, otherwise c. -/
def execIxSel (u : IxUnit) (m : Mv) (s : State) : Host.Outcome State Fault Refusal := .next (issueTrig (.ix u .sel) m s)

/-- R157: ix0.ceq. Compares a = t, writing res and the selected guard. -/
def execIxCeq (u : IxUnit) (m : Mv) (s : State) : Host.Outcome State Fault Refusal := .next (issueTrig (.ix u .ceq) m s)

/-- R157: ix0.cne. Compares a != t, writing res and the selected guard. -/
def execIxCne (u : IxUnit) (m : Mv) (s : State) : Host.Outcome State Fault Refusal := .next (issueTrig (.ix u .cne) m s)

/-- R157: ix0.clt. Signed compare a < t. -/
def execIxClt (u : IxUnit) (m : Mv) (s : State) : Host.Outcome State Fault Refusal := .next (issueTrig (.ix u .clt) m s)

/-- R157: ix0.cle. Signed compare a <= t. -/
def execIxCle (u : IxUnit) (m : Mv) (s : State) : Host.Outcome State Fault Refusal := .next (issueTrig (.ix u .cle) m s)

/-- R157: ix0.cltu. Unsigned compare a < t. -/
def execIxCltu (u : IxUnit) (m : Mv) (s : State) : Host.Outcome State Fault Refusal := .next (issueTrig (.ix u .cltu) m s)

/-- R157: ix0.cleu. Unsigned compare a <= t. -/
def execIxCleu (u : IxUnit) (m : Mv) (s : State) : Host.Outcome State Fault Refusal := .next (issueTrig (.ix u .cleu) m s)

/-- R157: ix0.ctst. Tests whether a and t is non-zero. -/
def execIxCtst (u : IxUnit) (m : Mv) (s : State) : Host.Outcome State Fault Refusal := .next (issueTrig (.ix u .ctst) m s)

/-- R155: ix0.mul. Signed 128-bit product into res and hi. -/
def execIxMul (u : IxUnit) (m : Mv) (s : State) : Host.Outcome State Fault Refusal := .next (issueTrig (.ix u .mul) m s)

/-- R155: ix0.mulu. Unsigned 128-bit product into res and hi. -/
def execIxMulu (u : IxUnit) (m : Mv) (s : State) : Host.Outcome State Fault Refusal := .next (issueTrig (.ix u .mulu) m s)

/-- R155: ix0.mac. Delivers a + c x t. -/
def execIxMac (u : IxUnit) (m : Mv) (s : State) : Host.Outcome State Fault Refusal := .next (issueTrig (.ix u .mac) m s)

/-- R156: ix0.div. Signed quotient and remainder. -/
def execIxDiv (u : IxUnit) (m : Mv) (s : State) : Host.Outcome State Fault Refusal := .next (issueTrig (.ix u .div) m s)

/-- R156: ix0.divu. Unsigned quotient and remainder. -/
def execIxDivu (u : IxUnit) (m : Mv) (s : State) : Host.Outcome State Fault Refusal := .next (issueTrig (.ix u .divu) m s)

/-- R162: ls.ld8. Loads one byte sign-extended. -/
def execLsLd8 (m : Mv) (s : State) : Host.Outcome State Fault Refusal := .next (issueTrig (.ls .ld8) m s)

/-- R162: ls.ld8u. Loads one byte zero-extended. -/
def execLsLd8u (m : Mv) (s : State) : Host.Outcome State Fault Refusal := .next (issueTrig (.ls .ld8u) m s)

/-- R162: ls.ld16. Loads two bytes sign-extended. -/
def execLsLd16 (m : Mv) (s : State) : Host.Outcome State Fault Refusal := .next (issueTrig (.ls .ld16) m s)

/-- R162: ls.ld16u. Loads two bytes zero-extended. -/
def execLsLd16u (m : Mv) (s : State) : Host.Outcome State Fault Refusal := .next (issueTrig (.ls .ld16u) m s)

/-- R162: ls.ld32. Loads four bytes sign-extended. -/
def execLsLd32 (m : Mv) (s : State) : Host.Outcome State Fault Refusal := .next (issueTrig (.ls .ld32) m s)

/-- R162: ls.ld32u. Loads four bytes zero-extended. -/
def execLsLd32u (m : Mv) (s : State) : Host.Outcome State Fault Refusal := .next (issueTrig (.ls .ld32u) m s)

/-- R162: ls.ld64. Loads eight bytes. -/
def execLsLd64 (m : Mv) (s : State) : Host.Outcome State Fault Refusal := .next (issueTrig (.ls .ld64) m s)

/-- R162: ls.st8. Stores one byte of ls.d. -/
def execLsSt8 (m : Mv) (s : State) : Host.Outcome State Fault Refusal := .next (issueTrig (.ls .st8) m s)

/-- R162: ls.st16. Stores two bytes of ls.d. -/
def execLsSt16 (m : Mv) (s : State) : Host.Outcome State Fault Refusal := .next (issueTrig (.ls .st16) m s)

/-- R162: ls.st32. Stores four bytes of ls.d. -/
def execLsSt32 (m : Mv) (s : State) : Host.Outcome State Fault Refusal := .next (issueTrig (.ls .st32) m s)

/-- R162: ls.st64. Stores eight bytes of ls.d. -/
def execLsSt64 (m : Mv) (s : State) : Host.Outcome State Fault Refusal := .next (issueTrig (.ls .st64) m s)

/-- R162: ls.vld. Loads 128 bytes into ls.vres. -/
def execLsVld (m : Mv) (s : State) : Host.Outcome State Fault Refusal := .next (issueTrig (.ls .vld) m s)

/-- R162: ls.vst. Stores ls.vd as 128 bytes. -/
def execLsVst (m : Mv) (s : State) : Host.Outcome State Fault Refusal := .next (issueTrig (.ls .vst) m s)

/-- R164: ls.aadd. Atomic add returning the old value. -/
def execLsAadd (m : Mv) (s : State) : Host.Outcome State Fault Refusal := .next (issueTrig (.ls .aadd) m s)

/-- R164: ls.aswp. Atomic swap returning the old value. -/
def execLsAswp (m : Mv) (s : State) : Host.Outcome State Fault Refusal := .next (issueTrig (.ls .aswp) m s)

/-- R164: ls.acas. Atomic compare-and-swap returning the old value. -/
def execLsAcas (m : Mv) (s : State) : Host.Outcome State Fault Refusal := .next (issueTrig (.ls .acas) m s)

/-- R164: ls.amin. Atomic signed minimum. -/
def execLsAmin (m : Mv) (s : State) : Host.Outcome State Fault Refusal := .next (issueTrig (.ls .amin) m s)

/-- R164: ls.amax. Atomic signed maximum. -/
def execLsAmax (m : Mv) (s : State) : Host.Outcome State Fault Refusal := .next (issueTrig (.ls .amax) m s)

/-- R164: ls.aminu. Atomic unsigned minimum. -/
def execLsAminu (m : Mv) (s : State) : Host.Outcome State Fault Refusal := .next (issueTrig (.ls .aminu) m s)

/-- R164: ls.amaxu. Atomic unsigned maximum. -/
def execLsAmaxu (m : Mv) (s : State) : Host.Outcome State Fault Refusal := .next (issueTrig (.ls .amaxu) m s)

/-- R164: ls.aand. Atomic and. -/
def execLsAand (m : Mv) (s : State) : Host.Outcome State Fault Refusal := .next (issueTrig (.ls .aand) m s)

/-- R164: ls.aor. Atomic or. -/
def execLsAor (m : Mv) (s : State) : Host.Outcome State Fault Refusal := .next (issueTrig (.ls .aor) m s)

/-- R164: ls.axor. Atomic xor. -/
def execLsAxor (m : Mv) (s : State) : Host.Outcome State Fault Refusal := .next (issueTrig (.ls .axor) m s)

/-- R165: ls.aacc. Adds ls.d into memory as INT32, INT64, FP32 or FP64 with no result. -/
def execLsAacc (m : Mv) (s : State) : Host.Outcome State Fault Refusal := .next (issueTrig (.ls .aacc) m s)

/-- R169: ls.rcfg. Configures a ring from ls.rdesc. -/
def execLsRcfg (m : Mv) (s : State) : Host.Outcome State Fault Refusal := .next (issueTrig (.ls .rcfg) m s)

/-- R170: ls.racq. Acquires a free producer slot of a ring. -/
def execLsRacq (m : Mv) (s : State) : Host.Outcome State Fault Refusal := .next (issueTrig (.ls .racq) m s)

/-- R170: ls.rpub. Publishes a producer slot to consumers. -/
def execLsRpub (m : Mv) (s : State) : Host.Outcome State Fault Refusal := .next (issueTrig (.ls .rpub) m s)

/-- R170: ls.rget. Takes a published consumer slot of a ring. -/
def execLsRget (m : Mv) (s : State) : Host.Outcome State Fault Refusal := .next (issueTrig (.ls .rget) m s)

/-- R170: ls.rrel. Releases a consumer slot back to producers. -/
def execLsRrel (m : Mv) (s : State) : Host.Outcome State Fault Refusal := .next (issueTrig (.ls .rrel) m s)

/-- R170: ls.rst. Delivers the ring status word. -/
def execLsRst (m : Mv) (s : State) : Host.Outcome State Fault Refusal := .next (issueTrig (.ls .rst) m s)

/-- R201: ls.vg16. Gathers 16-bit elements by an index vector. -/
def execLsVg16 (m : Mv) (s : State) : Host.Outcome State Fault Refusal := .next (issueTrig (.ls .vg16) m s)

/-- R201: ls.vg32. Gathers 32-bit elements. -/
def execLsVg32 (m : Mv) (s : State) : Host.Outcome State Fault Refusal := .next (issueTrig (.ls .vg32) m s)

/-- R201: ls.vg64. Gathers 64-bit elements. -/
def execLsVg64 (m : Mv) (s : State) : Host.Outcome State Fault Refusal := .next (issueTrig (.ls .vg64) m s)

/-- R201: ls.vs16. Scatters 16-bit elements. -/
def execLsVs16 (m : Mv) (s : State) : Host.Outcome State Fault Refusal := .next (issueTrig (.ls .vs16) m s)

/-- R201: ls.vs32. Scatters 32-bit elements. -/
def execLsVs32 (m : Mv) (s : State) : Host.Outcome State Fault Refusal := .next (issueTrig (.ls .vs32) m s)

/-- R201: ls.vs64. Scatters 64-bit elements. -/
def execLsVs64 (m : Mv) (s : State) : Host.Outcome State Fault Refusal := .next (issueTrig (.ls .vs64) m s)

/-- R201: ls.vscadd.i32. Scatter-adds INT32 elements in lane order. -/
def execLsVscaddI32 (m : Mv) (s : State) : Host.Outcome State Fault Refusal := .next (issueTrig (.ls .vscaddI32) m s)

/-- R201: ls.vscadd.i64. Scatter-adds INT64 elements. -/
def execLsVscaddI64 (m : Mv) (s : State) : Host.Outcome State Fault Refusal := .next (issueTrig (.ls .vscaddI64) m s)

/-- R201: ls.vscadd.f32. Scatter-adds FP32 elements in RNE. -/
def execLsVscaddF32 (m : Mv) (s : State) : Host.Outcome State Fault Refusal := .next (issueTrig (.ls .vscaddF32) m s)

/-- R201: ls.vscadd.f64. Scatter-adds FP64 elements in RNE. -/
def execLsVscaddF64 (m : Mv) (s : State) : Host.Outcome State Fault Refusal := .next (issueTrig (.ls .vscaddF64) m s)

/-- R176: st0.open. Opens a stream generator with its selector, base, dimensions and configuration. -/
def execStOpen (k : Fin 4) (m : Mv) (s : State) : Host.Outcome State Fault Refusal := .next (issueTrig (.st k .opening) m s)

/-- R179: st0.close. Discards a stream's entries and fetches and makes it idle. -/
def execStClose (k : Fin 4) (m : Mv) (s : State) : Host.Outcome State Fault Refusal := .next (issueTrig (.st k .closing) m s)

end Sys2Proof.Machine
end

