-- ==== Sys2Proof/Machine/MovesMatrix.lean ====
section
/-! DEFINITION. The meaning of each instruction: the triggers of mx and acc. -/

namespace Sys2Proof.Machine

/-- R225: mx.f64. Starts an FP64 matrix operation into an accumulator. -/
def execMxF64 (m : Mv) (s : State) : Host.Outcome State Fault Refusal := .next (issueTrig (.mx .f64) m s)

/-- R225: mx.f32. Starts an FP32 matrix operation. -/
def execMxF32 (m : Mv) (s : State) : Host.Outcome State Fault Refusal := .next (issueTrig (.mx .f32) m s)

/-- R225: mx.f16. Starts an FP16 matrix operation. -/
def execMxF16 (m : Mv) (s : State) : Host.Outcome State Fault Refusal := .next (issueTrig (.mx .f16) m s)

/-- R225: mx.bf16. Starts a BF16 matrix operation. -/
def execMxBf16 (m : Mv) (s : State) : Host.Outcome State Fault Refusal := .next (issueTrig (.mx .bf16) m s)

/-- R225: mx.i8. Starts an 8-bit integer matrix operation. -/
def execMxI8 (m : Mv) (s : State) : Host.Outcome State Fault Refusal := .next (issueTrig (.mx .i8) m s)

/-- R225: mx.mx8. Starts an MXINT8 matrix operation. -/
def execMxMx8 (m : Mv) (s : State) : Host.Outcome State Fault Refusal := .next (issueTrig (.mx .mx8) m s)

/-- R225: mx.mx6. Starts an MXINT6 matrix operation. -/
def execMxMx6 (m : Mv) (s : State) : Host.Outcome State Fault Refusal := .next (issueTrig (.mx .mx6) m s)

/-- R225: mx.mx4. Starts an MXINT4 matrix operation. -/
def execMxMx4 (m : Mv) (s : State) : Host.Outcome State Fault Refusal := .next (issueTrig (.mx .mx4) m s)

/-- R225: mx.e4e4. Starts an E4M3 by E4M3 matrix operation. -/
def execMxE4e4 (m : Mv) (s : State) : Host.Outcome State Fault Refusal := .next (issueTrig (.mx .e4e4) m s)

/-- R225: mx.e4e5. Starts an E4M3 by E5M2 matrix operation. -/
def execMxE4e5 (m : Mv) (s : State) : Host.Outcome State Fault Refusal := .next (issueTrig (.mx .e4e5) m s)

/-- R225: mx.e5e4. Starts an E5M2 by E4M3 matrix operation. -/
def execMxE5e4 (m : Mv) (s : State) : Host.Outcome State Fault Refusal := .next (issueTrig (.mx .e5e4) m s)

/-- R225: mx.e5e5. Starts an E5M2 by E5M2 matrix operation. -/
def execMxE5e5 (m : Mv) (s : State) : Host.Outcome State Fault Refusal := .next (issueTrig (.mx .e5e5) m s)

/-- R242: mx.mdset. Sets the matrix metadata pointer MXMDC. -/
def execMxMdset (m : Mv) (s : State) : Host.Outcome State Fault Refusal := .next (issueTrig (.mx .mdset) m s)

/-- R253: acc.clr. Clears all entries of an accumulator. -/
def execAccClr (m : Mv) (s : State) : Host.Outcome State Fault Refusal := .next (issueTrig (.acc .clr) m s)

/-- R254: acc.res.f32. Resolves a run of entries to FP32 lanes. -/
def execAccResF32 (m : Mv) (s : State) : Host.Outcome State Fault Refusal := .next (issueTrig (.acc .resF32) m s)

/-- R254: acc.res.bf16. Resolves a run of entries to BF16 lanes. -/
def execAccResBf16 (m : Mv) (s : State) : Host.Outcome State Fault Refusal := .next (issueTrig (.acc .resBf16) m s)

/-- R254: acc.res.f64. Resolves a run of entries to FP64 lanes. -/
def execAccResF64 (m : Mv) (s : State) : Host.Outcome State Fault Refusal := .next (issueTrig (.acc .resF64) m s)

/-- R254: acc.res.i32. Resolves a run of entries to INT32 lanes. -/
def execAccResI32 (m : Mv) (s : State) : Host.Outcome State Fault Refusal := .next (issueTrig (.acc .resI32) m s)

/-- R255: acc.cmpz. Reports the sign class of each entry without rounding. -/
def execAccCmpz (m : Mv) (s : State) : Host.Outcome State Fault Refusal := .next (issueTrig (.acc .cmpz) m s)

/-- R257: acc.emit. Delivers eight entries as exact mantissa-exponent pairs. -/
def execAccEmit (m : Mv) (s : State) : Host.Outcome State Fault Refusal := .next (issueTrig (.acc .emit) m s)

/-- R258: acc.absorb. Adds eight pairs into a run of entries through Align. -/
def execAccAbsorb (m : Mv) (s : State) : Host.Outcome State Fault Refusal := .next (issueTrig (.acc .absorb) m s)

/-- R259: acc.rsave. Writes the raw images of one accumulator row to SPM. -/
def execAccRsave (m : Mv) (s : State) : Host.Outcome State Fault Refusal := .next (issueTrig (.acc .rsave) m s)

/-- R259: acc.rload. Loads raw entry images of one row from SPM. -/
def execAccRload (m : Mv) (s : State) : Host.Outcome State Fault Refusal := .next (issueTrig (.acc .rload) m s)

/-- R261: acc.stat. Delivers the acc status word. -/
def execAccStat (m : Mv) (s : State) : Host.Outcome State Fault Refusal := .next (issueTrig (.acc .stat) m s)

/-- R261: acc.sclr. Clears the acc sticky flags. -/
def execAccSclr (m : Mv) (s : State) : Host.Outcome State Fault Refusal := .next (issueTrig (.acc .sclr) m s)

end Sys2Proof.Machine
end

