-- ==== Sys2Proof/Machine/MovesSeq.lean ====
section
/-! DEFINITION. The meaning of each instruction: the bundle and header rows, the moves to state, and the triggers of sys, br, sem and mb. -/

namespace Sys2Proof.Machine

/-- R16. A strand issues its next bundle whole once its sources, trigger checks, tail room and semaphore condition all pass. -/
def execBundleIssue (w : BitVec 256) (s : State) : Host.Outcome State Fault Refusal :=
  .next (issueWord w s)

/-- R39. The POP bit of a head consumes exactly one entry at the end of the bundle. -/
def execHeaderPop (q : Fin 16) (s : State) : Host.Outcome State Fault Refusal :=
  .next (issueHeader { plainHeader with pop := BitVec.ofNat 16 (2 ^ q.val) } s)

/-- R36. The bundle issues only when the named semaphore is at least 1. -/
def execHeaderSemWait (n : BitVec 6) (s : State) : Host.Outcome State Fault Refusal :=
  .next (issueHeader { plainHeader with semop := 1, sem := n } s)

/-- R36. The bundle posts the named semaphore by one. -/
def execHeaderSemPost (n : BitVec 6) (s : State) : Host.Outcome State Fault Refusal :=
  .next (issueHeader { plainHeader with semop := 2, sem := n } s)

/-- R36. The bundle waits until the named semaphore is at least 1 and then decrements it. -/
def execHeaderSemTake (n : BitVec 6) (s : State) : Host.Outcome State Fault Refusal :=
  .next (issueHeader { plainHeader with semop := 3, sem := n } s)

/-- R37. A nop bundle with REP n issues and then idles the strand for n cycles. -/
def execRepIdle (n : BitVec 4) (s : State) : Host.Outcome State Fault Refusal :=
  .next (issueHeader { plainHeader with rep := n.toNat } s)

/-- R49. A move writes a value into scalar register xN. -/
def execMoveToX (m : Mv) (n : Fin 64) (s : State) : Host.Outcome State Fault Refusal :=
  .next (issueMove m.g m.s (Dst.x n).d s)

/-- R49. A move sets guard gN to whether the value is non-zero. -/
def execMoveToG (m : Mv) (n : Fin 3) (s : State) : Host.Outcome State Fault Refusal :=
  .next (issueMove m.g m.s (Dst.g n).d s)

/-- R49. A move of the compute strand writes vector register vN. -/
def execMoveToV (m : Mv) (n : Fin 32) (s : State) : Host.Outcome State Fault Refusal :=
  .next (issueMove m.g m.s (Dst.v n).d s)

/-- R49. A move places a value in an inter-strand queue tail. -/
def execMoveToQ (m : Mv) (n : Fin 8) (s : State) : Host.Outcome State Fault Refusal :=
  .next (issueMove m.g m.s (Dst.tail n).d s)

/-- R123: sys.csrr. Copies the named CSR into sys.res. -/
def execSysCsrr (m : Mv) (s : State) : Host.Outcome State Fault Refusal := .next (issueTrig (.sys .csrr) m s)

/-- R123: sys.csrw. Writes sys.v into the named CSR. -/
def execSysCsrw (m : Mv) (s : State) : Host.Outcome State Fault Refusal := .next (issueTrig (.sys .csrw) m s)

/-- R125: sys.wait.ld. The bundle issues only when LDCNT is at most n. -/
def execSysWaitLd (m : Mv) (s : State) : Host.Outcome State Fault Refusal := .next (issueTrig (.sys .waitLd) m s)

/-- R125: sys.wait.st. The bundle issues only when STCNT is at most n. -/
def execSysWaitSt (m : Mv) (s : State) : Host.Outcome State Fault Refusal := .next (issueTrig (.sys .waitSt) m s)

/-- R125: sys.wait.cp. The bundle issues only when CPCNT is at most n. -/
def execSysWaitCp (m : Mv) (s : State) : Host.Outcome State Fault Refusal := .next (issueTrig (.sys .waitCp) m s)

/-- R127: sys.trap. The bundle issues whole and the strand stops with a TRAP fault carrying the code. -/
def execSysTrap (m : Mv) (s : State) : Host.Outcome State Fault Refusal := .next (issueTrig (.sys .trap) m s)

/-- R128: sys.brk. The bundle does not issue; the strand enters debug halt or raises BREAK. -/
def execSysBrk (m : Mv) (s : State) : Host.Outcome State Fault Refusal := .next (issueTrig (.sys .brk) m s)

/-- R126: sys.end. Marks the strand's last bundle; the strand issues nothing more. -/
def execSysEnd (m : Mv) (s : State) : Host.Outcome State Fault Refusal := .next (issueTrig (.sys .ending) m s)

/-- R129: br.jmp. Branches to the bundle index in the operand. -/
def execBrJmp (m : Mv) (s : State) : Host.Outcome State Fault Refusal := .next (issueTrig (.br .jmp) m s)

/-- R129: br.call. Pushes the return index and branches to the operand. -/
def execBrCall (m : Mv) (s : State) : Host.Outcome State Fault Refusal := .next (issueTrig (.br .call) m s)

/-- R129: br.ret. Pops the return stack and branches to it. -/
def execBrRet (m : Mv) (s : State) : Host.Outcome State Fault Refusal := .next (issueTrig (.br .ret) m s)

/-- R130: br.loop. Starts a hardware loop over the following bundles up to END with count br.n. -/
def execBrLoop (m : Mv) (s : State) : Host.Outcome State Fault Refusal := .next (issueTrig (.br .loop) m s)

/-- R130: br.lexit. Ends the inner loop and continues after its END. -/
def execBrLexit (m : Mv) (s : State) : Host.Outcome State Fault Refusal := .next (issueTrig (.br .lexit) m s)

/-- R132: br.mdset. Sets the strand's metadata counter. -/
def execBrMdset (m : Mv) (s : State) : Host.Outcome State Fault Refusal := .next (issueTrig (.br .mdset) m s)

/-- R132: br.mdrd. Reads the metadata word at MDC into br.res and advances MDC. -/
def execBrMdrd (m : Mv) (s : State) : Host.Outcome State Fault Refusal := .next (issueTrig (.br .mdrd) m s)

/-- R132: br.mdjmp. Jumps to the bundle index held in a metadata word. -/
def execBrMdjmp (m : Mv) (s : State) : Host.Outcome State Fault Refusal := .next (issueTrig (.br .mdjmp) m s)

/-- R133: sem.post. Posts the named tile semaphore by one. -/
def execSemPost (m : Mv) (s : State) : Host.Outcome State Fault Refusal := .next (issueTrig (.sem .post) m s)

/-- R133: sem.add. Adds sem.k to the named semaphore. -/
def execSemAdd (m : Mv) (s : State) : Host.Outcome State Fault Refusal := .next (issueTrig (.sem .add) m s)

/-- R133: sem.wait. Issues only when the named semaphore is at least 1. -/
def execSemWait (m : Mv) (s : State) : Host.Outcome State Fault Refusal := .next (issueTrig (.sem .wait) m s)

/-- R133: sem.take. Waits for a count of at least 1 and decrements it. -/
def execSemTake (m : Mv) (s : State) : Host.Outcome State Fault Refusal := .next (issueTrig (.sem .take) m s)

/-- R133: sem.takek. Waits for a count of at least k and subtracts k. -/
def execSemTakek (m : Mv) (s : State) : Host.Outcome State Fault Refusal := .next (issueTrig (.sem .takek) m s)

/-- R133: sem.rd. Delivers the semaphore count to sem.res. -/
def execSemRd (m : Mv) (s : State) : Host.Outcome State Fault Refusal := .next (issueTrig (.sem .rd) m s)

/-- R137: mb.wait. Issues only when the mailbox holds at least n messages. -/
def execMbWait (m : Mv) (s : State) : Host.Outcome State Fault Refusal := .next (issueTrig (.mb .wait) m s)

/-- R137: mb.pop. Pops the mailbox head into mb.res. -/
def execMbPop (m : Mv) (s : State) : Host.Outcome State Fault Refusal := .next (issueTrig (.mb .pop) m s)

/-- R137: mb.cnt. Delivers the mailbox occupancy to mb.res. -/
def execMbCnt (m : Mv) (s : State) : Host.Outcome State Fault Refusal := .next (issueTrig (.mb .cnt) m s)

end Sys2Proof.Machine
end

