-- ==== Sys2Proof/Machine/MovesSockets.lean ====
section
/-! DEFINITION. The meaning of each instruction: copy launches and the triggers of cp, nx, tk, wq and fx. -/

namespace Sys2Proof.Machine

/-- R268. Reading a go port shadows the channel operands, launches a copy and returns its transfer id. -/
def execCopyLaunch (c : Channel) (g : Guard) (n : Fin 64) (s : State) : Host.Outcome State Fault Refusal :=
  .next (issueMove g (.go c) (Dst.x n).d s)

/-- R276: cpi.query. Delivers the state of a copy of the channel. -/
def execCpQuery (c : Channel) (m : Mv) (s : State) : Host.Outcome State Fault Refusal := .next (issueTrig (.cp c .query) m s)

/-- R277: cpi.cancel. Cancels an unfinished copy of the channel. -/
def execCpCancel (c : Channel) (m : Mv) (s : State) : Host.Outcome State Fault Refusal := .next (issueTrig (.cp c .cancel) m s)

/-- R292: nx.sub. Subscribes the tile to a multicast tag. -/
def execNxSub (m : Mv) (s : State) : Host.Outcome State Fault Refusal := .next (issueTrig (.nx .sub) m s)

/-- R292: nx.unsub. Unsubscribes the tile from a multicast tag. -/
def execNxUnsub (m : Mv) (s : State) : Host.Outcome State Fault Refusal := .next (issueTrig (.nx .unsub) m s)

/-- R294: nx.rhdr. Delivers the header of the q12 head entry. -/
def execNxRhdr (m : Mv) (s : State) : Host.Outcome State Fault Refusal := .next (issueTrig (.nx .rhdr) m s)

/-- R291: nx.gcfg. Sets the tile's idle threshold for power gating. -/
def execNxGcfg (m : Mv) (s : State) : Host.Outcome State Fault Refusal := .next (issueTrig (.nx .gcfg) m s)

/-- R283: nx.rld. Loads 8 bytes from a remote window. -/
def execNxRld (m : Mv) (s : State) : Host.Outcome State Fault Refusal := .next (issueTrig (.nx .rld) m s)

/-- R283: nx.rst. Stores 8 bytes to a remote window. -/
def execNxRst (m : Mv) (s : State) : Host.Outcome State Fault Refusal := .next (issueTrig (.nx .rst) m s)

/-- R283: nx.rvst. Stores 128 bytes to a remote window. -/
def execNxRvst (m : Mv) (s : State) : Host.Outcome State Fault Refusal := .next (issueTrig (.nx .rvst) m s)

/-- R288: nx.hrel. Releases a handle range by writing its dirty lines home. -/
def execNxHrel (m : Mv) (s : State) : Host.Outcome State Fault Refusal := .next (issueTrig (.nx .hrel) m s)

/-- R288: nx.hacq. Acquires a handle range by writing back and dropping its lines. -/
def execNxHacq (m : Mv) (s : State) : Host.Outcome State Fault Refusal := .next (issueTrig (.nx .hacq) m s)

/-- R283: nx.aadd. Remote or global atomic add at the home. -/
def execNxAadd (m : Mv) (s : State) : Host.Outcome State Fault Refusal := .next (issueTrig (.nx .aadd) m s)

/-- R283: nx.aswp. Remote or global atomic swap. -/
def execNxAswp (m : Mv) (s : State) : Host.Outcome State Fault Refusal := .next (issueTrig (.nx .aswp) m s)

/-- R283: nx.acas. Remote or global compare-and-swap. -/
def execNxAcas (m : Mv) (s : State) : Host.Outcome State Fault Refusal := .next (issueTrig (.nx .acas) m s)

/-- R283: nx.amin. Remote or global atomic signed minimum. -/
def execNxAmin (m : Mv) (s : State) : Host.Outcome State Fault Refusal := .next (issueTrig (.nx .amin) m s)

/-- R283: nx.amax. Remote or global atomic signed maximum. -/
def execNxAmax (m : Mv) (s : State) : Host.Outcome State Fault Refusal := .next (issueTrig (.nx .amax) m s)

/-- R283: nx.aminu. Remote or global atomic unsigned minimum. -/
def execNxAminu (m : Mv) (s : State) : Host.Outcome State Fault Refusal := .next (issueTrig (.nx .aminu) m s)

/-- R283: nx.amaxu. Remote or global atomic unsigned maximum. -/
def execNxAmaxu (m : Mv) (s : State) : Host.Outcome State Fault Refusal := .next (issueTrig (.nx .amaxu) m s)

/-- R283: nx.aand. Remote or global atomic and. -/
def execNxAand (m : Mv) (s : State) : Host.Outcome State Fault Refusal := .next (issueTrig (.nx .aand) m s)

/-- R283: nx.aor. Remote or global atomic or. -/
def execNxAor (m : Mv) (s : State) : Host.Outcome State Fault Refusal := .next (issueTrig (.nx .aor) m s)

/-- R283: nx.axor. Remote or global atomic xor. -/
def execNxAxor (m : Mv) (s : State) : Host.Outcome State Fault Refusal := .next (issueTrig (.nx .axor) m s)

/-- R293: nx.mcast. Sends a payload to every subscriber of a tag. -/
def execNxMcast (m : Mv) (s : State) : Host.Outcome State Fault Refusal := .next (issueTrig (.nx .mcast) m s)

/-- R301: nx.xsend. Captures a scheduled send's payload for departure at its slot. -/
def execNxXsend (m : Mv) (s : State) : Host.Outcome State Fault Refusal := .next (issueTrig (.nx .xsend) m s)

/-- R296: nx.bar. Arrives at the next barrier of the gang's domain with a vote and phase. -/
def execNxBar (m : Mv) (s : State) : Host.Outcome State Fault Refusal := .next (issueTrig (.nx .bar) m s)

/-- R289: nx.wake. Sends a wake message to a strand's mailbox. -/
def execNxWake (m : Mv) (s : State) : Host.Outcome State Fault Refusal := .next (issueTrig (.nx .wake) m s)

/-- R289: nx.msg. Sends a tile message to a strand's mailbox. -/
def execNxMsg (m : Mv) (s : State) : Host.Outcome State Fault Refusal := .next (issueTrig (.nx .msg) m s)

/-- R319: tk.launch. Submits a launch record into the issuing task's kernel. -/
def execTkLaunch (m : Mv) (s : State) : Host.Outcome State Fault Refusal := .next (issueTrig (.tk .launch) m s)

/-- R320: tk.done. Closes a region record and starts its end action. -/
def execTkDone (m : Mv) (s : State) : Host.Outcome State Fault Refusal := .next (issueTrig (.tk .done) m s)

/-- R321: tk.est. Delivers the state of a region record. -/
def execTkEst (m : Mv) (s : State) : Host.Outcome State Fault Refusal := .next (issueTrig (.tk .est) m s)

/-- R322: tk.xlt. Loads translations of a LAZY range into the region TLB. -/
def execTkXlt (m : Mv) (s : State) : Host.Outcome State Fault Refusal := .next (issueTrig (.tk .xlt) m s)

/-- R358: wq.commit. Advances a stream's committed length after writing back the appended lines. -/
def execWqCommit (m : Mv) (s : State) : Host.Outcome State Fault Refusal := .next (issueTrig (.wq .commit) m s)

/-- R359: wq.post. Posts a Weevil query from a command block and reserves 16 q15 entries. -/
def execWqPost (m : Mv) (s : State) : Host.Outcome State Fault Refusal := .next (issueTrig (.wq .post) m s)

/-- R365: wq.hsel. Selects the part of the q15 head entry that reads present. -/
def execWqHsel (m : Mv) (s : State) : Host.Outcome State Fault Refusal := .next (issueTrig (.wq .hsel) m s)

/-- R366: wq.cancel. Cancels an accepted query so that unread rows are skipped. -/
def execWqCancel (m : Mv) (s : State) : Host.Outcome State Fault Refusal := .next (issueTrig (.wq .cancel) m s)

/-- R372: fx.st. Stores 8 bytes into a peer package export. -/
def execFxSt (m : Mv) (s : State) : Host.Outcome State Fault Refusal := .next (issueTrig (.fx .st) m s)

/-- R372: fx.vst. Stores 128 bytes into a peer package export. -/
def execFxVst (m : Mv) (s : State) : Host.Outcome State Fault Refusal := .next (issueTrig (.fx .vst) m s)

/-- R372: fx.faa. Fetch-and-add at a peer package home. -/
def execFxFaa (m : Mv) (s : State) : Host.Outcome State Fault Refusal := .next (issueTrig (.fx .faa) m s)

/-- R372: fx.cas. Compare-and-swap at a peer package home. -/
def execFxCas (m : Mv) (s : State) : Host.Outcome State Fault Refusal := .next (issueTrig (.fx .cas) m s)

/-- R376: fx.fence. Writes a flag after the strand's earlier accesses to that package are performed. -/
def execFxFence (m : Mv) (s : State) : Host.Outcome State Fault Refusal := .next (issueTrig (.fx .fence) m s)

/-- R382: fx.coll. Posts a ring collective on a bucket. -/
def execFxColl (m : Mv) (s : State) : Host.Outcome State Fault Refusal := .next (issueTrig (.fx .coll) m s)

/-- R387: fx.cstat. Delivers the state and code of a collective. -/
def execFxCstat (m : Mv) (s : State) : Host.Outcome State Fault Refusal := .next (issueTrig (.fx .cstat) m s)

/-- R390: fx.share. Sets the link weights of the collective and one-sided classes. -/
def execFxShare (m : Mv) (s : State) : Host.Outcome State Fault Refusal := .next (issueTrig (.fx .share) m s)

/-- R374: fx.stat. Delivers and clears the FXERR byte of a package. -/
def execFxStat (m : Mv) (s : State) : Host.Outcome State Fault Refusal := .next (issueTrig (.fx .stat) m s)

end Sys2Proof.Machine
end

