-- ==== Sys2Proof/Machine/MovesVector.lean ====
section
/-! DEFINITION. The meaning of each instruction: the triggers of vx, sf and cv. -/

namespace Sys2Proof.Machine

/-- R189: vx.add. Lane-wise addition. -/
def execVxAdd (m : Mv) (s : State) : Host.Outcome State Fault Refusal := .next (issueTrig (.vx .add) m s)

/-- R189: vx.sub. Lane-wise subtraction. -/
def execVxSub (m : Mv) (s : State) : Host.Outcome State Fault Refusal := .next (issueTrig (.vx .sub) m s)

/-- R189: vx.mul. Lane-wise multiplication. -/
def execVxMul (m : Mv) (s : State) : Host.Outcome State Fault Refusal := .next (issueTrig (.vx .mul) m s)

/-- R189: vx.fma. Lane-wise fused multiply-add. -/
def execVxFma (m : Mv) (s : State) : Host.Outcome State Fault Refusal := .next (issueTrig (.vx .fma) m s)

/-- R189: vx.fnma. Lane-wise fused negated multiply-add. -/
def execVxFnma (m : Mv) (s : State) : Host.Outcome State Fault Refusal := .next (issueTrig (.vx .fnma) m s)

/-- R191: vx.div. Lane-wise correctly rounded division. -/
def execVxDiv (m : Mv) (s : State) : Host.Outcome State Fault Refusal := .next (issueTrig (.vx .div) m s)

/-- R191: vx.sqrt. Lane-wise correctly rounded square root. -/
def execVxSqrt (m : Mv) (s : State) : Host.Outcome State Fault Refusal := .next (issueTrig (.vx .sqrt) m s)

/-- R189: vx.min. Lane-wise minimum. -/
def execVxMin (m : Mv) (s : State) : Host.Outcome State Fault Refusal := .next (issueTrig (.vx .min) m s)

/-- R189: vx.max. Lane-wise maximum. -/
def execVxMax (m : Mv) (s : State) : Host.Outcome State Fault Refusal := .next (issueTrig (.vx .max) m s)

/-- R189: vx.abs. Lane-wise absolute value. -/
def execVxAbs (m : Mv) (s : State) : Host.Outcome State Fault Refusal := .next (issueTrig (.vx .abs) m s)

/-- R189: vx.neg. Lane-wise negation. -/
def execVxNeg (m : Mv) (s : State) : Host.Outcome State Fault Refusal := .next (issueTrig (.vx .neg) m s)

/-- R192: vx.and. Lane-wise and. -/
def execVxAnd (m : Mv) (s : State) : Host.Outcome State Fault Refusal := .next (issueTrig (.vx .and) m s)

/-- R192: vx.or. Lane-wise or. -/
def execVxOr (m : Mv) (s : State) : Host.Outcome State Fault Refusal := .next (issueTrig (.vx .or) m s)

/-- R192: vx.xor. Lane-wise xor. -/
def execVxXor (m : Mv) (s : State) : Host.Outcome State Fault Refusal := .next (issueTrig (.vx .xor) m s)

/-- R192: vx.andn. Lane-wise and-not. -/
def execVxAndn (m : Mv) (s : State) : Host.Outcome State Fault Refusal := .next (issueTrig (.vx .andn) m s)

/-- R192: vx.shl. Lane-wise shift left. -/
def execVxShl (m : Mv) (s : State) : Host.Outcome State Fault Refusal := .next (issueTrig (.vx .shl) m s)

/-- R192: vx.shr. Lane-wise logical shift right. -/
def execVxShr (m : Mv) (s : State) : Host.Outcome State Fault Refusal := .next (issueTrig (.vx .shr) m s)

/-- R192: vx.sra. Lane-wise arithmetic shift right. -/
def execVxSra (m : Mv) (s : State) : Host.Outcome State Fault Refusal := .next (issueTrig (.vx .sra) m s)

/-- R192: vx.clz. Lane-wise leading zero count. -/
def execVxClz (m : Mv) (s : State) : Host.Outcome State Fault Refusal := .next (issueTrig (.vx .clz) m s)

/-- R192: vx.ctz. Lane-wise trailing zero count. -/
def execVxCtz (m : Mv) (s : State) : Host.Outcome State Fault Refusal := .next (issueTrig (.vx .ctz) m s)

/-- R192: vx.popc. Lane-wise population count. -/
def execVxPopc (m : Mv) (s : State) : Host.Outcome State Fault Refusal := .next (issueTrig (.vx .popc) m s)

/-- R193: vx.ceq. Lane-wise equal compare. -/
def execVxCeq (m : Mv) (s : State) : Host.Outcome State Fault Refusal := .next (issueTrig (.vx .ceq) m s)

/-- R193: vx.cne. Lane-wise not-equal compare. -/
def execVxCne (m : Mv) (s : State) : Host.Outcome State Fault Refusal := .next (issueTrig (.vx .cne) m s)

/-- R193: vx.clt. Lane-wise less-than compare. -/
def execVxClt (m : Mv) (s : State) : Host.Outcome State Fault Refusal := .next (issueTrig (.vx .clt) m s)

/-- R193: vx.cle. Lane-wise less-or-equal compare. -/
def execVxCle (m : Mv) (s : State) : Host.Outcome State Fault Refusal := .next (issueTrig (.vx .cle) m s)

/-- R194: vx.sel. Selects A or T per lane by vx.m. -/
def execVxSel (m : Mv) (s : State) : Host.Outcome State Fault Refusal := .next (issueTrig (.vx .sel) m s)

/-- R194: vx.mskof. Delivers a mask of non-zero lanes to vx.sres. -/
def execVxMskof (m : Mv) (s : State) : Host.Outcome State Fault Refusal := .next (issueTrig (.vx .mskof) m s)

/-- R195: vx.radd. Reduces enabled lanes by addition in fixed tree order. -/
def execVxRadd (m : Mv) (s : State) : Host.Outcome State Fault Refusal := .next (issueTrig (.vx .radd) m s)

/-- R195: vx.rmax. Reduces enabled lanes to their maximum. -/
def execVxRmax (m : Mv) (s : State) : Host.Outcome State Fault Refusal := .next (issueTrig (.vx .rmax) m s)

/-- R195: vx.rmin. Reduces enabled lanes to their minimum. -/
def execVxRmin (m : Mv) (s : State) : Host.Outcome State Fault Refusal := .next (issueTrig (.vx .rmin) m s)

/-- R196: vx.perm. Permutes lanes of vx.a by index lanes. -/
def execVxPerm (m : Mv) (s : State) : Host.Outcome State Fault Refusal := .next (issueTrig (.vx .perm) m s)

/-- R196: vx.bcast. Broadcasts one lane of vx.a. -/
def execVxBcast (m : Mv) (s : State) : Host.Outcome State Fault Refusal := .next (issueTrig (.vx .bcast) m s)

/-- R196: vx.rot. Rotates the lanes of vx.a. -/
def execVxRot (m : Mv) (s : State) : Host.Outcome State Fault Refusal := .next (issueTrig (.vx .rot) m s)

/-- R196: vx.ext. Extracts one lane of vx.a to vx.sres. -/
def execVxExt (m : Mv) (s : State) : Host.Outcome State Fault Refusal := .next (issueTrig (.vx .ext) m s)

/-- R196: vx.iota. Fills lanes with t + i. -/
def execVxIota (m : Mv) (s : State) : Host.Outcome State Fault Refusal := .next (issueTrig (.vx .iota) m s)

/-- R197: vx.rnd. Delivers counter-based random words per lane. -/
def execVxRnd (m : Mv) (s : State) : Host.Outcome State Fault Refusal := .next (issueTrig (.vx .rnd) m s)

/-- R198: vx.bin. Sorts coordinates into cell numbers. -/
def execVxBin (m : Mv) (s : State) : Host.Outcome State Fault Refusal := .next (issueTrig (.vx .bin) m s)

/-- R199: vx.hist. Counts lanes per cell number. -/
def execVxHist (m : Mv) (s : State) : Host.Outcome State Fault Refusal := .next (issueTrig (.vx .hist) m s)

/-- R199: vx.rank. Ranks each lane among earlier lanes of the same cell. -/
def execVxRank (m : Mv) (s : State) : Host.Outcome State Fault Refusal := .next (issueTrig (.vx .rank) m s)

/-- R188: vx.stat. Delivers the vx status word. -/
def execVxStat (m : Mv) (s : State) : Host.Outcome State Fault Refusal := .next (issueTrig (.vx .stat) m s)

/-- R188: vx.sclr. Clears the vx sticky flags. -/
def execVxSclr (m : Mv) (s : State) : Host.Outcome State Fault Refusal := .next (issueTrig (.vx .sclr) m s)

/-- R208: sf.exp2. Lane-wise correctly rounded 2^x. -/
def execSfExp2 (m : Mv) (s : State) : Host.Outcome State Fault Refusal := .next (issueTrig (.sf .exp2) m s)

/-- R208: sf.log2. Lane-wise correctly rounded log2 x. -/
def execSfLog2 (m : Mv) (s : State) : Host.Outcome State Fault Refusal := .next (issueTrig (.sf .log2) m s)

/-- R209: sf.gate. Lane-wise fused gate a x b / (1 + 2^(-k b)) rounded once. -/
def execSfGate (m : Mv) (s : State) : Host.Outcome State Fault Refusal := .next (issueTrig (.sf .gate) m s)

/-- R210: sf.rclr. Clears a row-statistics set. -/
def execSfRclr (m : Mv) (s : State) : Host.Outcome State Fault Refusal := .next (issueTrig (.sf .rclr) m s)

/-- R211: sf.racc. Adds enabled lanes into a row-statistics set. -/
def execSfRacc (m : Mv) (s : State) : Host.Outcome State Fault Refusal := .next (issueTrig (.sf .racc) m s)

/-- R213: sf.rcnt. Reads the set's count. -/
def execSfRcnt (m : Mv) (s : State) : Host.Outcome State Fault Refusal := .next (issueTrig (.sf .rcnt) m s)

/-- R213: sf.rmax. Reads the set's maximum as FP32. -/
def execSfRmax (m : Mv) (s : State) : Host.Outcome State Fault Refusal := .next (issueTrig (.sf .rmax) m s)

/-- R213: sf.rsum. Resolves the set's sum to FP32. -/
def execSfRsum (m : Mv) (s : State) : Host.Outcome State Fault Refusal := .next (issueTrig (.sf .rsum) m s)

/-- R213: sf.rssq. Resolves the set's sum of squares to FP32. -/
def execSfRssq (m : Mv) (s : State) : Host.Outcome State Fault Refusal := .next (issueTrig (.sf .rssq) m s)

/-- R213: sf.rmean. Delivers the set's mean as FP32. -/
def execSfRmean (m : Mv) (s : State) : Host.Outcome State Fault Refusal := .next (issueTrig (.sf .rmean) m s)

/-- R214: sf.rvar. Delivers the set's population variance through RowVar. -/
def execSfRvar (m : Mv) (s : State) : Host.Outcome State Fault Refusal := .next (issueTrig (.sf .rvar) m s)

/-- R207: sf.stat. Delivers the sf status word. -/
def execSfStat (m : Mv) (s : State) : Host.Outcome State Fault Refusal := .next (issueTrig (.sf .stat) m s)

/-- R207: sf.sclr. Clears the sf sticky flags. -/
def execSfSclr (m : Mv) (s : State) : Host.Outcome State Fault Refusal := .next (issueTrig (.sf .sclr) m s)

/-- R221: cv.cvt. Converts lanes between scalar formats into a chosen part of the word. -/
def execCvCvt (m : Mv) (s : State) : Host.Outcome State Fault Refusal := .next (issueTrig (.cv .cvt) m s)

/-- R222: cv.qnt. Quantises blocks into MXINT elements and E8M0 scales. -/
def execCvQnt (m : Mv) (s : State) : Host.Outcome State Fault Refusal := .next (issueTrig (.cv .qnt) m s)

/-- R223: cv.dqt. Expands MXINT blocks into floating-point lanes. -/
def execCvDqt (m : Mv) (s : State) : Host.Outcome State Fault Refusal := .next (issueTrig (.cv .dqt) m s)

/-- R219: cv.stat. Delivers the cv status word. -/
def execCvStat (m : Mv) (s : State) : Host.Outcome State Fault Refusal := .next (issueTrig (.cv .stat) m s)

/-- R219: cv.sclr. Clears the cv sticky flags. -/
def execCvSclr (m : Mv) (s : State) : Host.Outcome State Fault Refusal := .next (issueTrig (.cv .sclr) m s)

end Sys2Proof.Machine
end

