-- ==== Sys2Proof/Machine/Dispatch.lean ====
section
/-! DEFINITION. The meaning of every instruction and step: one arm each. -/

namespace Sys2Proof.Machine

/-- The meaning of an instruction or step. -/
def exec (i : Instr) (s : State) : Host.Outcome State Fault Refusal :=
  match i with
  | .bundleIssue w => Sys2Proof.Machine.execBundleIssue w s
  | .headerPop q => Sys2Proof.Machine.execHeaderPop q s
  | .headerSemWait n => Sys2Proof.Machine.execHeaderSemWait n s
  | .headerSemPost n => Sys2Proof.Machine.execHeaderSemPost n s
  | .headerSemTake n => Sys2Proof.Machine.execHeaderSemTake n s
  | .repIdle n => Sys2Proof.Machine.execRepIdle n s
  | .moveToX m n => Sys2Proof.Machine.execMoveToX m n s
  | .moveToG m n => Sys2Proof.Machine.execMoveToG m n s
  | .moveToV m n => Sys2Proof.Machine.execMoveToV m n s
  | .moveToQ m n => Sys2Proof.Machine.execMoveToQ m n s
  | .sysCsrr m => Sys2Proof.Machine.execSysCsrr m s
  | .sysCsrw m => Sys2Proof.Machine.execSysCsrw m s
  | .sysWaitLd m => Sys2Proof.Machine.execSysWaitLd m s
  | .sysWaitSt m => Sys2Proof.Machine.execSysWaitSt m s
  | .sysWaitCp m => Sys2Proof.Machine.execSysWaitCp m s
  | .sysTrap m => Sys2Proof.Machine.execSysTrap m s
  | .sysBrk m => Sys2Proof.Machine.execSysBrk m s
  | .sysEnd m => Sys2Proof.Machine.execSysEnd m s
  | .brJmp m => Sys2Proof.Machine.execBrJmp m s
  | .brCall m => Sys2Proof.Machine.execBrCall m s
  | .brRet m => Sys2Proof.Machine.execBrRet m s
  | .brLoop m => Sys2Proof.Machine.execBrLoop m s
  | .brLexit m => Sys2Proof.Machine.execBrLexit m s
  | .brMdset m => Sys2Proof.Machine.execBrMdset m s
  | .brMdrd m => Sys2Proof.Machine.execBrMdrd m s
  | .brMdjmp m => Sys2Proof.Machine.execBrMdjmp m s
  | .semPost m => Sys2Proof.Machine.execSemPost m s
  | .semAdd m => Sys2Proof.Machine.execSemAdd m s
  | .semWait m => Sys2Proof.Machine.execSemWait m s
  | .semTake m => Sys2Proof.Machine.execSemTake m s
  | .semTakek m => Sys2Proof.Machine.execSemTakek m s
  | .semRd m => Sys2Proof.Machine.execSemRd m s
  | .mbWait m => Sys2Proof.Machine.execMbWait m s
  | .mbPop m => Sys2Proof.Machine.execMbPop m s
  | .mbCnt m => Sys2Proof.Machine.execMbCnt m s
  | .ixAdd u m => Sys2Proof.Machine.execIxAdd u m s
  | .ixSub u m => Sys2Proof.Machine.execIxSub u m s
  | .ixAnd u m => Sys2Proof.Machine.execIxAnd u m s
  | .ixOr u m => Sys2Proof.Machine.execIxOr u m s
  | .ixXor u m => Sys2Proof.Machine.execIxXor u m s
  | .ixAndn u m => Sys2Proof.Machine.execIxAndn u m s
  | .ixShl u m => Sys2Proof.Machine.execIxShl u m s
  | .ixShr u m => Sys2Proof.Machine.execIxShr u m s
  | .ixSra u m => Sys2Proof.Machine.execIxSra u m s
  | .ixMin u m => Sys2Proof.Machine.execIxMin u m s
  | .ixMax u m => Sys2Proof.Machine.execIxMax u m s
  | .ixMinu u m => Sys2Proof.Machine.execIxMinu u m s
  | .ixMaxu u m => Sys2Proof.Machine.execIxMaxu u m s
  | .ixMov u m => Sys2Proof.Machine.execIxMov u m s
  | .ixSxt u m => Sys2Proof.Machine.execIxSxt u m s
  | .ixZxt u m => Sys2Proof.Machine.execIxZxt u m s
  | .ixClz u m => Sys2Proof.Machine.execIxClz u m s
  | .ixPopc u m => Sys2Proof.Machine.execIxPopc u m s
  | .ixSel u m => Sys2Proof.Machine.execIxSel u m s
  | .ixCeq u m => Sys2Proof.Machine.execIxCeq u m s
  | .ixCne u m => Sys2Proof.Machine.execIxCne u m s
  | .ixClt u m => Sys2Proof.Machine.execIxClt u m s
  | .ixCle u m => Sys2Proof.Machine.execIxCle u m s
  | .ixCltu u m => Sys2Proof.Machine.execIxCltu u m s
  | .ixCleu u m => Sys2Proof.Machine.execIxCleu u m s
  | .ixCtst u m => Sys2Proof.Machine.execIxCtst u m s
  | .ixMul u m => Sys2Proof.Machine.execIxMul u m s
  | .ixMulu u m => Sys2Proof.Machine.execIxMulu u m s
  | .ixMac u m => Sys2Proof.Machine.execIxMac u m s
  | .ixDiv u m => Sys2Proof.Machine.execIxDiv u m s
  | .ixDivu u m => Sys2Proof.Machine.execIxDivu u m s
  | .lsLd8 m => Sys2Proof.Machine.execLsLd8 m s
  | .lsLd8u m => Sys2Proof.Machine.execLsLd8u m s
  | .lsLd16 m => Sys2Proof.Machine.execLsLd16 m s
  | .lsLd16u m => Sys2Proof.Machine.execLsLd16u m s
  | .lsLd32 m => Sys2Proof.Machine.execLsLd32 m s
  | .lsLd32u m => Sys2Proof.Machine.execLsLd32u m s
  | .lsLd64 m => Sys2Proof.Machine.execLsLd64 m s
  | .lsSt8 m => Sys2Proof.Machine.execLsSt8 m s
  | .lsSt16 m => Sys2Proof.Machine.execLsSt16 m s
  | .lsSt32 m => Sys2Proof.Machine.execLsSt32 m s
  | .lsSt64 m => Sys2Proof.Machine.execLsSt64 m s
  | .lsVld m => Sys2Proof.Machine.execLsVld m s
  | .lsVst m => Sys2Proof.Machine.execLsVst m s
  | .lsAadd m => Sys2Proof.Machine.execLsAadd m s
  | .lsAswp m => Sys2Proof.Machine.execLsAswp m s
  | .lsAcas m => Sys2Proof.Machine.execLsAcas m s
  | .lsAmin m => Sys2Proof.Machine.execLsAmin m s
  | .lsAmax m => Sys2Proof.Machine.execLsAmax m s
  | .lsAminu m => Sys2Proof.Machine.execLsAminu m s
  | .lsAmaxu m => Sys2Proof.Machine.execLsAmaxu m s
  | .lsAand m => Sys2Proof.Machine.execLsAand m s
  | .lsAor m => Sys2Proof.Machine.execLsAor m s
  | .lsAxor m => Sys2Proof.Machine.execLsAxor m s
  | .lsAacc m => Sys2Proof.Machine.execLsAacc m s
  | .lsRcfg m => Sys2Proof.Machine.execLsRcfg m s
  | .lsRacq m => Sys2Proof.Machine.execLsRacq m s
  | .lsRpub m => Sys2Proof.Machine.execLsRpub m s
  | .lsRget m => Sys2Proof.Machine.execLsRget m s
  | .lsRrel m => Sys2Proof.Machine.execLsRrel m s
  | .lsRst m => Sys2Proof.Machine.execLsRst m s
  | .lsVg16 m => Sys2Proof.Machine.execLsVg16 m s
  | .lsVg32 m => Sys2Proof.Machine.execLsVg32 m s
  | .lsVg64 m => Sys2Proof.Machine.execLsVg64 m s
  | .lsVs16 m => Sys2Proof.Machine.execLsVs16 m s
  | .lsVs32 m => Sys2Proof.Machine.execLsVs32 m s
  | .lsVs64 m => Sys2Proof.Machine.execLsVs64 m s
  | .lsVscaddI32 m => Sys2Proof.Machine.execLsVscaddI32 m s
  | .lsVscaddI64 m => Sys2Proof.Machine.execLsVscaddI64 m s
  | .lsVscaddF32 m => Sys2Proof.Machine.execLsVscaddF32 m s
  | .lsVscaddF64 m => Sys2Proof.Machine.execLsVscaddF64 m s
  | .stOpen k m => Sys2Proof.Machine.execStOpen k m s
  | .stClose k m => Sys2Proof.Machine.execStClose k m s
  | .vxAdd m => Sys2Proof.Machine.execVxAdd m s
  | .vxSub m => Sys2Proof.Machine.execVxSub m s
  | .vxMul m => Sys2Proof.Machine.execVxMul m s
  | .vxFma m => Sys2Proof.Machine.execVxFma m s
  | .vxFnma m => Sys2Proof.Machine.execVxFnma m s
  | .vxDiv m => Sys2Proof.Machine.execVxDiv m s
  | .vxSqrt m => Sys2Proof.Machine.execVxSqrt m s
  | .vxMin m => Sys2Proof.Machine.execVxMin m s
  | .vxMax m => Sys2Proof.Machine.execVxMax m s
  | .vxAbs m => Sys2Proof.Machine.execVxAbs m s
  | .vxNeg m => Sys2Proof.Machine.execVxNeg m s
  | .vxAnd m => Sys2Proof.Machine.execVxAnd m s
  | .vxOr m => Sys2Proof.Machine.execVxOr m s
  | .vxXor m => Sys2Proof.Machine.execVxXor m s
  | .vxAndn m => Sys2Proof.Machine.execVxAndn m s
  | .vxShl m => Sys2Proof.Machine.execVxShl m s
  | .vxShr m => Sys2Proof.Machine.execVxShr m s
  | .vxSra m => Sys2Proof.Machine.execVxSra m s
  | .vxClz m => Sys2Proof.Machine.execVxClz m s
  | .vxCtz m => Sys2Proof.Machine.execVxCtz m s
  | .vxPopc m => Sys2Proof.Machine.execVxPopc m s
  | .vxCeq m => Sys2Proof.Machine.execVxCeq m s
  | .vxCne m => Sys2Proof.Machine.execVxCne m s
  | .vxClt m => Sys2Proof.Machine.execVxClt m s
  | .vxCle m => Sys2Proof.Machine.execVxCle m s
  | .vxSel m => Sys2Proof.Machine.execVxSel m s
  | .vxMskof m => Sys2Proof.Machine.execVxMskof m s
  | .vxRadd m => Sys2Proof.Machine.execVxRadd m s
  | .vxRmax m => Sys2Proof.Machine.execVxRmax m s
  | .vxRmin m => Sys2Proof.Machine.execVxRmin m s
  | .vxPerm m => Sys2Proof.Machine.execVxPerm m s
  | .vxBcast m => Sys2Proof.Machine.execVxBcast m s
  | .vxRot m => Sys2Proof.Machine.execVxRot m s
  | .vxExt m => Sys2Proof.Machine.execVxExt m s
  | .vxIota m => Sys2Proof.Machine.execVxIota m s
  | .vxRnd m => Sys2Proof.Machine.execVxRnd m s
  | .vxBin m => Sys2Proof.Machine.execVxBin m s
  | .vxHist m => Sys2Proof.Machine.execVxHist m s
  | .vxRank m => Sys2Proof.Machine.execVxRank m s
  | .vxStat m => Sys2Proof.Machine.execVxStat m s
  | .vxSclr m => Sys2Proof.Machine.execVxSclr m s
  | .sfExp2 m => Sys2Proof.Machine.execSfExp2 m s
  | .sfLog2 m => Sys2Proof.Machine.execSfLog2 m s
  | .sfGate m => Sys2Proof.Machine.execSfGate m s
  | .sfRclr m => Sys2Proof.Machine.execSfRclr m s
  | .sfRacc m => Sys2Proof.Machine.execSfRacc m s
  | .sfRcnt m => Sys2Proof.Machine.execSfRcnt m s
  | .sfRmax m => Sys2Proof.Machine.execSfRmax m s
  | .sfRsum m => Sys2Proof.Machine.execSfRsum m s
  | .sfRssq m => Sys2Proof.Machine.execSfRssq m s
  | .sfRmean m => Sys2Proof.Machine.execSfRmean m s
  | .sfRvar m => Sys2Proof.Machine.execSfRvar m s
  | .sfStat m => Sys2Proof.Machine.execSfStat m s
  | .sfSclr m => Sys2Proof.Machine.execSfSclr m s
  | .cvCvt m => Sys2Proof.Machine.execCvCvt m s
  | .cvQnt m => Sys2Proof.Machine.execCvQnt m s
  | .cvDqt m => Sys2Proof.Machine.execCvDqt m s
  | .cvStat m => Sys2Proof.Machine.execCvStat m s
  | .cvSclr m => Sys2Proof.Machine.execCvSclr m s
  | .mxF64 m => Sys2Proof.Machine.execMxF64 m s
  | .mxF32 m => Sys2Proof.Machine.execMxF32 m s
  | .mxF16 m => Sys2Proof.Machine.execMxF16 m s
  | .mxBf16 m => Sys2Proof.Machine.execMxBf16 m s
  | .mxI8 m => Sys2Proof.Machine.execMxI8 m s
  | .mxMx8 m => Sys2Proof.Machine.execMxMx8 m s
  | .mxMx6 m => Sys2Proof.Machine.execMxMx6 m s
  | .mxMx4 m => Sys2Proof.Machine.execMxMx4 m s
  | .mxE4e4 m => Sys2Proof.Machine.execMxE4e4 m s
  | .mxE4e5 m => Sys2Proof.Machine.execMxE4e5 m s
  | .mxE5e4 m => Sys2Proof.Machine.execMxE5e4 m s
  | .mxE5e5 m => Sys2Proof.Machine.execMxE5e5 m s
  | .mxMdset m => Sys2Proof.Machine.execMxMdset m s
  | .accClr m => Sys2Proof.Machine.execAccClr m s
  | .accResF32 m => Sys2Proof.Machine.execAccResF32 m s
  | .accResBf16 m => Sys2Proof.Machine.execAccResBf16 m s
  | .accResF64 m => Sys2Proof.Machine.execAccResF64 m s
  | .accResI32 m => Sys2Proof.Machine.execAccResI32 m s
  | .accCmpz m => Sys2Proof.Machine.execAccCmpz m s
  | .accEmit m => Sys2Proof.Machine.execAccEmit m s
  | .accAbsorb m => Sys2Proof.Machine.execAccAbsorb m s
  | .accRsave m => Sys2Proof.Machine.execAccRsave m s
  | .accRload m => Sys2Proof.Machine.execAccRload m s
  | .accStat m => Sys2Proof.Machine.execAccStat m s
  | .accSclr m => Sys2Proof.Machine.execAccSclr m s
  | .copyLaunch c g n => Sys2Proof.Machine.execCopyLaunch c g n s
  | .cpQuery c m => Sys2Proof.Machine.execCpQuery c m s
  | .cpCancel c m => Sys2Proof.Machine.execCpCancel c m s
  | .nxSub m => Sys2Proof.Machine.execNxSub m s
  | .nxUnsub m => Sys2Proof.Machine.execNxUnsub m s
  | .nxRhdr m => Sys2Proof.Machine.execNxRhdr m s
  | .nxGcfg m => Sys2Proof.Machine.execNxGcfg m s
  | .nxRld m => Sys2Proof.Machine.execNxRld m s
  | .nxRst m => Sys2Proof.Machine.execNxRst m s
  | .nxRvst m => Sys2Proof.Machine.execNxRvst m s
  | .nxHrel m => Sys2Proof.Machine.execNxHrel m s
  | .nxHacq m => Sys2Proof.Machine.execNxHacq m s
  | .nxAadd m => Sys2Proof.Machine.execNxAadd m s
  | .nxAswp m => Sys2Proof.Machine.execNxAswp m s
  | .nxAcas m => Sys2Proof.Machine.execNxAcas m s
  | .nxAmin m => Sys2Proof.Machine.execNxAmin m s
  | .nxAmax m => Sys2Proof.Machine.execNxAmax m s
  | .nxAminu m => Sys2Proof.Machine.execNxAminu m s
  | .nxAmaxu m => Sys2Proof.Machine.execNxAmaxu m s
  | .nxAand m => Sys2Proof.Machine.execNxAand m s
  | .nxAor m => Sys2Proof.Machine.execNxAor m s
  | .nxAxor m => Sys2Proof.Machine.execNxAxor m s
  | .nxMcast m => Sys2Proof.Machine.execNxMcast m s
  | .nxXsend m => Sys2Proof.Machine.execNxXsend m s
  | .nxBar m => Sys2Proof.Machine.execNxBar m s
  | .nxWake m => Sys2Proof.Machine.execNxWake m s
  | .nxMsg m => Sys2Proof.Machine.execNxMsg m s
  | .tkLaunch m => Sys2Proof.Machine.execTkLaunch m s
  | .tkDone m => Sys2Proof.Machine.execTkDone m s
  | .tkEst m => Sys2Proof.Machine.execTkEst m s
  | .tkXlt m => Sys2Proof.Machine.execTkXlt m s
  | .wqCommit m => Sys2Proof.Machine.execWqCommit m s
  | .wqPost m => Sys2Proof.Machine.execWqPost m s
  | .wqHsel m => Sys2Proof.Machine.execWqHsel m s
  | .wqCancel m => Sys2Proof.Machine.execWqCancel m s
  | .fxSt m => Sys2Proof.Machine.execFxSt m s
  | .fxVst m => Sys2Proof.Machine.execFxVst m s
  | .fxFaa m => Sys2Proof.Machine.execFxFaa m s
  | .fxCas m => Sys2Proof.Machine.execFxCas m s
  | .fxFence m => Sys2Proof.Machine.execFxFence m s
  | .fxColl m => Sys2Proof.Machine.execFxColl m s
  | .fxCstat m => Sys2Proof.Machine.execFxCstat m s
  | .fxShare m => Sys2Proof.Machine.execFxShare m s
  | .fxStat m => Sys2Proof.Machine.execFxStat m s
  | .semPostApply => Sys2Proof.Machine.runSemPostApply s
  | .resultLand => Sys2Proof.Machine.runResultLand s
  | .dataLockedDeliver => Sys2Proof.Machine.runDataLockedDeliver s
  | .shadowLand => Sys2Proof.Machine.runShadowLand s
  | .debugHalt => Sys2Proof.Machine.runDebugHalt s
  | .mailboxMessageEnter => Sys2Proof.Machine.runMailboxMessageEnter s
  | .ringCommitApply => Sys2Proof.Machine.runRingCommitApply s
  | .storeBufferDrain => Sys2Proof.Machine.runStoreBufferDrain s
  | .loadReturn => Sys2Proof.Machine.runLoadReturn s
  | .mappedWriteLand => Sys2Proof.Machine.runMappedWriteLand s
  | .peerAccessPerform => Sys2Proof.Machine.runPeerAccessPerform s
  | .streamFetch => Sys2Proof.Machine.runStreamFetch s
  | .streamRefetch => Sys2Proof.Machine.runStreamRefetch s
  | .raccTakeEffect => Sys2Proof.Machine.runRaccTakeEffect s
  | .mxLand => Sys2Proof.Machine.runMxLand s
  | .absorbWrite => Sys2Proof.Machine.runAbsorbWrite s
  | .rsavePerform => Sys2Proof.Machine.runRsavePerform s
  | .rloadWrite => Sys2Proof.Machine.runRloadWrite s
  | .copyComplete => Sys2Proof.Machine.runCopyComplete s
  | .copyRetire => Sys2Proof.Machine.runCopyRetire s
  | .copyError => Sys2Proof.Machine.runCopyError s
  | .subComplete => Sys2Proof.Machine.runSubComplete s
  | .handleSyncComplete => Sys2Proof.Machine.runHandleSyncComplete s
  | .remoteAccessPerform => Sys2Proof.Machine.runRemoteAccessPerform s
  | .mcastDeliver => Sys2Proof.Machine.runMcastDeliver s
  | .scheduledSendDepart => Sys2Proof.Machine.runScheduledSendDepart s
  | .scheduledSendPerform => Sys2Proof.Machine.runScheduledSendPerform s
  | .barrierComplete => Sys2Proof.Machine.runBarrierComplete s
  | .gateArm => Sys2Proof.Machine.runGateArm s
  | .gateClose => Sys2Proof.Machine.runGateClose s
  | .gateWake => Sys2Proof.Machine.runGateWake s
  | .commitComplete => Sys2Proof.Machine.runCommitComplete s
  | .queryAccept => Sys2Proof.Machine.runQueryAccept s
  | .bankScan => Sys2Proof.Machine.runBankScan s
  | .tripleDeliver => Sys2Proof.Machine.runTripleDeliver s
  | .fxPerform => Sys2Proof.Machine.runFxPerform s
  | .fenceComplete => Sys2Proof.Machine.runFenceComplete s
  | .collectiveReady => Sys2Proof.Machine.runCollectiveReady s
  | .collectiveComplete => Sys2Proof.Machine.runCollectiveComplete s
  | .launchQueueDoorbell => Sys2Proof.Machine.runLaunchQueueDoorbell s
  | .launchAccept => Sys2Proof.Machine.runLaunchAccept s
  | .pgrespWrite => Sys2Proof.Machine.runPgrespWrite s
  | .translationComplete => Sys2Proof.Machine.runTranslationComplete s
  | .taskPlace => Sys2Proof.Machine.runTaskPlace s
  | .startAction => Sys2Proof.Machine.runStartAction s
  | .edgeActionComplete => Sys2Proof.Machine.runEdgeActionComplete s
  | .taskStart => Sys2Proof.Machine.runTaskStart s
  | .taskFinish => Sys2Proof.Machine.runTaskFinish s
  | .tileRelease => Sys2Proof.Machine.runTileRelease s
  | .taskCommit => Sys2Proof.Machine.runTaskCommit s
  | .taskRetire => Sys2Proof.Machine.runTaskRetire s
  | .kernelComplete => Sys2Proof.Machine.runKernelComplete s
  | .preemptNotice => Sys2Proof.Machine.runPreemptNotice s
  | .stopTokenInject => Sys2Proof.Machine.runStopTokenInject s
  | .strandHaltOnToken => Sys2Proof.Machine.runStrandHaltOnToken s
  | .stopComplete => Sys2Proof.Machine.runStopComplete s
  | .taskFault => Sys2Proof.Machine.runTaskFault s
  | .taskResume => Sys2Proof.Machine.runTaskResume s
  | .checkpoint => Sys2Proof.Machine.runCheckpoint s
  | .rollback => Sys2Proof.Machine.runRollback s
  | .kernelAbort => Sys2Proof.Machine.runKernelAbort s
  | .tileFence => Sys2Proof.Machine.runTileFence s
  | .domainAbort => Sys2Proof.Machine.runDomainAbort s
  | .domainAbortDeadline => Sys2Proof.Machine.runDomainAbortDeadline s
  | .watchdog => Sys2Proof.Machine.runWatchdog s
  | .hangProbe => Sys2Proof.Machine.runHangProbe s
  | .completionVector => Sys2Proof.Machine.runCompletionVector s
  | .cqheadWrite => Sys2Proof.Machine.runCqheadWrite s
  | .fqheadWrite => Sys2Proof.Machine.runFqheadWrite s
  | .hmsgbWrite => Sys2Proof.Machine.runHmsgbWrite s
  | .ctxctlWrite => Sys2Proof.Machine.runCtxctlWrite s
  | .dbgcmdHalt => Sys2Proof.Machine.runDbgcmdHalt s
  | .dbgcmdResume => Sys2Proof.Machine.runDbgcmdResume s
  | .dbgcmdStep => Sys2Proof.Machine.runDbgcmdStep s
  | .featAccWrite => Sys2Proof.Machine.runFeatAccWrite s
  | .pwrlimWrite => Sys2Proof.Machine.runPwrlimWrite s
  | .registerWrite => Sys2Proof.Machine.runRegisterWrite s
  | .bar2Access => Sys2Proof.Machine.runBar2Access s
  | .powerOnReset => Sys2Proof.Machine.runPowerOnReset s
  | .bootStage => Sys2Proof.Machine.runBootStage s
  | .getVersion => Sys2Proof.Machine.runGetVersion s
  | .getCapabilities => Sys2Proof.Machine.runGetCapabilities s
  | .negotiateAlgorithms => Sys2Proof.Machine.runNegotiateAlgorithms s
  | .getDigests => Sys2Proof.Machine.runGetDigests s
  | .getCertificate => Sys2Proof.Machine.runGetCertificate s
  | .challenge => Sys2Proof.Machine.runChallenge s
  | .getMeasurements => Sys2Proof.Machine.runGetMeasurements s
  | .governorStepDown => Sys2Proof.Machine.runGovernorStepDown s
  | .governorStepUp => Sys2Proof.Machine.runGovernorStepUp s
  | .firmwareUpdate => Sys2Proof.Machine.runFirmwareUpdate s
  | .linkRetrain => Sys2Proof.Machine.runLinkRetrain s
  | .windowTableChange => Sys2Proof.Machine.runWindowTableChange s
  | .bankRefresh => Sys2Proof.Machine.runBankRefresh s
  | .rowHammerAlert => Sys2Proof.Machine.runRowHammerAlert s
  | .patrolScrub => Sys2Proof.Machine.runPatrolScrub s
  | .rowRemap => Sys2Proof.Machine.runRowRemap s
  | .pseudoChannelFence => Sys2Proof.Machine.runPseudoChannelFence s
  | .gyldLoad => Sys2Proof.Machine.runGyldLoad s
  | .gyldUnload => Sys2Proof.Machine.runGyldUnload s
  | .gyldForcedUnload => Sys2Proof.Machine.runGyldForcedUnload s
  | .copyOnDebug => Sys2Proof.Machine.runCopyOnDebug s
  | .endCopyOnDebug => Sys2Proof.Machine.runEndCopyOnDebug s
  | .dieCacheWriteBack => Sys2Proof.Machine.runDieCacheWriteBack s
  | .handleStreamFetchReturn => Sys2Proof.Machine.runHandleStreamFetchReturn s
  | .xltLoadsComplete => Sys2Proof.Machine.runXltLoadsComplete s
  | .stackTemperatureReport => Sys2Proof.Machine.runStackTemperatureReport s
  | .recoveryFirmwareImage => Sys2Proof.Machine.runRecoveryFirmwareImage s

end Sys2Proof.Machine
end

