-- ==== Sys2Proof/Machine/Step.lean ====
section
/-! DEFINITION. One step of the package. -/

namespace Sys2Proof.Machine

/-- One step: the next step of the agenda; or the turn of a strand, which runs the instruction at its program counter; or the start, the
end or the close of a cycle. -/
def step (s : State) : Host.Outcome State Fault Refusal :=
  match s.agenda with
  | (i, a) :: r => exec i { s with agenda := r, args := a }
  | [] =>
    match s.turn with
    | .begin => .next s.startCycle
    | .strand l k =>
      match exec (decodeInstr (s.fetch l k)) s with
      | .next s' => .next (s.turnDone s' l k)
      | .fault r => .fault r
      | .refused r => .refused r
    | .finish => .next s.finishCycle
    | .close => .next s.closeCycle

/-- The strand that may run a bundle (R9, R51): the first whose ports it names; feed for what is no bundle. -/
def strandFor (t : Tile) (w : BitVec 256) : StrandId :=
  match decodeBundle w with
  | .ok b => (allStrands.find? (fun k => (staticCheck k t b).isNone)).getD .feed
  | .error _ => .feed

/-- s with an instruction at the program counter of a running strand of tile 0, whose turn it is. -/
def State.withFetchWord (s : State) (nbits w : Nat) : State :=
  let b : BitVec 256 := BitVec.ofNat 256 (w % 2 ^ min nbits 256)
  let k := strandFor (s.tile 0) b
  { s with turn := .strand 0 k, agenda := [] }.modTile 0 (fun t =>
    { t with live := true, fenced := false }.modStrand k (fun st =>
      { st with run := .running, repLeft := 0, fault := none, token := none, store := mput st.store st.pc b }))

end Sys2Proof.Machine
end

