-- ==== Sys2Proof/Safety.lean ====
section
/-! DEFINITION. What counts as a sound state and a safe run, and the words that statements about instructions use. -/

namespace Sys2Proof.Machine

/-- PWRLIM is a value that the register can hold (R407). -/
def State.powerOk (s : State) : Bool := decide (1000 ≤ s.pwrlim) && decide (s.pwrlim ≤ 4200)

/-- Memory at home and the SPM of every tile are in canonical form: addresses rise strictly and no zero byte is listed. -/
def State.memoryOk (s : State) : Bool := Memory.wf s.mem && s.tiles.all (fun p => Memory.wf p.2.spm)

/-- A run of n steps from a state stops neither with a fault nor with a refusal. -/
def State.runsSafely (s : State) (n : Nat) : Bool :=
  match Host.Core.run Sys2Proof.core n s with
  | .next _ => true
  | .fault _ | .refused _ => false

/-! ### Words for statements about numbers -/

/-- The rational number that an exact value denotes; none for an infinity or a NaN. -/
def Num.value : Num → Option ℚ
  | .fin s m e => some ((if s then -(m : ℚ) else (m : ℚ)) * (2 : ℚ) ^ e)
  | .inf _ | .nan => none

/-- ReduceAdd of 2^d lanes (R195): neighbours are added level by level, and an absent one passes the other through. -/
def reduceTree (add : Nat → Nat → Nat) : Nat → (Nat → Option Nat) → Option Nat
  | 0, v => v 0
  | d + 1, v => reduceTree add d (fun i => match v (2 * i), v (2 * i + 1) with
    | some a, some b => some (add a b)
    | some a, none => some a
    | none, b => b)

/-! ### Words for statements about bundles -/

/-- The bundle that holds one move, in slot 0 (R35, R40). -/
def moveBundle (m : Mv) (d : Nat) : Bundle := ⟨plainHeader, [⟨0, m.g, some m.s, d, Dst.ofD d⟩]⟩

/-- The bundle that holds only header operations (R36). -/
def headerBundle (h : Header) : Bundle := ⟨h, []⟩

/-- A bundle reaches issue in the turn of strand k of tile l, and nothing of R16 or R273 holds it or makes it fault: it issues. -/
def State.issues (s : State) (l : Nat) (k : StrandId) (b : Bundle) : Prop :=
  s.turn = .strand l k ∧ s.mayIssue l k = true ∧ ((s.tile l).strand k).atBreakpoint = false ∧ s.decideBundle l k b = .issue ∧
  s.lsHeld l k b = false

/-- The guard of a move holds at the start of the cycle (R42). -/
def State.guardHolds (s : State) (l : Nat) (k : StrandId) (m : Mv) : Prop := ((s.tile l).strand k).guard m.g = true

/-- The value that a move carries (R43 to R46). -/
def State.moved (s : State) (l : Nat) (k : StrandId) (m : Mv) : Vec := (s.source l k m.s).2

/-- The low 64 bits of the value that a move carries. -/
def State.movedW (s : State) (l : Nat) (k : StrandId) (m : Mv) : Word := (s.moved l k m).setWidth 64

/-- The physical bytes of the trace record that strand k of tile l would write next; none where it does not trace (R153). -/
def State.traceBytes (s : State) (l : Nat) (k : StrandId) : List Nat :=
  let x := s.ctx (s.ctxOf l)
  let n := x.trsize.toNat / 16
  if !((s.tile l).strand k).trace || n = 0 then [] else (x.pas (x.trbase.toNat + 16 * (x.trpos % n)) 16).getD []

/-! ### What every issue changes -/

/-- A strand without what every issue may change: the sequence, its counters, its ports, its operands and its debug state. -/
def Strand.engine (st : Strand) : Strand :=
  { st with
    run := .idle, pc := 0, repLeft := 0, sstat := 0, issued := 0, lodc := 0, cpcnt := 0, inner := none, outer := none, rstack := [],
    dbgctl := 0, operands := [], ports := [], lodWait := false, token := none, pass := false, issuedAt := 0, advancedAt := 0 }

/-- A tile without what every issue may change: the same of its strands, and the copy channels. -/
def Tile.engine (t : Tile) : Tile :=
  { t with
    feed := t.feed.engine, compute := t.compute.engine, drain := t.drain.engine, cpi := .empty, cpo := .empty, copyOrder := 0 }

/-- A trigger fires alone: the bundle that holds it issues in the turn of strand k of tile l, and its guard holds. -/
def State.fires (s : State) (l : Nat) (k : StrandId) (m : Mv) (t : Trig) : Prop :=
  s.issues l k (moveBundle m t.d) ∧ s.guardHolds l k m

/-- The triggers whose start changes nothing but the strand and the engines of its tile, and no SPM byte. -/
def trigInTile : Trig → Bool
  | .sys .waitLd | .sys .waitSt | .sys .waitCp | .sys .brk | .sys .ending | .sem .post | .sem .add | .sem .rd | .mb .wait | .mb .cnt => true
  | .ls .rcfg | .ls .rpub | .ls .rrel | .ls .rst | .ls .st8 | .ls .st16 | .ls .st32 | .ls .st64 | .ls .vst => true
  | .acc .rload => false
  | .br _ | .ix _ _ | .st _ _ | .vx _ | .sf _ | .cv _ | .mx _ | .acc _ | .cp _ _ | .nx _ | .tk _ | .wq _ => true
  | .sys _ | .sem _ | .mb _ | .ls _ | .fx _ => false

/-- The tile and strand that a trigger of a strand of a tile, in slot 0, belongs to, with its operand. -/
def State.iss (s : State) (l : Nat) (k : StrandId) (m : Mv) : Iss := ⟨l, k, 0, s.moved l k m⟩

/-- The state in which what an acquire of a strand must find performed is performed (R84). -/
def State.forced (s : State) (l : Nat) (k : StrandId) : State := s.forceBefore l k ((s.tile l).strand k).nextId

/-- The state in which an ls trigger of a strand acts on the tile's own SPM: the streams have noted the bytes it stores to (R178), and what it
must find performed is performed (R76). -/
def State.prepared (s : State) (l : Nat) (k : StrandId) (ids : List ByteId) : State :=
  ((s.setTile l (s.tile l)).noteStore l k ids).forceBefore l k ((s.tile l).strand k).nextId

/-- The SPM addresses of n bytes at an offset of a window of tile l; none for a byte of a window of size 0 (R66). -/
def State.spmAddrs (s : State) (l w off n : Nat) : List (Option Nat) := ((s.tile l).window w).addrs off n

/-- n bytes at an offset of a window as a strand of tile l sees them: its own stores in its buffer before a point of program order lie over
the bytes of SPM (R77). -/
def State.seenBytes (s : State) (l : Nat) (k : StrandId) (before w off n : Nat) : List Byte :=
  s.forward ((s.tile l).strand k) before (s.byteIds (.window l w off) n) ((s.tile l).readSpm (s.spmAddrs l w off n))

/-- The 64-bit operand port d of a strand. -/
def State.port64 (s : State) (l : Nat) (k : StrandId) (d : Nat) : Word := ((s.tile l).strand k).opw d

/-- t differs from s at most in tile l, in the counter of free values, and in one trace record of strand k of tile l; the write of a
trace record can meet latent errors of the stacks and bring them to light (R347). -/
def State.around (s t : State) (l : Nat) (k : StrandId) : Prop :=
  (∀ j, j ≠ l → t.tile j = s.tile j) ∧ (∀ c, { t.ctx c with trpos := (s.ctx c).trpos } = s.ctx c) ∧
  (∀ a, a ∉ s.traceBytes l k → readByte t.mem a = readByte s.mem a) ∧
  (s.traceBytes l k = [] ∨ s.latent = [] → t = { s with tiles := t.tiles, ctxs := t.ctxs, mem := t.mem, free := t.free }) ∧
  t = { s with
    tiles := t.tiles, ctxs := t.ctxs, mem := t.mem, free := t.free, poison := t.poison, latent := t.latent, dies := t.dies, hbm := t.hbm,
    telemetry := t.telemetry }

end Sys2Proof.Machine
end

