-- ==== Sys2Proof/WellFormed.lean ====
section
/-! DEFINITION. Well-formed instructions: the terms that stand for exactly one bundle word, or for a step that no bundle carries. -/

namespace Sys2Proof

/-- Why a term stands for no instruction of its own. -/
inductive IllFormed where
  /-- R37: a nop bundle with REP 0 is the empty bundle, which `bundleIssue` names. -/
  | idleOfNone
  /-- R268: a move of a go port to a scalar register is a copy launch. -/
  | goIsLaunch
  /-- R16, R58: the word of one move or one header operation is that instruction's own. -/
  | wordIsOne
  deriving DecidableEq, Repr

/-- The source is a go port. -/
def Src.isGo : Src → Bool
  | .go _ => true
  | _ => false

/-- What is wrong with a term, if anything. -/
def Instr.illFormed (i : Instr) : Option IllFormed :=
  match i with
  | .repIdle n => if n = 0 then some .idleOfNone else none
  | .moveToX m _ => if m.s.isGo then some .goIsLaunch else none
  | .bundleIssue w => if decodeInstr w = .bundleIssue w then none else some .wordIsOne
  | _ => none

/-- The term is well-formed. -/
def Instr.wellFormed (i : Instr) : Bool := i.illFormed.isNone

end Sys2Proof
end

