-- ==== Sys2Proof/Certificates/Slice0/Obligations.lean ====
section
/-! DEFINITION. What is claimed of the model. A statement about one instruction that a bundle carries speaks of the turn of strand k of tile l,
in which the bundle of that one instruction issues (`State.fires`, `State.issues`); its conclusion says that `exec` answers a next state, and
what the tile then holds, but for what every issue changes (`Tile.engine`; the sequence has statements of its own). -/

open Sys2Proof Sys2Proof.Machine

/-! ### The machine -/

/-- R407, R409, R415, R417: after power-on reset PWRLIM is 4,200, no FEAT_ACC has been written, no die has booted, the package is not ready
and no tile runs a task. What a FEAT_ACC that nothing has written reads as is no part of it (log entry 3). -/
def Obligations.ResetValues : Prop :=
  State.reset.pwrlim = 4200 ∧ (∀ k : Fin 4, State.reset.featAcc[k] = none) ∧ State.reset.ready = false ∧
  (∀ d, (State.reset.die d).bootStage = 0 ∧ (State.reset.die d).cache = []) ∧
  ∀ l, (State.reset.tile l).live = false ∧ (State.reset.tile l).owner = none

/-- The reset state satisfies the invariants: PWRLIM is legal and every memory is in canonical form. -/
def Obligations.ResetSound : Prop := State.reset.powerOk = true ∧ State.reset.memoryOk = true

/-- R35 to R47: words written out from the encoding decode to their instructions: one move in slot 0 has G in bits 87:85, S in 84:75 and D
in 74:64; POP bit k is bit 32 + k, REP is bits 59:56, SEMOP is bits 31:30 and SEM bits 29:24. -/
def Obligations.DecodeWords : Prop :=
  decodeInstr (BitVec.ofNat 256 ((5 * 2 ^ 11 + (Dst.x 7).d) * 2 ^ 64)) = .moveToX ⟨.always, .x 5⟩ 7 ∧
  decodeInstr (BitVec.ofNat 256 ((2 ^ 21 + (512 + 511) * 2 ^ 11 + 0x108) * 2 ^ 64)) = .ixAdd .ix0 ⟨.g1, .imm (BitVec.ofInt 9 (-1))⟩ ∧
  decodeInstr (BitVec.ofNat 256 (2 ^ (32 + 6))) = .headerPop 6 ∧
  decodeInstr (BitVec.ofNat 256 (3 * 2 ^ 30 + 17 * 2 ^ 24)) = .headerSemTake 17 ∧
  decodeInstr (BitVec.ofNat 256 (9 * 2 ^ 56)) = .repIdle 9 ∧
  decodeInstr (BitVec.ofNat 256 (2 ^ 60)) = .bundleIssue (BitVec.ofNat 256 (2 ^ 60))

/-- Decode and encode agree: every well-formed instruction that a bundle can hold is the one that its word decodes to (R35 to R47). -/
def Obligations.RoundTrip : Prop :=
  ∀ (i : Instr) (w : BitVec 256), i.wellFormed = true → encode i = some w → decodeInstr w = i

/-- A step in the turn of a strand runs the instruction that the word at its program counter decodes to, which answers a next state, and then
passes the turn on (R16, R123); while steps that have no encoding are on the agenda (log entry 6), a step runs the first of them with its operands. -/
def Obligations.StepRunsDecoded : Prop :=
  (∀ (s : State) (l : Nat) (k : StrandId), s.agenda = [] → s.turn = .strand l k →
    ∃ t, exec (decodeInstr (s.fetch l k)) s = .next t ∧ step s = .next (s.turnDone t l k)) ∧
  ∀ (s : State) (i : Instr) (a : Args) (r : List (Instr × Args)), s.agenda = (i, a) :: r →
    step s = exec i { s with agenda := r, args := a }

/-- R407: every step keeps PWRLIM between 1,000 and 4,200. -/
def Obligations.StepKeepsPower : Prop :=
  ∀ s t : State, s.powerOk = true → step s = .next t → t.powerOk = true

/-- Every step keeps every memory in canonical form: home memory and the SPM of every tile list rising addresses and no zero byte. -/
def Obligations.StepKeepsMemory : Prop :=
  ∀ s t : State, s.memoryOk = true → step s = .next t → t.memoryOk = true

/-! ### The issue of a bundle -/

/-- R37, R51, R140, R142: a word that is no bundle faults when it reaches issue, before any stall: the strand halts with ILLEGAL_BUNDLE, a
precise fault whose detail is the lowest slot involved or 8, at an unchanged program counter; nothing of the bundle takes effect. -/
def Obligations.IllegalBundle : Prop :=
  ∀ (s : State) (l : Nat) (k : StrandId) (w : BitVec 256) (r : Reject), s.turn = .strand l k → s.mayIssue l k = true →
    ((s.tile l).strand k).atBreakpoint = false → decodeBundle w = .error r →
    ∃ t, exec (.bundleIssue w) s = .next t ∧ ((t.tile l).strand k).run = .halted ∧
      ((t.tile l).strand k).fault = some ⟨.illegalBundle, .precise, ((s.tile l).strand k).pc, word r.slot, none, false⟩ ∧
      ((t.tile l).strand k).pc = ((s.tile l).strand k).pc ∧ ((t.tile l).strand k).issued = ((s.tile l).strand k).issued ∧
      ((t.tile l).strand k).x = ((s.tile l).strand k).x ∧ (t.tile l).spm = (s.tile l).spm ∧ t.mem = s.mem ∧ ∀ j, j ≠ l → t.tile j = s.tile j

/-- R16, R140, R142: a bundle that fails a check raises its fault as a precise fault and performs nothing: the strand halts at the bundle,
and the other strands and tiles and every memory are as before. -/
def Obligations.PreciseFault : Prop :=
  ∀ (s : State) (l : Nat) (k : StrandId) (w : BitVec 256) (b : Bundle) (c : FaultCode) (d : Nat), s.turn = .strand l k →
    s.mayIssue l k = true → ((s.tile l).strand k).atBreakpoint = false → decodeBundle w = .ok b → s.decideBundle l k b = .fault c d →
    ∃ t, exec (.bundleIssue w) s = .next t ∧ ((t.tile l).strand k).run = .halted ∧
      ((t.tile l).strand k).fault = some ⟨c, .precise, ((s.tile l).strand k).pc, word d, none, false⟩ ∧
      ((t.tile l).strand k).pc = ((s.tile l).strand k).pc ∧ ((t.tile l).strand k).x = ((s.tile l).strand k).x ∧
      ((t.tile l).strand k).g = ((s.tile l).strand k).g ∧ (∀ j, j ≠ k → (t.tile l).strand j = (s.tile l).strand j) ∧
      (t.tile l).spm = (s.tile l).spm ∧ (t.tile l).queues = (s.tile l).queues ∧ (t.tile l).sems = (s.tile l).sems ∧ t.mem = s.mem ∧
      ∀ j, j ≠ l → t.tile j = s.tile j

/-- R16, R139: a bundle that cannot issue in a cycle has no effect in that cycle but the count of a wait on an empty return queue: the state
is as before, or the strand counts one cycle in LODCY and notes the wait. -/
def Obligations.BundleWaits : Prop :=
  ∀ (s : State) (l : Nat) (k : StrandId) (w : BitVec 256) (b : Bundle), s.turn = .strand l k → s.mayIssue l k = true →
    ((s.tile l).strand k).atBreakpoint = false → decodeBundle w = .ok b → s.decideBundle l k b = .wait →
    exec (.bundleIssue w) s = .next (if s.waitsOnReturn l k b then
      s.modTile l (fun t => t.modStrand k (fun st => { st with lodWait := true, lodcy := st.lodcy + 1 })) else s)

/-- R52: a decoded bundle breaks BUNDLE_DEST when two of its moves have the same D value and guards that are not mutually exclusive, and only
then; the null sink, which decodes to no move, is exempt. -/
def Obligations.SameDestination : Prop :=
  ∀ (w : BitVec 256) (b : Bundle), decodeBundle w = .ok b →
    ((bundleDest b).isSome = true ↔ ∃ m ∈ b.moves, ∃ n ∈ b.moves, m.slot ≠ n.slot ∧ m.d = n.d ∧ m.g.exclusive n.g = false) ∧
    (∀ m ∈ b.moves, m.d ≠ 0) ∧
    ∀ (s : State) (l : Nat) (k : StrandId), illegalPort k b = none → (bundleDest b).isSome = true →
      ∃ n, s.decideBundle l k b = .fault .bundleDest n

/-- R53: a bundle breaks BUNDLE_TRIG when two of its moves write trigger ports of one socket, whatever their guards, and only then; the four
stream generators are four sockets, cpi and cpo two, the two integer units two, and every other unit one of its own. -/
def Obligations.SameSocket : Prop :=
  (∀ b : Bundle, (bundleTrig b).isSome = true ↔
    ∃ m ∈ b.moves, ∃ n ∈ b.moves, m.slot ≠ n.slot ∧ ∃ t u, m.dst = some (.trig t) ∧ n.dst = some (.trig u) ∧ trigSocket t = trigSocket u) ∧
  (∀ (j k : Fin 4) (o p : StOp), trigSocket (.st j o) = trigSocket (.st k p) ↔ j = k) ∧
  (∀ (c d : Channel) (o p : CpOp), trigSocket (.cp c o) = trigSocket (.cp d p) ↔ c = d) ∧
  (∀ (u v : IxUnit) (o p : IxOp), trigSocket (.ix u o) = trigSocket (.ix v p) ↔ u = v) ∧
  (∀ t u : Trig, trigSocket t = trigSocket u ↔ match t, u with
    | .sys _, .sys _ | .br _, .br _ | .sem _, .sem _ | .mb _, .mb _ | .ls _, .ls _ | .vx _, .vx _ | .sf _, .sf _ | .cv _, .cv _ | .mx _, .mx _
    | .acc _, .acc _ | .nx _, .nx _ | .tk _, .tk _ | .wq _, .wq _ | .fx _, .fx _ => True
    | .ix a _, .ix b _ => a = b
    | .st a _, .st b _ => a = b
    | .cp a _, .cp b _ => a = b
    | _, _ => False) ∧
  ∀ (s : State) (l : Nat) (k : StrandId) (b : Bundle), illegalPort k b = none → bundleDest b = none → (bundleTrig b).isSome = true →
    ∃ n, s.decideBundle l k b = .fault .bundleTrig n

/-- R17, R42: a move whose guard is false is not performed: the bundle issues, its trigger does not start or its register, guard or tail is not
written, and no engine of the tile changes. The strand goes on by the loop step of R130, whatever the trigger: no branch is taken, no strand
ends, no copy is cancelled, and its return stack, its operand ports and the results that the source does not name stay as they are. -/
def Obligations.FalseGuard : Prop :=
  ∀ (s : State) (l : Nat) (k : StrandId) (m : Mv), ¬ s.guardHolds l k m →
    let st := (s.tile l).strand k
    let kept := fun (t : State) =>
      let u := (t.tile l).strand k
      let r := st.seqNext st.pc 3
      (t.tile l).engine = (s.tile l).engine ∧ s.around t l k ∧ u.issued = st.issued + 1 ∧ u.run = st.run ∧ u.rstack = st.rstack ∧
      u.pc = r.2 ∧ u.inner = r.1.inner ∧ u.outer = r.1.outer ∧ u.repLeft = st.repLeft ∧ u.operands = st.operands ∧
      (∀ p, m.s ≠ .port p → u.port p = st.port p) ∧ (st.lodWait = false → u.sstat = st.sstat ∧ u.lodc = st.lodc) ∧
      (∀ j, j ≠ k → ((t.tile l).strand j).run = ((s.tile l).strand j).run ∧ ((t.tile l).strand j).pc = ((s.tile l).strand j).pc) ∧
      ∀ c, (m.s ≠ .go c → (t.tile l).channel c = (s.tile l).channel c) ∧
        ∃ new, ((t.tile l).channel c).copies = ((s.tile l).channel c).copies ++ new
    (∀ u : Trig, s.issues l k (moveBundle m u.d) → ∃ t, exec (Instr.ofTrig u m) s = .next t ∧ kept t) ∧
    (∀ n : Fin 64, s.issues l k (moveBundle m (Dst.x n).d) → ∃ t, exec (.moveToX m n) s = .next t ∧ kept t) ∧
    (∀ n : Fin 3, s.issues l k (moveBundle m (Dst.g n).d) → ∃ t, exec (.moveToG m n) s = .next t ∧ kept t) ∧
    (∀ n : Fin 32, s.issues l k (moveBundle m (Dst.v n).d) → ∃ t, exec (.moveToV m n) s = .next t ∧ kept t) ∧
    ∀ n : Fin 8, s.issues l k (moveBundle m (Dst.tail n).d) → ∃ t, exec (.moveToQ m n) s = .next t ∧ kept t

/-- R17, R48, R49, R50: within an issued bundle every source is read before any destination is written. What a performed move writes takes the
value that its source had before the bundle: a scalar register its low 64 bits, a guard whether it is non-zero, a vector register all of it, an
operand port its bits but for the reserved ones (R3), and the tail of a queue an entry behind the others. Every other register, guard, vector
register and operand port keeps its value, and the strand counts one bundle. -/
def Obligations.ReadsBeforeWrites : Prop :=
  ∀ (s : State) (l : Nat) (k : StrandId) (w : BitVec 256) (b : Bundle), decodeBundle w = .ok b → s.issues l k b →
    let st := (s.tile l).strand k
    let keeps := fun (d : Dst) => ∀ m ∈ b.moves, st.guard m.g = true → m.dst ≠ some d
    ∃ t, exec (.bundleIssue w) s = .next t ∧
      let u := (t.tile l).strand k
      u.issued = st.issued + 1 ∧
      (∀ m ∈ b.moves, st.guard m.g = true → ∀ x, m.src = some x →
        let v := (s.source l k x).2
        (∀ n, m.dst = some (.x n) → u.x[n] = v.setWidth 64) ∧ (∀ n, m.dst = some (.g n) → u.g[n] = (v != 0)) ∧
        (∀ n, m.dst = some (.v n) → (t.tile l).vu.v[n] = v) ∧
        (∀ d, m.dst = some (.operand d) →
          u.opnd d = if operandWidth d = some 64 then (v.setWidth 64 &&& operandBits d).setWidth 1024 else v) ∧
        ∀ n, m.dst = some (.tail n) → (t.tile l).queues[n].entries = (s.tile l).queues[n].entries ++
          [if n.val < 6 then (s.cycle, max 64 (s.source l k x).1, v) else (s.cycle, 64, (v.setWidth 64).setWidth 1024)]) ∧
      (∀ n, keeps (.x n) → u.x[n] = st.x[n]) ∧ (∀ n, keeps (.g n) → u.g[n] = st.g[n]) ∧
      (∀ n, keeps (.v n) → (t.tile l).vu.v[n] = (s.tile l).vu.v[n]) ∧ ∀ d, keeps (.operand d) → u.opnd d = st.opnd d

/-! ### Frames and the sequence -/

/-- What a trigger that stays in its tile leaves alone (R17): every other tile, every context but for a trace record, every byte of memory
and of SPM, the operand ports, the unread results of the ports that its source does not name, the copy channels that it does not use, and
the other strands; and, but for a branch, sys.end and the triggers that take the next index from a branch, the sequence goes on by the loop
step of R130. -/
def Obligations.TriggerFrame : Prop :=
  ∀ (s : State) (l : Nat) (k : StrandId) (m : Mv) (u : Trig), s.fires l k m u → trigInTile u = true →
    ∃ t, exec (Instr.ofTrig u m) s = .next t ∧ s.around t l k ∧ (t.tile l).spm = (s.tile l).spm ∧
      (∀ d, t.port64 l k d = s.port64 l k d) ∧
      (∀ p, m.s ≠ .port p → ((t.tile l).strand k).port p = ((s.tile l).strand k).port p) ∧
      (∀ c, m.s ≠ .go c → (∀ o, u ≠ .cp c o) → (t.tile l).channel c = (s.tile l).channel c) ∧
      (∀ j, j ≠ k → { (t.tile l).strand j with cpcnt := 0 } = { (s.tile l).strand j with cpcnt := 0 }) ∧
      ((t.tile l).strand k).x = ((s.tile l).strand k).x ∧ ((t.tile l).strand k).g = ((s.tile l).strand k).g ∧
      ((t.tile l).strand k).issued = ((s.tile l).strand k).issued + 1 ∧
      ((∀ o, u ≠ .br o) → u ≠ .sys .ending →
        ((t.tile l).strand k).pc = (((s.tile l).strand k).seqNext ((s.tile l).strand k).pc 3).2 ∧
        ((t.tile l).strand k).inner = (((s.tile l).strand k).seqNext ((s.tile l).strand k).pc 3).1.inner ∧
        ((t.tile l).strand k).outer = (((s.tile l).strand k).seqNext ((s.tile l).strand k).pc 3).1.outer ∧
        ((t.tile l).strand k).rstack = ((s.tile l).strand k).rstack)

/-- R39, R11, R12, R137, R179, R303, R365: a bundle that pops a head takes its oldest entry away, and frees it for a write of the next
cycle; a stream whose last element goes becomes idle; q13 is the strand's mailbox, and its pop is an acquire (R84). -/
def Obligations.HeaderPops : Prop :=
  ∀ (s : State) (l : Nat) (k : StrandId) (q : Fin 16), s.issues l k (headerBundle { plainHeader with pop := BitVec.ofNat 16 (2 ^ q.val) }) →
    ∃ t, exec (.headerPop q) s = .next t ∧
      (∀ n : Fin 8, n.val = q.val → (t.tile l).engine =
        { s.tile l with queues := (s.tile l).queues.set n.val ⟨(s.tile l).queues[n].entries.drop 1, s.cycle + 1⟩ }.engine) ∧
      (∀ g : Fin 4, 8 + g.val = q.val → (t.tile l).engine = ((s.tile l).setStream g ((s.tile l).streams[g].pop s.cycle)).engine) ∧
      (q.val = 12 → (t.tile l).engine =
        { s.tile l with nx := { (s.tile l).nx with q12 := (s.tile l).nx.q12.drop 1, q12Pop := s.cycle + 1 } }.engine) ∧
      (q.val = 13 → (t.tile l).engine = (((s.forced l k).tile l).modStrand k (fun st =>
        { st with mailbox := st.mailbox.drop 1, mailPop := s.cycle + 1 })).engine) ∧
      (q.val = 15 → (t.tile l).engine =
        { s.tile l with wq := { (s.tile l).wq with q15 := (s.tile l).wq.q15.drop 1, q15Pop := s.cycle + 1, hp := 0 } }.engine)

/-- R36, R37, R88, R133, R134: a header wait and take are acquires, and issue only on a count of at least 1; a take takes 1 at the end of the
cycle; a post waits for the stores before it; REP adds idle cycles. Each performs nothing else in the engines of the tile. -/
def Obligations.HeaderSemaphores : Prop :=
  ∀ (s : State) (l : Nat) (k : StrandId) (n : BitVec 6),
    (s.issues l k (headerBundle { plainHeader with semop := 1, sem := n }) → 1 ≤ (s.tile l).sem n.toNat ∧
      ∃ t, exec (.headerSemWait n) s = .next t ∧ (t.tile l).engine = ((s.forced l k).tile l).engine) ∧
    (s.issues l k (headerBundle { plainHeader with semop := 2, sem := n }) →
      ∃ t, exec (.headerSemPost n) s = .next t ∧ (t.tile l).engine = ((s.tile l).modStrand k (fun st =>
        { st with posts := st.posts ++ [⟨.sem n.toNat 1, st.nextId⟩] })).engine) ∧
    (s.issues l k (headerBundle { plainHeader with semop := 3, sem := n }) → 1 ≤ (s.tile l).semAvail n.toNat ∧
      ∃ t, exec (.headerSemTake n) s = .next t ∧ (t.tile l).engine =
        { (s.forced l k).tile l with semTakes := ((s.forced l k).tile l).semTakes ++ [(k, n.toNat, 1)] }.engine) ∧
    ∀ r : BitVec 4, s.issues l k (headerBundle { plainHeader with rep := r.toNat }) →
      ∃ t, exec (.repIdle r) s = .next t ∧ (t.tile l).engine = (s.tile l).engine ∧
        ((t.tile l).strand k).repLeft = ((s.tile l).strand k).repLeft + r.toNat ∧ s.around t l k

/-- R49, R50, R12, R167: a move to xN takes the low 64 bits and drops what a mapped load would still write there; a move to gN takes whether
the value is non-zero; a move to vN takes 1,024 bits; a move to the tail of a queue puts an entry behind the others, of 64 bits for q6 and
q7. Nothing else of the tile's engines changes. -/
def Obligations.StateMoves : Prop :=
  ∀ (s : State) (l : Nat) (k : StrandId) (m : Mv), s.guardHolds l k m →
    (∀ n : Fin 64, s.issues l k (moveBundle m (Dst.x n).d) → ∃ t, exec (.moveToX m n) s = .next t ∧
      (t.tile l).engine = ((s.tile l).modStrand k (fun st =>
        { st with x := st.x.set n.val (s.movedW l k m), mapped := st.mapped.filter (fun e => e.reg != n) })).engine) ∧
    (∀ n : Fin 3, s.issues l k (moveBundle m (Dst.g n).d) → ∃ t, exec (.moveToG m n) s = .next t ∧
      (t.tile l).engine = ((s.tile l).modStrand k (fun st => { st with g := st.g.set n.val (s.moved l k m != 0) })).engine) ∧
    (∀ n : Fin 32, s.issues l k (moveBundle m (Dst.v n).d) → ∃ t, exec (.moveToV m n) s = .next t ∧
      (t.tile l).engine = { s.tile l with vu := { (s.tile l).vu with v := (s.tile l).vu.v.set n.val (s.moved l k m) } }.engine) ∧
    ∀ n : Fin 8, s.issues l k (moveBundle m (Dst.tail n).d) → ∃ t, exec (.moveToQ m n) s = .next t ∧
      (t.tile l).queues[n].entries = (s.tile l).queues[n].entries ++
        [if n.val < 6 then (s.cycle, max 64 (s.source l k m.s).1, s.moved l k m) else (s.cycle, 64, (s.movedW l k m).setWidth 1024)] ∧
      (t.tile l).engine = { s.tile l with queues := (t.tile l).queues }.engine

/-- R264, R267, R268, R272, R273: a bundle that reads a go port launches one copy, guard or no guard: the channel takes a shadow of its operand
ports and the next transfer id, a copy of no element is due at once, one between windows of its tile within 32 cycles (R422) and another after a
free latency, CPCNT rises, and the register of a performed move takes the go word.
R276, R277: query and cancel of a channel deliver, two cycles later, the state, the cancel mark and the progress of the copy that bits
[15:0] of the operand name, or zero for one that is unknown; cancel marks it where it has not completed. That 2^40 bytes done show as 0 is the
model's choice (log entry 29). -/
def Obligations.Copies : Prop :=
  (∀ (s : State) (l : Nat) (c : Channel) (g : Guard) (n : Fin 64), s.issues l (cpOwner c) (moveBundle ⟨g, .go c⟩ (Dst.x n).d) →
     ∃ t, exec (.copyLaunch c g n) s = .next t ∧ s.around t l (cpOwner c) ∧
       (∃ due, ((t.tile l).channel c).copies = ((s.tile l).channel c).copies ++ [{ launchShadow l c (s.tile l) with due := due }] ∧
         let x := launchShadow l c (s.tile l)
         (x.total = 0 → due = s.cycle) ∧
         (x.total ≠ 0 → cpKind l x.ssel = 0 ∧ cpKind l x.dsel = 0 → s.cycle < due ∧ due ≤ s.cycle + 32) ∧
         (x.total ≠ 0 → cpKind l x.ssel ≠ 0 ∨ cpKind l x.dsel ≠ 0 → due = s.nextDue)) ∧
       ((t.tile l).channel c).nextXid = (if ((s.tile l).channel c).nextXid = 65535 then 1 else ((s.tile l).channel c).nextXid + 1) ∧
       (∀ d, d ≠ c → (t.tile l).channel d = (s.tile l).channel d) ∧
       ((t.tile l).strand (cpOwner c)).cpcnt = ((s.tile l).strand (cpOwner c)).cpcnt + 1 ∧
       (t.tile l).spm = (s.tile l).spm ∧
       ((t.tile l).strand (cpOwner c)).x[n] = (if ((s.tile l).strand (cpOwner c)).guard g
         then word ((match c with | .cpi => 0 | .cpo => 1) * 2 ^ 16 + ((s.tile l).channel c).nextXid)
         else ((s.tile l).strand (cpOwner c)).x[n])) ∧
  ∀ (s : State) (l : Nat) (k : StrandId) (c : Channel) (m : Mv),
    let id := (s.movedW l k m).toNat % 2 ^ 16
    let w := match ((s.tile l).channel c).copies.find? (fun x => x.xid == id) with
      | some x => word ((if x.completed then 3 else if x.begun then 2 else 1) * 2 ^ 62 + b2n x.cancelled * 2 ^ 61 + x.done % 2 ^ 40)
      | none => 0
    let port := match c with | .cpi => ResPort.cpiStat | .cpo => ResPort.cpoStat
    (s.fires l k m (.cp c .query) → ∃ t, exec (.cpQuery c m) s = .next t ∧
      (t.tile l).engine = ((s.tile l).modStrand k (fun st => st.flyAt (s.cycle + 2) port (res64 w))).engine) ∧
    (s.fires l k m (.cp c .cancel) → m.s ≠ .go c → ∃ t, exec (.cpCancel c m) s = .next t ∧
      (t.tile l).engine = ((s.tile l).modStrand k (fun st => st.flyAt (s.cycle + 2) port (res64 w))).engine ∧
      ((t.tile l).channel c).nextXid = ((s.tile l).channel c).nextXid ∧
      ((t.tile l).channel c).copies = ((s.tile l).channel c).copies.map (fun x =>
        if x.xid = id ∧ x.completed = false then { x with cancelled := true } else x))

/-! ### sys and br -/

/-- R129, R132: br.jmp goes to the index in bits [10:0] of its operand; br.call does too and pushes the index that the loop step gives;
br.ret goes to the top entry and pops it; br.mdjmp goes to the low 11 bits of the metadata word at MDC plus the operand, one idle cycle
later. None of these changes the engines of the tile. br.mdset sets MDC from bits [10:0] of its operand; br.mdrd
delivers the metadata word at MDC two cycles later, and MDC goes on by one, modulo 2,048. -/
def Obligations.Branches : Prop :=
  ∀ (s : State) (l : Nat) (k : StrandId) (m : Mv),
    (s.fires l k m (.br .jmp) → ∃ t, exec (.brJmp m) s = .next t ∧ (t.tile l).engine = (s.tile l).engine ∧
      ((t.tile l).strand k).pc = (s.movedW l k m).toNat % 2048 ∧ ((t.tile l).strand k).rstack = ((s.tile l).strand k).rstack ∧
      ((t.tile l).strand k).inner = ((s.tile l).strand k).inner ∧ ((t.tile l).strand k).outer = ((s.tile l).strand k).outer) ∧
    (s.fires l k m (.br .call) → ((s.tile l).strand k).rstack.length < 8 ∧
      ∃ t, exec (.brCall m) s = .next t ∧ (t.tile l).engine = (s.tile l).engine ∧
      ((t.tile l).strand k).pc = (s.movedW l k m).toNat % 2048 ∧
      ((t.tile l).strand k).rstack = (((s.tile l).strand k).seqNext ((s.tile l).strand k).pc 3).2 :: ((s.tile l).strand k).rstack ∧
      ((t.tile l).strand k).inner = (((s.tile l).strand k).seqNext ((s.tile l).strand k).pc 3).1.inner) ∧
    (s.fires l k m (.br .ret) → ∃ a r, ((s.tile l).strand k).rstack = a :: r ∧
      ∃ t, exec (.brRet m) s = .next t ∧ (t.tile l).engine = (s.tile l).engine ∧
      ((t.tile l).strand k).pc = a ∧ ((t.tile l).strand k).rstack = r ∧ ((t.tile l).strand k).inner = ((s.tile l).strand k).inner) ∧
    (s.fires l k m (.br .mdjmp) → ∃ t, exec (.brMdjmp m) s = .next t ∧ (t.tile l).engine = (s.tile l).engine ∧
      ((t.tile l).strand k).pc =
        (mget (s.tile l).metaStore ((((s.tile l).strand k).mdc + (s.movedW l k m).toNat % 2048) % 2048) 0).toNat % 2048 ∧
      ((t.tile l).strand k).repLeft = ((s.tile l).strand k).repLeft + 1 ∧ ((t.tile l).strand k).mdc = ((s.tile l).strand k).mdc) ∧
    (s.fires l k m (.br .mdset) → ∃ t, exec (.brMdset m) s = .next t ∧
      (t.tile l).engine = ((s.tile l).modStrand k (fun st => { st with mdc := (s.movedW l k m).toNat % 2048 })).engine) ∧
    (s.fires l k m (.br .mdrd) → ∃ t, exec (.brMdrd m) s = .next t ∧
      (t.tile l).engine = ((s.tile l).modStrand k (fun st =>
        { st.flyAt (s.cycle + 2) .brRes (res64 (mget (s.tile l).metaStore (st.mdc % 2048) 0)) with mdc := (st.mdc + 1) % 2048 })).engine)

/-- R130: br.loop with a count of 0 goes to END + 1 and starts no loop; with another count it starts the inner loop from the next bundle to
END, and the loop that was active becomes the outer one; br.lexit ends the inner loop and goes to its END + 1. The loop step: away from END,
or with no loop, the next bundle follows; at END with a count above 1 the count drops and START is next; at END with a count of 1 the loop
ends, and the outer loop takes the step if it ends there too. -/
def Obligations.HardwareLoops : Prop :=
  (∀ (s : State) (l : Nat) (k : StrandId) (m : Mv),
    (s.fires l k m (.br .loop) → ∃ t, exec (.brLoop m) s = .next t ∧ (t.tile l).engine = (s.tile l).engine ∧
      (if (s.port64 l k 0x020).toNat % 2 ^ 32 = 0 then
        ((t.tile l).strand k).pc = (s.movedW l k m).toNat + 1 ∧ ((t.tile l).strand k).inner = ((s.tile l).strand k).inner ∧
        ((t.tile l).strand k).outer = ((s.tile l).strand k).outer
      else
        ((t.tile l).strand k).pc = ((s.tile l).strand k).pc + 1 ∧
        ((t.tile l).strand k).inner =
          some ⟨((s.tile l).strand k).pc + 1, (s.movedW l k m).toNat, (s.port64 l k 0x020).toNat % 2 ^ 32⟩ ∧
        ((t.tile l).strand k).outer = ((s.tile l).strand k).inner)) ∧
    (s.fires l k m (.br .lexit) → ∃ p, ((s.tile l).strand k).inner = some p ∧
      ∃ t, exec (.brLexit m) s = .next t ∧ (t.tile l).engine = (s.tile l).engine ∧ ((t.tile l).strand k).pc = p.stop + 1 ∧
      ((t.tile l).strand k).inner = ((s.tile l).strand k).outer ∧ ((t.tile l).strand k).outer = none)) ∧
  ∀ (st : Strand) (pc : Nat),
    (st.inner = none → st.seqNext pc 3 = (st, pc + 1)) ∧
    ∀ p, st.inner = some p →
      (pc ≠ p.stop → st.seqNext pc 3 = (st, pc + 1)) ∧
      (pc = p.stop → 1 < p.count → (st.seqNext pc 3).2 = p.start ∧ (st.seqNext pc 3).1.inner = some { p with count := p.count - 1 } ∧
        (st.seqNext pc 3).1.outer = st.outer) ∧
      (pc = p.stop → p.count ≤ 1 → ∀ q, st.outer = some q →
        (pc = q.stop → 1 < q.count → (st.seqNext pc 3).2 = q.start ∧ (st.seqNext pc 3).1.inner = some { q with count := q.count - 1 } ∧
          (st.seqNext pc 3).1.outer = none) ∧
        (pc = q.stop → q.count ≤ 1 → (st.seqNext pc 3).2 = pc + 1 ∧ (st.seqNext pc 3).1.inner = none) ∧
        (pc ≠ q.stop → (st.seqNext pc 3).2 = pc + 1 ∧ (st.seqNext pc 3).1.inner = some q)) ∧
      (pc = p.stop → p.count ≤ 1 → st.outer = none → (st.seqNext pc 3).2 = pc + 1 ∧ (st.seqNext pc 3).1.inner = none)

/-- R125, R126, R128, R137: a counter wait issues only with its counter at or below its operand, and changes no counter; mb.wait issues only
with as many messages; sys.end ends the strand, which drops its loops and return stack; a sys.brk that issues (a debugger steps over it) does
nothing. What LDCNT counts of the local accesses is log entry 22, and that an ended strand keeps its program counter is log entry 25. -/
def Obligations.WaitsAndEnd : Prop :=
  ∀ (s : State) (l : Nat) (k : StrandId) (m : Mv),
    (s.fires l k m (.sys .waitLd) → ((s.tile l).strand k).loads s.cycle ≤ (s.movedW l k m).toNat ∧
      ∃ t, exec (.sysWaitLd m) s = .next t ∧ (t.tile l).engine = (s.tile l).engine) ∧
    (s.fires l k m (.sys .waitSt) → ((s.tile l).strand k).stcnt ≤ (s.movedW l k m).toNat ∧
      ∃ t, exec (.sysWaitSt m) s = .next t ∧ (t.tile l).engine = (s.tile l).engine) ∧
    (s.fires l k m (.sys .waitCp) → ((s.tile l).strand k).cpcnt ≤ (s.movedW l k m).toNat ∧
      ∃ t, exec (.sysWaitCp m) s = .next t ∧ (t.tile l).engine = (s.tile l).engine) ∧
    (s.fires l k m (.mb .wait) → (s.movedW l k m).toNat ≤ (((s.tile l).strand k).mail s.cycle).length ∧
      ∃ t, exec (.mbWait m) s = .next t ∧ (t.tile l).engine = (s.tile l).engine) ∧
    (s.fires l k m (.sys .brk) → ∃ t, exec (.sysBrk m) s = .next t ∧ (t.tile l).engine = (s.tile l).engine) ∧
    (s.fires l k m (.sys .ending) → ∃ t, exec (.sysEnd m) s = .next t ∧ (t.tile l).engine = (s.tile l).engine ∧
      ((t.tile l).strand k).run = .ended ∧ ((t.tile l).strand k).pc = ((s.tile l).strand k).pc ∧
      ((t.tile l).strand k).inner = none ∧ ((t.tile l).strand k).outer = none ∧ ((t.tile l).strand k).rstack = [])

/-- R123, R124: sys.csrr delivers the register that its operand names, two cycles later, by the table of R123; a sys.csrw to SSTAT clears the bits
that are 1 in sys.v and leaves the others, one to LODC writes its 32 bits, and one to SMODE writes the bits that the strand owns. What LDCNT
counts is log entry 22. -/
def Obligations.ControlRegisters : Prop :=
  ∀ (s : State) (l : Nat) (k : StrandId) (m : Mv),
    (s.fires l k m (.sys .csrr) → ∃ v, s.csr l k (s.movedW l k m).toNat = some v ∧ ∃ t, exec (.sysCsrr m) s = .next t ∧
      (t.tile l).engine = ((s.tile l).modStrand k (fun st => st.flyAt (s.cycle + 2) .sysRes (res64 v))).engine) ∧
    (s.fires l k m (.sys .csrr) →
      let st := (s.tile l).strand k
      let left := fun (x : Option Loop) => match x with | some p => word p.count | none => 0
      let ofTask := fun (f : Task → Nat) (d : Nat) => match s.taskOn l with | some q => word (f q) | none => word d
      ∀ p ∈ [(0x00, st.smode.setWidth 64), (0x01, st.sstat.setWidth 64), (0x02, st.cyc), (0x03, st.issued), (0x04, st.stall),
          (0x05, st.lodc.setWidth 64), (0x06, st.lodcy), (0x07, word (st.cpcnt * 2 ^ 16 + st.stcnt * 2 ^ 8 + st.loads s.cycle)),
          (0x08, left st.inner), (0x09, left st.outer), (0x0A, word st.mdc), (0x0B, word st.rstack.length), (0x10, word l),
          (0x11, ofTask (fun q => if q.gang then q.gidx else 0) 0),
          (0x12, ofTask (fun q => if q.gang then q.gw * 2 ^ 22 + q.gh * 2 ^ 16 + q.origin else 2 ^ 22 + 2 ^ 16 + l) (2 ^ 22 + 2 ^ 16 + l)),
          (0x13, ofTask (fun q => (q.taskid + q.gidx) % 2 ^ 32) 0), (0x14, match s.taskOn l with | some q => q.ts | none => 0),
          (0x15, word (s.ctxOf l % 2 ^ 16)), (0x20, st.bpa[0]), (0x21, st.bpa[1]), (0x22, st.bpa[2]), (0x23, st.bpa[3]), (0x24, st.dbgctl)],
        (s.movedW l k m).toNat = p.1 → ∃ t, exec (.sysCsrr m) s = .next t ∧
          (t.tile l).engine = ((s.tile l).modStrand k (fun st => st.flyAt (s.cycle + 2) .sysRes (res64 p.2))).engine) ∧
    (s.fires l k m (.sys .csrw) → ∃ t, exec (.sysCsrw m) s = .next t ∧
      ((s.movedW l k m).toNat = 0 → ((t.tile l).strand k).smode =
        BitVec.ofNat 32 ((s.port64 l k 0x001).toNat % 2 ^ 32 &&& (if k = .compute then 0x3E7 else 7))) ∧
      ((s.movedW l k m).toNat = 1 → ((s.tile l).strand k).lodWait = false →
        ((t.tile l).strand k).sstat = ((s.tile l).strand k).sstat &&& ~~~((s.port64 l k 0x001).setWidth 2)) ∧
      ((s.movedW l k m).toNat = 5 → ((t.tile l).strand k).lodc = (s.port64 l k 0x001).setWidth 32) ∧
      ((t.tile l).strand k).x = ((s.tile l).strand k).x ∧ (t.tile l).spm = (s.tile l).spm ∧ (t.tile l).sems = (s.tile l).sems)

/-- R127, R128, R140, R142: a lone sys.trap issues; the strand then stops with the fault TRAP, of the kind after, whose detail is bits [15:0] of
the operand, at the bundle that follows. A bundle that performs sys.brk does not issue: with DBGCTL.ATT = 1 and BRKM = 0 the strand enters debug
halt before it, and with ATT = 0 and BRKM = 0 it raises BREAK; with BRKM = 1, a debugger's single step, it issues and does nothing. That another
fault of the bundle comes before the halt is log entry 29. -/
def Obligations.TrapAndBreak : Prop :=
  (∀ (s : State) (l : Nat) (k : StrandId) (m : Mv), s.fires l k m (.sys .trap) → ∃ t, exec (.sysTrap m) s = .next t ∧
    ((t.tile l).strand k).run = .halted ∧
    ((t.tile l).strand k).fault = some ⟨.trap, .after, ((s.tile l).strand k).pc, word ((s.movedW l k m).toNat % 2 ^ 16), none, false⟩ ∧
    ((t.tile l).strand k).pc = (((s.tile l).strand k).seqNext ((s.tile l).strand k).pc 3).2 ∧
    ((t.tile l).strand k).x = ((s.tile l).strand k).x ∧ ((t.tile l).strand k).issued = ((s.tile l).strand k).issued + 1 ∧
    (t.tile l).spm = (s.tile l).spm ∧ s.around t l k) ∧
  (∀ (s : State) (l : Nat) (k : StrandId) (m : Mv), s.turn = .strand l k → s.mayIssue l k = true → ((s.tile l).strand k).atBreakpoint = false →
    let st := (s.tile l).strand k
    let b := moveBundle m (Trig.sys .brk).d
    staticCheck k (s.tile l) b = none → s.bundleReady l k b = true → s.guardHolds l k m →
    (∀ c, m.s = .go c → launchCheck l c 0 s = none ∧ launchAccept l c s = true) →
    (bit st.dbgctl 0 = true → bit st.dbgctl 4 = false → st.overruns (s.tile l) st.pc none = false → ∃ t, exec (.sysBrk m) s = .next t ∧
      ((t.tile l).strand k).run = .debugHalt ∧ ((t.tile l).strand k).pc = st.pc ∧ ((t.tile l).strand k).x = st.x ∧
      ((t.tile l).strand k).issued = st.issued ∧ (t.tile l).spm = (s.tile l).spm) ∧
    (bit st.dbgctl 0 = false → bit st.dbgctl 4 = false → ∃ t, exec (.sysBrk m) s = .next t ∧ ((t.tile l).strand k).run = .halted ∧
      ((t.tile l).strand k).fault = some ⟨.brk, .precise, st.pc, 0, none, false⟩ ∧ ((t.tile l).strand k).pc = st.pc ∧
      ((t.tile l).strand k).x = st.x ∧ ((t.tile l).strand k).issued = st.issued ∧ (t.tile l).spm = (s.tile l).spm) ∧
    (bit st.dbgctl 4 = true → st.overruns (s.tile l) st.pc none = false → ∃ t, exec (.sysBrk m) s = .next t ∧
      (t.tile l).engine = (s.tile l).engine ∧ ((t.tile l).strand k).run = st.run ∧ ((t.tile l).strand k).issued = st.issued + 1 ∧
      ((t.tile l).strand k).pc = (st.seqNext st.pc 3).2 ∧ s.around t l k)) ∧
  ∀ (s : State) (l : Nat) (k : StrandId) (m : Mv), s.turn = .strand l k → s.mayIssue l k = true → ((s.tile l).strand k).atBreakpoint = false →
    (s.decideBundle l k (moveBundle m (Trig.sys .brk).d) = .debugHalt → ∃ t, exec (.sysBrk m) s = .next t ∧
      ((t.tile l).strand k).run = .debugHalt ∧ ((t.tile l).strand k).pc = ((s.tile l).strand k).pc ∧
      ((t.tile l).strand k).x = ((s.tile l).strand k).x ∧ ((t.tile l).strand k).issued = ((s.tile l).strand k).issued) ∧
    ∀ d, s.decideBundle l k (moveBundle m (Trig.sys .brk).d) = .fault .brk d → ∃ t, exec (.sysBrk m) s = .next t ∧
      ((t.tile l).strand k).run = .halted ∧ ((t.tile l).strand k).fault = some ⟨.brk, .precise, ((s.tile l).strand k).pc, word d, none, false⟩

/-! ### sem and mb -/

/-- R133, R134, R84: sem.post and sem.add put a post of 1 or of sem.k behind the strand's earlier stores; sem.rd delivers the count one cycle
later; sem.wait needs a count of 1, sem.take takes 1 and sem.takek takes sem.k at the end of the cycle, each an acquire. mb.cnt (R136, R137)
delivers the number of messages that the bundle sees, and mb.pop the oldest of them, which it takes away; the pop is an acquire. -/
def Obligations.SemaphoresAndMailbox : Prop :=
  ∀ (s : State) (l : Nat) (k : StrandId) (m : Mv),
    (s.fires l k m (.sem .post) → ∃ t, exec (.semPost m) s = .next t ∧ (t.tile l).engine =
      ((s.tile l).modStrand k (fun st => { st with posts := st.posts ++ [⟨.sem (s.movedW l k m).toNat 1, st.nextId⟩] })).engine) ∧
    (s.fires l k m (.sem .add) → ∃ t, exec (.semAdd m) s = .next t ∧ (t.tile l).engine = ((s.tile l).modStrand k (fun st =>
      { st with posts := st.posts ++ [⟨.sem (s.movedW l k m).toNat (s.port64 l k 0x040).toNat, st.nextId⟩] })).engine) ∧
    (s.fires l k m (.sem .rd) → ∃ t, exec (.semRd m) s = .next t ∧ (t.tile l).engine =
      ((s.tile l).modStrand k (fun st => st.flyAt (s.cycle + 1) .semRes (res64 (word ((s.tile l).sem (s.movedW l k m).toNat))))).engine) ∧
    (s.fires l k m (.sem .wait) → 1 ≤ (s.tile l).sem (s.movedW l k m).toNat ∧
      ∃ t, exec (.semWait m) s = .next t ∧ (t.tile l).engine = ((s.forced l k).tile l).engine) ∧
    (s.fires l k m (.sem .take) → 1 ≤ (s.tile l).semAvail (s.movedW l k m).toNat ∧
      ∃ t, exec (.semTake m) s = .next t ∧ (t.tile l).engine = (((s.forced l k).tile l).takeSem k (s.movedW l k m).toNat 1).engine) ∧
    (s.fires l k m (.sem .takek) → (s.port64 l k 0x040).toNat ≤ (s.tile l).semAvail (s.movedW l k m).toNat ∧
      ∃ t, exec (.semTakek m) s = .next t ∧ (t.tile l).engine =
        (((s.forced l k).tile l).takeSem k (s.movedW l k m).toNat ((s.forced l k).port64 l k 0x040).toNat).engine) ∧
    (s.fires l k m (.mb .cnt) → ∃ t, exec (.mbCnt m) s = .next t ∧ (t.tile l).engine =
      ((s.tile l).modStrand k (fun st => st.flyAt (s.cycle + 1) .mbRes (res64 (word (st.mail s.cycle).length)))).engine) ∧
    (s.fires l k m (.mb .pop) → ∃ t, exec (.mbPop m) s = .next t ∧ (t.tile l).engine =
      (((s.forced l k).tile l).modStrand k (fun st =>
        { st.flyAt (s.cycle + 1) .mbRes (res64 ((st.mail s.cycle).headD 0)) with mailbox := st.mailbox.drop 1, mailPop := s.cycle + 1 })).engine)

/-! ### ix -/

/-- R154, R155, R157, R158: an integer trigger of unit ix0 or ix1 delivers the value of its rule to its res port after 1 cycle, a product after
3 and a division after 20, with the hi word that comes with it and the guard that a compare writes; it changes nothing else. -/
def Obligations.IntegerResults : Prop :=
  ∀ (s : State) (l : Nat) (k : StrandId) (m : Mv) (u : IxUnit) (o : IxOp), s.fires l k m (.ix u o) →
    ∃ t, exec (Instr.ofTrig (.ix u o) m) s = .next t ∧
      (t.tile l).engine = ((s.tile l).modStrand k (fun st =>
        let b := match u with | .ix0 => 0x100 | .ix1 => 0x180
        let r := ixOut o (st.opw b) (st.opw (b + 1)) (s.movedW l k m)
        let lat := match o with | .mul | .mulu | .mac => 3 | .div | .divu => 20 | _ => 1
        let isCompare := match o with | .ceq | .cne | .clt | .cle | .cltu | .cleu | .ctst => true | _ => false
        let g := (st.opw (b + 2)).toNat
        st.flyAt (s.cycle + lat) (match u with | .ix0 => .ix0Res | .ix1 => .ix1Res)
          ⟨r.res.setWidth 1024, r.hi, if h : isCompare = true ∧ 1 ≤ g ∧ g ≤ 3 then some (⟨g - 1, by omega⟩, r.res != 0) else none⟩)).engine

/-- R155: the values of the integer triggers but div and divu, over the integers that their operands denote; mul and mulu deliver the two
halves of the exact product, and the high half of the signed product is read signed. -/
def Obligations.IntegerValues : Prop :=
  ∀ a c t : Word,
    (ixOut .add a c t).res.toNat = (a.toNat + t.toNat) % 2 ^ 64 ∧
    (ixOut .sub a c t).res.toNat = (a.toNat + (2 ^ 64 - t.toNat)) % 2 ^ 64 ∧
    (∀ i < 64, (ixOut .and a c t).res.getLsbD i = (a.getLsbD i && t.getLsbD i)) ∧
    (∀ i < 64, (ixOut .or a c t).res.getLsbD i = (a.getLsbD i || t.getLsbD i)) ∧
    (∀ i < 64, (ixOut .xor a c t).res.getLsbD i = (a.getLsbD i != t.getLsbD i)) ∧
    (∀ i < 64, (ixOut .andn a c t).res.getLsbD i = (a.getLsbD i && !t.getLsbD i)) ∧
    (ixOut .mov a c t).res = t ∧
    (ixOut .shl a c t).res.toNat = a.toNat * 2 ^ (t.toNat % 64) % 2 ^ 64 ∧
    (ixOut .shr a c t).res.toNat = a.toNat / 2 ^ (t.toNat % 64) ∧
    (ixOut .sra a c t).res.toInt = a.toInt / 2 ^ (t.toNat % 64) ∧
    (ixOut .min a c t).res.toInt = min a.toInt t.toInt ∧ (ixOut .max a c t).res.toInt = max a.toInt t.toInt ∧
    (ixOut .minu a c t).res.toNat = min a.toNat t.toNat ∧ (ixOut .maxu a c t).res.toNat = max a.toNat t.toNat ∧
    (∀ i < 64, (ixOut .sxt a c t).res.getLsbD i = a.getLsbD (min i (t.toNat % 64))) ∧
    (∀ i < 64, (ixOut .zxt a c t).res.getLsbD i = (decide (i ≤ t.toNat % 64) && a.getLsbD i)) ∧
    (ixOut .clz a c t).res.toNat ≤ 64 ∧ (∀ n ≤ 64, n ≤ (ixOut .clz a c t).res.toNat ↔ ∀ i < n, t.getLsbD (63 - i) = false) ∧
    (ixOut .popc a c t).res.toNat = ((List.range 64).filter (fun i => t.getLsbD i)).length ∧
    (ixOut .sel a c t).res = (if t = 0 then c else a) ∧
    ((ixOut .ceq a c t).res = if a = t then 1 else 0) ∧ ((ixOut .cne a c t).res = if a = t then 0 else 1) ∧
    ((ixOut .clt a c t).res = if a.toInt < t.toInt then 1 else 0) ∧ ((ixOut .cle a c t).res = if a.toInt ≤ t.toInt then 1 else 0) ∧
    ((ixOut .cltu a c t).res = if a.toNat < t.toNat then 1 else 0) ∧ ((ixOut .cleu a c t).res = if a.toNat ≤ t.toNat then 1 else 0) ∧
    ((ixOut .ctst a c t).res = if a &&& t = 0 then 0 else 1) ∧
    (ixOut .mac a c t).res.toNat = (a.toNat + c.toNat * t.toNat) % 2 ^ 64 ∧
    ∃ h g : Word, (ixOut .mul a c t).hi = some h ∧ h.toInt * 2 ^ 64 + (ixOut .mul a c t).res.toNat = a.toInt * t.toInt ∧
    (ixOut .mulu a c t).hi = some g ∧ g.toNat * 2 ^ 64 + (ixOut .mulu a c t).res.toNat = a.toNat * t.toNat

/-- R155, R156: division by zero delivers res = 0 and hi = a, for div and divu; −2^63 divided by −1 delivers −2^63 and 0; no division faults at
issue. Of the others (R155), div delivers the exact signed quotient, truncated towards zero, and the remainder with the sign of a; divu the
unsigned ones. -/
def Obligations.IntegerDivision : Prop :=
  ∀ a c t : Word,
    (t = 0 → ixOut .div a c t = ⟨0, some a⟩ ∧ ixOut .divu a c t = ⟨0, some a⟩) ∧
    (a = BitVec.ofNat 64 (2 ^ 63) → t = BitVec.ofInt 64 (-1) → ixOut .div a c t = ⟨BitVec.ofNat 64 (2 ^ 63), some 0⟩) ∧
    (t ≠ 0 → ∃ h g : Word, (ixOut .divu a c t).hi = some g ∧ (ixOut .divu a c t).res.toNat * t.toNat + g.toNat = a.toNat ∧
      g.toNat < t.toNat ∧ (ixOut .div a c t).hi = some h ∧
      (¬(a = BitVec.ofNat 64 (2 ^ 63) ∧ t = BitVec.ofInt 64 (-1)) →
        (ixOut .div a c t).res.toInt = a.toInt.tdiv t.toInt ∧ h.toInt = a.toInt.tmod t.toInt ∧
        (ixOut .div a c t).res.toInt * t.toInt + h.toInt = a.toInt ∧ h.toInt.natAbs < t.toInt.natAbs)) ∧
    ∀ (u : IxUnit) (s : State) (l : Nat) (k : StrandId) (m : Mv),
      trigCheck (.ix u .div) (s.iss l k m) s = none ∧ trigCheck (.ix u .divu) (s.iss l k m) s = none

/-! ### ls and st -/

/-- R162, R163, R166, R77, R79: a load whose selector names a window of the tile reads its bytes in its issue cycle, after what must precede
it, with the strand's own buffered stores over them, and delivers them, sign-extended where the trigger says so, four cycles later to its
port or to the register that ls.map names; it counts in LDCNT until then (log entry 22). That a load that is unaligned or of 128 bytes reads
all its bytes in one step is log entry 24. -/
def Obligations.LocalLoads : Prop :=
  ∀ (s : State) (l : Nat) (k : StrandId) (m : Mv) (o : LsOp) (n : Nat) (sg : Bool), lsKind o = .load n sg → s.fires l k m (.ls o) →
    selSpace (s.port64 l k 0x200) = 0 →
    let u := s.prepared l k []
    let bs := u.seenBytes l k ((s.tile l).strand k).nextId (selIdx (s.port64 l k 0x200)) (s.movedW l k m).toNat n
    ∃ t, exec (Instr.ofTrig (.ls o) m) s = .next t ∧ (t.tile l).engine = ((u.tile l).modStrand k (fun st =>
      (st.deliverLocal (s.cycle + 4) (if n = 128 then .lsVres else .lsRes) (if n = 128 then none else mapTarget (s.port64 l k 0x205))
        (if n = 128 then bytesVec bs else if sg then (BitVec.ofInt 64 (signed (8 * n) (leNat bs))).setWidth 1024
          else BitVec.ofNat 1024 (leNat bs))).addLocal s.cycle (s.cycle + 4))).engine ∧ u.around t l k

/-- R77, R79, R162: a store enters the strand's store buffer behind the others with the low bytes of ls.d, or the 128 bytes of ls.vd, at the
location that Locate gives; STCNT rises; no byte of SPM changes yet. -/
def Obligations.Stores : Prop :=
  ∀ (s : State) (l : Nat) (k : StrandId) (m : Mv) (o : LsOp) (n : Nat), lsKind o = .store n → s.fires l k m (.ls o) →
    let sel := s.port64 l k 0x200
    ∃ t, exec (Instr.ofTrig (.ls o) m) s = .next t ∧
      ((t.tile l).strand k).sb = ((s.tile l).strand k).sb ++
        [{ id := ((s.tile l).strand k).nextId, pc := ((s.tile l).strand k).pc, loc := selLoc (s.tile l) l sel (s.movedW l k m).toNat, n := n,
           data := if n = 128 then ((s.tile l).strand k).opnd 0x203 else (s.port64 l k 0x201).setWidth 1024,
           handle := if selSpace sel = 2 then some (selIdx sel) else none, rel := false, peer := selSpace sel == 1, due := s.nextDue }] ∧
      ((s.tile l).strand k).sb.length < 32 ∧ ((t.tile l).strand k).stcnt = ((s.tile l).strand k).stcnt + 1 ∧
      ((t.tile l).strand k).ldcnt = ((s.tile l).strand k).ldcnt ∧ (t.tile l).spm = (s.tile l).spm ∧ (t.tile l).vu = (s.tile l).vu ∧
      (t.tile l).queues = (s.tile l).queues ∧ (t.tile l).sems = (s.tile l).sems ∧ (t.tile l).rings = (s.tile l).rings ∧ s.around t l k

/-- R78, R163, R164, R166: an atomic on a window of the tile needs an empty store buffer and an offset that is a multiple of 8; in its issue
cycle it takes the 8 bytes v, writes the value of the table in their place, and delivers v six cycles later. Every other byte of SPM is
unchanged. An atomic whose offset is
not a multiple of 8, and an aacc whose offset is not a multiple of its width, raise OPERAND_RANGE at issue. That the atomic counts in LDCNT
until its value lands is log entry 22. -/
def Obligations.LocalAtomics : Prop :=
  (∀ (s : State) (l : Nat) (k : StrandId) (m : Mv) (o : LsOp) (a : AtomicOp), lsKind o = .atomic a → s.fires l k m (.ls o) →
    selSpace (s.port64 l k 0x200) = 0 →
    let w := selIdx (s.port64 l k 0x200)
    let off := (s.movedW l k m).toNat
    let u := s.prepared l k (s.byteIds (.window l w off) 8)
    let v := word (leNat ((u.tile l).readSpm (u.spmAddrs l w off 8)))
    let d := s.port64 l k 0x201
    let new : Word := match a with
      | .add => v + d
      | .swap => d
      | .cas => if v = s.port64 l k 0x202 then d else v
      | .min => if d.toInt < v.toInt then d else v
      | .max => if v.toInt < d.toInt then d else v
      | .minu => if d.toNat < v.toNat then d else v
      | .maxu => if v.toNat < d.toNat then d else v
      | .and => v &&& d
      | .or => v ||| d
      | .xor => v ^^^ d
    ((s.tile l).strand k).sb = [] ∧ off % 8 = 0 ∧
    ∃ t, exec (Instr.ofTrig (.ls o) m) s = .next t ∧
      (t.tile l).engine = (((u.tile l).writeSpm ((u.spmAddrs l w off 8).zip (leBytes 8 new.toNat))).modStrand k (fun st =>
        (st.deliverLocal (s.cycle + 6) .lsRes (mapTarget (s.port64 l k 0x205)) (v.setWidth 1024)).addLocal s.cycle (s.cycle + 6))).engine ∧
      u.around t l k ∧ ∀ x, some x ∉ u.spmAddrs l w off 8 → readByte (t.tile l).spm x = readByte (u.tile l).spm x) ∧
  ∀ (s : State) (i : Iss) (o : LsOp),
    selSpace (((s.tile i.l).strand i.k).opw 0x200) = 0 →
    (∀ a, lsKind o = .atomic a → i.t.toNat % 8 ≠ 0 → lsCheck o i s = some (.operandRange, i.slot)) ∧
    (lsKind o = .accumulate → ∀ ty, (s.tile i.l).aaccType (((s.tile i.l).strand i.k).opw 0x200) = some ty → i.t.toNat % ty.width ≠ 0 →
      lsCheck o i s = some (.operandRange, i.slot))

/-- R165, R78: an aacc on a window of the tile adds ls.d to the element at its offset in its issue cycle, by the type that sel.T names, and
delivers nothing; every other byte of SPM is unchanged. -/
def Obligations.LocalAccumulate : Prop :=
  ∀ (s : State) (l : Nat) (k : StrandId) (m : Mv) (ty : AccType), s.fires l k m (.ls .aacc) → selSpace (s.port64 l k 0x200) = 0 →
    accTypeOf (selT (s.port64 l k 0x200)) = some ty →
    let w := selIdx (s.port64 l k 0x200)
    let off := (s.movedW l k m).toNat
    let u := s.prepared l k (s.byteIds (.window l w off) ty.width)
    let v := leNat ((u.tile l).readSpm (u.spmAddrs l w off ty.width))
    let d := (s.port64 l k 0x201).toNat
    ∃ t, exec (.lsAacc m) s = .next t ∧
      (t.tile l).engine = ((u.tile l).writeSpm ((u.spmAddrs l w off ty.width).zip (leBytes ty.width (match ty with
        | .i32 => (v + d) % 2 ^ 32
        | .i64 => (v + d) % 2 ^ 64
        | .f32 => (fAdd .fp32 .rne 0 (v % 2 ^ 32) (d % 2 ^ 32)).1
        | .f64 => (fAdd .fp64 .rne 0 (v % 2 ^ 64) (d % 2 ^ 64)).1)))).engine ∧
      u.around t l k ∧ ∀ x, some x ∉ u.spmAddrs l w off ty.width → readByte (t.tile l).spm x = readByte (u.tile l).spm x

/-- R169, R170, R172: rcfg notes the descriptor in ls.rdesc for its ring, which has it, with every slot free, from the next cycle
(`ringCommitApply`); racq and rget need a free or a filled slot beyond
those taken in the cycle, are acquires, and deliver the offset of the slot one cycle later; rpub and rrel wait behind the strand's earlier
stores; rst delivers the status word, which is zero for a ring without a descriptor. -/
def Obligations.Rings : Prop :=
  ∀ (s : State) (l : Nat) (k : StrandId) (m : Mv),
    let n := (s.movedW l k m).toNat
    (s.fires l k m (.ls .rcfg) → ∃ t, exec (.lsRcfg m) s = .next t ∧ (t.tile l).engine =
      { s.tile l with ringCfg := (s.tile l).ringCfg ++ [(n, s.port64 l k 0x204)] }.engine) ∧
    (s.fires l k m (.ls .racq) →
      let u := (s.forced l k).tile l
      let taken := (u.ringAcq.filter (fun a => a.1 == n && a.2 == true)).length
      1 ≤ ((s.tile l).ring n).free ∧ taken < (u.ring n).free ∧ (u.ring n).free = ((s.tile l).ring n).free ∧ ∃ t, exec (.lsRacq m) s = .next t ∧
        (t.tile l).engine = (Tile.modStrand { u with ringAcq := u.ringAcq ++ [(n, true)] } k (fun st =>
          st.flyAt (s.cycle + 1) .lsRes (res64 (word (ringOff (u.ring n).desc +
            ((u.ring n).tail + taken) % ringSlots (u.ring n).desc * ringSize (u.ring n).desc))))).engine) ∧
    (s.fires l k m (.ls .rget) →
      let u := (s.forced l k).tile l
      let taken := (u.ringAcq.filter (fun a => a.1 == n && a.2 == false)).length
      1 ≤ ((s.tile l).ring n).fill ∧ taken < (u.ring n).fill ∧ (u.ring n).fill = ((s.tile l).ring n).fill ∧ ∃ t, exec (.lsRget m) s = .next t ∧
        (t.tile l).engine = (Tile.modStrand { u with ringAcq := u.ringAcq ++ [(n, false)] } k (fun st =>
          st.flyAt (s.cycle + 1) .lsRes (res64 (word (ringOff (u.ring n).desc +
            ((u.ring n).head + taken) % ringSlots (u.ring n).desc * ringSize (u.ring n).desc))))).engine) ∧
    (s.fires l k m (.ls .rpub) → ∃ t, exec (.lsRpub m) s = .next t ∧ (t.tile l).engine =
      ((s.tile l).modStrand k (fun st => { st with posts := st.posts ++ [⟨.rpub n, st.nextId⟩] })).engine) ∧
    (s.fires l k m (.ls .rrel) → ∃ t, exec (.lsRrel m) s = .next t ∧ (t.tile l).engine =
      ((s.tile l).modStrand k (fun st => { st with posts := st.posts ++ [⟨.rrel n, st.nextId⟩] })).engine) ∧
    (s.fires l k m (.ls .rst) → ∃ t, exec (.lsRst m) s = .next t ∧ (t.tile l).engine =
      ((s.tile l).modStrand k (fun st => st.flyAt (s.cycle + 1) .lsRes (res64 (if ((s.tile l).ring n).cfg then
        word (2 ^ 63 + ((s.tile l).ring n).fill * 2 ^ 48 + ((s.tile l).ring n).free * 2 ^ 32 + ((s.tile l).ring n).head * 2 ^ 16 +
          ((s.tile l).ring n).tail) else 0)))).engine)

/-- R200, R201: a gather of w-bit lanes from a window of the tile delivers, eight cycles later, in every lane that ls.e leaves enabled the w
bits at ls.d plus w / 8 times its index, and zero in the others. That all lanes are read in one state, in the issue cycle, is log entry 24, and
that the gather counts in LDCNT until its value lands is log entry 22. -/
def Obligations.LocalGather : Prop :=
  ∀ (s : State) (l : Nat) (k : StrandId) (m : Mv) (o : LsOp) (w : Nat), lsKind o = .gather w → s.fires l k m (.ls o) →
    selSpace (s.port64 l k 0x200) = 0 →
    let u := s.prepared l k []
    let at1 := fun j => u.seenBytes l k ((s.tile l).strand k).nextId (selIdx (s.port64 l k 0x200))
      (((s.port64 l k 0x201).toNat + lane w (s.moved l k m) j * (w / 8)) % 2 ^ 64) (w / 8)
    ∃ t, exec (Instr.ofTrig (.ls o) m) s = .next t ∧ (t.tile l).engine = ((u.tile l).modStrand k (fun st =>
      (st.flyAt (s.cycle + 8) .lsVres (resV (ofLanes w ((List.range (1024 / w)).map (fun j =>
        if bit (s.port64 l k 0x202) j then 0 else leNat (at1 j)))))).addLocal s.cycle (s.cycle + 8))).engine ∧ u.around t l k

/-- R201, R202: a scatter to a window of the tile writes the enabled lanes of ls.vd, and a scatter-add adds them to the elements, in ascending
order of lane, in the issue cycle; ls takes no other trigger for the four cycles of the operation, and no byte outside the elements
changes. That all lanes are written in one step, in the issue cycle, is log entry 24. -/
def Obligations.LocalScatter : Prop :=
  ∀ (s : State) (l : Nat) (k : StrandId) (m : Mv) (o : LsOp), s.fires l k m (.ls o) → selSpace (s.port64 l k 0x200) = 0 →
    let i := s.iss l k m
    let win := selIdx (s.port64 l k 0x200)
    let off := fun (w j : Nat) => ((s.port64 l k 0x201).toNat + lane w (s.moved l k m) j * (w / 8)) % 2 ^ 64
    let on := fun (w : Nat) => (List.range (1024 / w)).filter (fun j => !bit (s.port64 l k 0x202) j)
    let data := ((s.tile l).strand k).opnd 0x203
    (∀ w, lsKind o = .scatter w →
      let u := s.prepared l k (laneIds w i s)
      ∃ t, exec (Instr.ofTrig (.ls o) m) s = .next t ∧ ((t.tile l).strand k).lsBusy = s.cycle + 4 ∧
        (t.tile l).spm = ((on w).foldl (fun (x : Tile) j =>
          x.writeSpm ((u.spmAddrs l win (off w j) (w / 8)).zip (leBytes (w / 8) (lane w data j)))) (u.tile l)).spm ∧
        u.around t l k ∧ ∀ x, (∀ j ∈ on w, some x ∉ u.spmAddrs l win (off w j) (w / 8)) → readByte (t.tile l).spm x = readByte (u.tile l).spm x) ∧
    ∀ ty, lsKind o = .scadd ty →
      let w := 8 * ty.width
      let u := s.prepared l k (laneIds w i s)
      ∃ t, exec (Instr.ofTrig (.ls o) m) s = .next t ∧ ((t.tile l).strand k).lsBusy = s.cycle + 4 ∧
        (t.tile l).spm = ((on w).foldl (fun (x : Tile) j =>
          x.writeSpm ((u.spmAddrs l win (off w j) ty.width).zip (leBytes ty.width
            (ty.sum (leNat (x.readSpm (u.spmAddrs l win (off w j) ty.width))) (lane w data j))))) (u.tile l)).spm ∧
        u.around t l k ∧ ∀ x, (∀ j ∈ on w, some x ∉ u.spmAddrs l win (off w j) ty.width) → readByte (t.tile l).spm x = readByte (u.tile l).spm x

/-- R163, R79, R68, R70, R164, R165, R200, R201: an access through a peer window or a handle goes into flight with a free latency, of at least
the 24 or 48 cycles of R163, and does nothing else at its issue: a load, atomic or gather counts in LDCNT and holds its port, or the register that ls.map names; an aacc or
scatter counts in STCNT; a gather or scatter takes the locations of its enabled lanes. -/
def Obligations.FarAccesses : Prop :=
  (∀ (s : State) (l : Nat) (k : StrandId) (m : Mv) (o : LsOp) (n : Nat) (sg : Bool), lsKind o = .load n sg → s.fires l k m (.ls o) →
    selSpace (s.port64 l k 0x200) ≠ 0 →
    let sel := s.port64 l k 0x200
    let r := if n = 128 then none else mapTarget (s.port64 l k 0x205)
    ∃ t, exec (Instr.ofTrig (.ls o) m) s = .next t ∧ (t.tile l).engine = ((s.tile l).modStrand k (fun st =>
      (match r with | some x => st.dropMapped x | none => st).pushAccess
        { id := 0, pc := st.pc, op := .load n sg, loc := selLoc (s.tile l) l sel (s.movedW l k m).toNat,
          path := if selSpace sel = 1 then .peer else .handle, home := false, port := some (if n = 128 then .lsVres else .lsRes), map := r,
          rel := false, acq := false, handle := if selSpace sel = 2 then some (selIdx sel) else none, countsLd := true, countsSt := false,
          performed := false, value := 0, due := s.nextDue, ret := s.cycle + if selSpace sel = 1 then 24 else 48 })).engine) ∧
  (∀ (s : State) (l : Nat) (k : StrandId) (m : Mv), selSpace (s.port64 l k 0x200) ≠ 0 →
    let sel := s.port64 l k 0x200
    let loc := selLoc (s.tile l) l sel (s.movedW l k m).toNat
    (∀ (o : LsOp) (a : AtomicOp), lsKind o = .atomic a → s.fires l k m (.ls o) →
      ∃ t, exec (Instr.ofTrig (.ls o) m) s = .next t ∧ (t.tile l).engine = (((s.noteStore l k (s.byteIds loc 8)).tile l).modStrand k (fun st =>
        (match mapTarget (s.port64 l k 0x205) with | some x => st.dropMapped x | none => st).pushAccess
          { id := 0, pc := st.pc, op := .atomic a (s.port64 l k 0x201) (s.port64 l k 0x202), loc := loc,
            path := if selSpace sel = 1 then .peer else .handle, home := false, port := some .lsRes, map := mapTarget (s.port64 l k 0x205),
            rel := false, acq := false, handle := if selSpace sel = 2 then some (selIdx sel) else none, countsLd := true, countsSt := false,
            performed := false, value := 0, due := s.nextDue, ret := s.cycle + if selSpace sel = 1 then 24 else 48 })).engine) ∧
    (s.fires l k m (.ls .aacc) → ∃ ty, (s.tile l).aaccType sel = some ty ∧
      ∃ t, exec (.lsAacc m) s = .next t ∧ (t.tile l).engine = (((s.noteStore l k (s.byteIds loc ty.width)).tile l).modStrand k (fun st =>
        st.pushAccess
          { id := 0, pc := st.pc, op := .accumulate ty (s.port64 l k 0x201), loc := loc,
            path := if selSpace sel = 1 then .peer else .handle, home := false, port := none, map := none, rel := false, acq := false,
            handle := if selSpace sel = 2 then some (selIdx sel) else none, countsLd := false, countsSt := true, performed := false,
            value := 0, due := s.nextDue, ret := s.cycle + if selSpace sel = 1 then 24 else 48 })).engine)) ∧
  ∀ (s : State) (l : Nat) (k : StrandId) (m : Mv) (o : LsOp) (w : Nat), s.fires l k m (.ls o) → selSpace (s.port64 l k 0x200) ≠ 0 →
    let i := s.iss l k m
    let sel := s.port64 l k 0x200
    (lsKind o = .gather w → ∃ t, exec (Instr.ofTrig (.ls o) m) s = .next t ∧ (t.tile l).engine = ((s.tile l).modStrand k (fun st =>
      st.pushAccess
        { id := 0, pc := st.pc, op := .gather w (laneLocs w i s), loc := ((laneLocs w i s).headD (0, .window l 0 0)).2,
          path := if selSpace sel = 1 then .peer else .handle, home := false, port := some .lsVres, map := none, rel := false, acq := false,
          handle := if selSpace sel = 2 then some (selIdx sel) else none, countsLd := true, countsSt := false, performed := false,
          value := 0, due := s.nextDue, ret := s.cycle + if selSpace sel = 1 then 24 else 48 })).engine) ∧
    (lsKind o = .scatter w → ∃ t, exec (Instr.ofTrig (.ls o) m) s = .next t ∧
      (t.tile l).engine = (((s.noteStore l k (laneIds w i s)).tile l).modStrand k (fun st =>
      st.pushAccess
        { id := 0, pc := st.pc, op := .scatter w (laneLocs w i s) (((s.tile l).strand k).opnd 0x203),
          loc := ((laneLocs w i s).headD (0, .window l 0 0)).2, path := if selSpace sel = 1 then .peer else .handle, home := false,
          port := none, map := none, rel := false, acq := false, handle := if selSpace sel = 2 then some (selIdx sel) else none,
          countsLd := false, countsSt := true, performed := false, value := 0, due := s.nextDue, ret := s.cycle + if selSpace sel = 1 then 24 else 48 })).engine)

/-- R174, R176, R179: st.open makes the generator open with the parameters of its operand ports and no element fetched; st.close makes it idle.
Neither changes anything else of the tile's engines.
R175, R176, R177, R178: a ready stream of a window fetches its next element, with ORD through the store buffer of its strand, and shows it four
cycles later; an element that stores covered is read again and shown four cycles later; a handle stream's element shows when its fetch returns. -/
def Obligations.Streams : Prop :=
  (∀ (s : State) (l : Nat) (k : StrandId) (g : Fin 4) (m : Mv),
     (s.fires l k m (.st g .opening) →
       let b := 0x280 + 0x20 * g.val
       ∃ t, exec (.stOpen g m) s = .next t ∧ (t.tile l).engine = ((s.tile l).setStream g
         { opened := true, pc := ((s.tile l).strand k).pc, sel := s.port64 l k b, base := s.port64 l k (b + 1), d0 := s.port64 l k (b + 2),
           d1 := s.port64 l k (b + 3), d2 := s.port64 l k (b + 4), cfg := s.port64 l k (b + 5), since := s.cycle,
           after := ((s.tile l).strand k).nextId, next := 0, elems := [], refetch := [], lastPop := 0 }).engine) ∧
     (s.fires l k m (.st g .closing) → ∃ t, exec (.stClose g m) s = .next t ∧
       (t.tile l).engine = { s.tile l with streams := (s.tile l).streams.set g.val Stream.idle }.engine)) ∧
  ∀ (s : State) (n : Fin 4), s.args.n = n.val →
    let l := s.args.l
    let x := (s.tile l).streams[n]
    let o := stOwner n
    let bytes := fun (j : Nat) => (s.tile l).readSpm (s.spmAddrs l (selIdx x.sel) (x.offset j) (stEsz x.cfg))
    let value := fun (j : Nat) => x.entry (if stOrd x.cfg then
      s.forward ((s.tile l).strand o) ((s.tile l).strand o).nextId (s.byteIds (.window l (selIdx x.sel) (x.offset j)) (stEsz x.cfg)) (bytes j) else bytes j)
    (selSpace x.sel = 0 → s.streamReady l n = true →
      s.fetchHeld l (s.spmAddrs l (selIdx x.sel) (x.offset x.next) (stEsz x.cfg)) = false →
      ∃ t, exec .streamFetch s = .next t ∧
        (t.tile l).streams[n] = { x with next := x.next + 1, elems := x.elems ++ [⟨x.next, value x.next, s.cycle + 4, s.cycle, true⟩] } ∧
        (t.tile l).spm = (s.tile l).spm ∧ (t.tile l).strand o = (s.tile l).strand o ∧ t.mem = s.mem) ∧
    (s.streamReady l n = false → exec .streamFetch s = .next s) ∧
    (∀ j, selSpace x.sel = 0 → x.refetch = [j] → ∃ t, exec .streamRefetch s = .next t ∧
      (t.tile l).streams[n] =
        { x with
          refetch := [],
          elems := x.elems.map (fun e => if e.j = j then { e with value := value j, ready := s.cycle + 4, fetched := s.cycle } else e) }) ∧
    ∀ e v, x.elems.find? (fun e => !e.returned) = some e → e.ready ≤ s.cycle → (s.readElement l n x e.j).2 = .ok v →
      ∃ t, exec .handleStreamFetchReturn s = .next t ∧ (t.tile l).streams[n] =
        { x with elems := x.elems.map (fun y => if y.j = e.j then { y with value := v, returned := true, ready := s.cycle } else y) }

/-! ### The vector side -/

/-- R186, R189 to R199: the values of the vector triggers. A disabled lane of a lane-wise trigger takes that of vx.c. Of an enabled one, on lanes of
a floating-point type, each arithmetic trigger rounds the exact result once (R109, R113, R114), min and max order −0 below +0, and a NaN gives the
canonical NaN; on lanes of an integer type the exact result is reduced modulo 2^w or, with SAT, clamped. The bit triggers, the compares, the
permutes, the generator (R197), bin, hist and rank act as their tables say, and the reductions on the enabled lanes. At the end, values of
decoding and of RoundTo worked out by hand. Of the flags (R188): an arithmetic trigger on integer lanes sets SAT where SAT = 1 and the exact result
of an enabled lane lies beyond the range, and no other flag; the lanes of a floating-point add, sub, mul, fma or fnma set those of their operations
and roundings; a div sets DZ where an enabled lane divides a finite number that is not zero by zero, and NV for 0 / 0 and ∞ / ∞, and a sqrt NV for a
negative number; and the triggers without arithmetic set none. A NaN that is the only enabled lane of radd leaves canonical (log entry 25); a cell of bin of 2^31 and
more shows its low bits (log entry 29). -/
def Obligations.VectorLanes : Prop :=
  (∀ (x : VxIn) (st : BitVec 7) (i : Nat), i < x.n →
    let w := x.w
    let L := fun (o : VxOp) => lane w (vxOut o x st).1 i
    let A := x.ai i
    let T := x.ti i
    let C := x.ci i
    let sgn := fun (v : Nat) => if 2 ^ (w - 1) ≤ v then (v : Int) - 2 ^ w else (v : Int)
    let int := fun (v : Nat) => if x.f.int = some true then sgn v else (v : Int)
    let lo : Int := if x.f.int = some true then -2 ^ (w - 1) else 0
    let hi : Int := if x.f.int = some true then 2 ^ (w - 1) - 1 else 2 ^ w - 1
    let narrow := fun (v : Int) => ((if x.sat then max lo (min hi v) else v) % 2 ^ w).toNat
    let num := decodeNum x.f
    let nan := fun (v : Nat) => decide (num v = .nan)
    let round := fun (v : Machine.Num) => (roundTo v false x.f x.mode (x.rnd i)).1
    let below := fun (a b : Nat) => ltNum (num a) (num b) || ((num a).isZero && (num b).isZero && (num a).neg && !(num b).neg)
    let eq : Bool := if x.isFp then eqNum (num A) (num T) else decide (A = T)
    let lt : Bool := if x.isFp then ltNum (num A) (num T) else decide (int A < int T)
    let z0 : Word := x.k ^^^ (BitVec.ofNat 64 T * 0x9E3779B97F4A7C15#64)
    let z1 := (z0 ^^^ (z0 >>> 30)) * 0xBF58476D1CE4E5B9#64
    let z2 := (z1 ^^^ (z1 >>> 27)) * 0x94D049BB133111EB#64
    (∀ o ∈ [VxOp.add, .sub, .mul, .fma, .fnma, .div, .sqrt, .min, .max, .abs, .neg, .and, .or, .xor, .andn, .shl, .shr, .sra, .clz, .ctz,
        .popc, .ceq, .cne, .clt, .cle, .perm, .rnd], x.en i = false → L o = C) ∧
    L .sel = (if bit x.m i then A else lane w x.t i) ∧ L .bcast = x.ai (x.t.toNat % 64 % x.n) ∧
    L .rot = x.ai ((i + x.t.toNat % 64) % x.n) ∧ L .iota = (lane w x.t 0 + i) % 2 ^ w ∧
    (i < 64 → (vxOut .mskof x st).1.getLsbD i = decide (lane w x.t i ≠ 0)) ∧
    (x.f.int ≠ none → L .hist = ((List.range x.n).filter (fun j => x.en j && decide (int (x.ti j) = i))).length ∧
      L .rank = if x.en i then ((List.range i).filter (fun j => x.en j && decide (x.ti j = T))).length else 0) ∧
    L .bin = (match (num A).value, (num C).value, (num T).value with
      | some a, some c, some t =>
        if x.en i = true ∧ 0 ≤ ⌊(a - c) * t⌋ ∧ ⌊(a - c) * t⌋ < (x.k.toNat % 2 ^ 32 : Nat) then (⌊(a - c) * t⌋ % 2 ^ w).toNat else 2 ^ w - 1
      | _, _, _ => 2 ^ w - 1) ∧
    (x.en i = true →
      L .and = A &&& T ∧ L .or = A ||| T ∧ L .xor = A ^^^ T ∧
      (∀ b, b < w → (L .andn).testBit b = (A.testBit b && !T.testBit b)) ∧
      L .shl = A * 2 ^ (T % w) % 2 ^ w ∧ L .shr = A / 2 ^ (T % w) ∧ L .sra = ((sgn A / 2 ^ (T % w)) % 2 ^ w).toNat ∧
      L .clz ≤ w ∧ L .ctz ≤ w ∧ (∀ n ≤ w, n ≤ L .clz ↔ ∀ b < n, T.testBit (w - 1 - b) = false) ∧ (∀ n ≤ w, n ≤ L .ctz ↔ ∀ b < n, T.testBit b = false) ∧
      L .popc = ((List.range w).filter (fun b => T.testBit b)).length ∧
      L .ceq = (if eq then 2 ^ w - 1 else 0) ∧ L .cne = (if eq then 0 else 2 ^ w - 1) ∧ L .clt = (if lt then 2 ^ w - 1 else 0) ∧
      L .cle = (if lt || eq then 2 ^ w - 1 else 0) ∧ L .perm = x.ai (T % x.n) ∧
      L .rnd = ((z2 ^^^ (z2 >>> 31)) >>> (64 - w)).toNat ∧
      (x.f.int ≠ none →
        L .add = narrow (int A + int T) ∧ L .sub = narrow (int A - int T) ∧ L .mul = narrow (int A * int T) ∧
        L .fma = narrow (int A * int T + int C) ∧ L .fnma = narrow (int C - int A * int T) ∧
        L .min = (if int A < int T then A else T) ∧ L .max = (if int A < int T then T else A) ∧
        L .abs = narrow (int T).natAbs ∧ L .neg = narrow (-int T)) ∧
      (x.isFp = true →
        L .add = round (addNum x.mode (num A) (num T)).1 % 2 ^ w ∧ L .sub = round (addNum x.mode (num A) (num T).negate).1 % 2 ^ w ∧
        L .mul = round (mulNum (num A) (num T)).1 % 2 ^ w ∧
        L .fma = round (addNum x.mode (mulNum (num A) (num T)).1 (num C)).1 % 2 ^ w ∧
        L .fnma = round (addNum x.mode (mulNum (num A) (num T)).1.negate (num C)).1 % 2 ^ w ∧
        L .min = (if nan A || nan T then canonNan x.f % 2 ^ w else if below A T then A else T) ∧
        L .max = (if nan A || nan T then canonNan x.f % 2 ^ w else if below A T then T else A) ∧
        L .abs = (if nan T then canonNan x.f % 2 ^ w else T % 2 ^ (w - 1)) ∧
        L .neg = (if nan T then canonNan x.f % 2 ^ w else (T + 2 ^ (w - 1)) % 2 ^ w) ∧
        L .div = (match num A, num T with
          | .nan, _ | _, .nan | .inf _, .inf _ => canonNan x.f
          | .inf s, .fin t _ _ => round (.inf (s != t))
          | .fin s _ _, .inf t => round (.fin (s != t) 0 0)
          | .fin s m e, .fin t n g =>
            if n = 0 then (if m = 0 then canonNan x.f else round (.inf (s != t)))
            else (roundRat x.f (s != t) (m * 2 ^ (e - g).toNat) (n * 2 ^ (g - e).toNat) false x.mode (x.rnd i)).1) % 2 ^ w ∧
        (match num T with
          | .nan | .inf true => L .sqrt = canonNan x.f % 2 ^ w
          | .inf false => L .sqrt = round (.inf false) % 2 ^ w
          | .fin s m e =>
            (m = 0 → L .sqrt = round (.fin s 0 0) % 2 ^ w) ∧ (m ≠ 0 → s = true → L .sqrt = canonNan x.f % 2 ^ w) ∧
            (m ≠ 0 → s = false → ∃ (n r : Nat) (q : Int), r * r ≤ n ∧ n < (r + 1) * (r + 1) ∧ 2 ^ 160 ≤ r ∧
              (n : ℚ) * (2 : ℚ) ^ (2 * q) = (m : ℚ) * (2 : ℚ) ^ e ∧
              L .sqrt = (roundTo (.fin false r q) (decide (r * r ≠ n)) x.f x.mode (x.rnd i)).1 % 2 ^ w))))) ∧
  (∀ (x : VxIn) (st : BitVec 7),
    let w := x.w
    let out := fun (o : VxOp) => (vxOut o x st).1
    let sgn := fun (v : Nat) => if 2 ^ (w - 1) ≤ v then (v : Int) - 2 ^ w else (v : Int)
    let int := fun (v : Nat) => if x.f.int = some true then sgn v else (v : Int)
    let lo : Int := if x.f.int = some true then -2 ^ (w - 1) else 0
    let hi : Int := if x.f.int = some true then 2 ^ (w - 1) - 1 else 2 ^ w - 1
    let num := decodeNum x.f
    let below := fun (a b : Nat) => ltNum (num a) (num b) || ((num a).isZero && (num b).isZero && (num a).neg && !(num b).neg)
    let low := fun (v : Int) => (BitVec.ofInt 64 v).setWidth 1024
    let on := ((List.range x.n).filter x.en).map (lane w x.t)
    let flags := fun (o : VxOp) => (vxOut o x st).2
    let beyond := fun (v : Nat → Int) => x.sat && (List.range x.n).any (fun i => x.en i && (decide (v i < lo) || decide (hi < v i)))
    let merged := fun (r : Nat → Machine.Num × StFlags) => (List.range x.n).foldl (fun (u : StFlags) i =>
      if x.en i then u ||| ((r i).2 ||| (roundTo (r i).1 false x.f x.mode (x.rnd i)).2) else u) 0
    let A := fun (i : Nat) => x.ai i
    let T := fun (i : Nat) => x.ti i
    let summed := fun (g : Machine.Num → Machine.Num) (i : Nat) =>
      if num (A i) = .nan ∨ num (T i) = .nan ∨ num (x.ci i) = .nan then (.nan, 0)
      else (((addNum x.mode (g (mulNum (num (A i)) (num (T i))).1) (num (x.ci i))).1),
        (mulNum (num (A i)) (num (T i))).2 ||| (addNum x.mode (g (mulNum (num (A i)) (num (T i))).1) (num (x.ci i))).2)
    (x.f.int ≠ none → ∀ p ∈ [(VxOp.add, fun (i : Nat) => int (A i) + int (T i)), (.sub, fun i => int (A i) - int (T i)),
        (.mul, fun i => int (A i) * int (T i)), (.fma, fun i => int (A i) * int (T i) + int (x.ci i)),
        (.fnma, fun i => int (x.ci i) - int (A i) * int (T i)), (.abs, fun i => (int (T i)).natAbs), (.neg, fun i => -int (T i))],
      flags p.1 = if beyond p.2 then 32 else 0) ∧
    (∀ o ∈ [VxOp.min, .max, .and, .or, .xor, .andn, .shl, .shr, .sra, .clz, .ctz, .popc, .ceq, .cne, .clt, .cle, .sel, .mskof, .rmax, .rmin, .perm,
      .bcast, .rot, .ext, .iota, .rnd, .bin, .hist, .rank, .stat, .sclr], flags o = 0) ∧
    (x.isFp = false → flags .radd = 0) ∧
    (x.isFp = true → flags .abs = 0 ∧ flags .neg = 0 ∧ flags .add = merged (fun i => addNum x.mode (num (A i)) (num (T i))) ∧
      flags .sub = merged (fun i => addNum x.mode (num (A i)) (num (T i)).negate) ∧ flags .mul = merged (fun i => mulNum (num (A i)) (num (T i))) ∧
      flags .fma = merged (summed id) ∧ flags .fnma = merged (summed Machine.Num.negate) ∧
      ((flags .div).getLsbD 1 = true ↔ ∃ i < x.n, x.en i = true ∧ (num (T i)).isZero = true ∧ (num (A i)).isZero = false ∧ (num (A i)).value ≠ none) ∧
      (x.f ≠ .e4m3 → ((flags .div).getLsbD 0 = true ↔ ∃ i < x.n, x.en i = true ∧ (((num (A i)).isZero = true ∧ (num (T i)).isZero = true) ∨
        ∃ a b, num (A i) = .inf a ∧ num (T i) = .inf b))) ∧
      (flags .sqrt).getLsbD 1 = false ∧ (x.f ≠ .e4m3 → ((flags .sqrt).getLsbD 0 = true ↔
        ∃ i < x.n, x.en i = true ∧ num (T i) ≠ .nan ∧ (num (T i)).neg = true ∧ (num (T i)).isZero = false))) ∧
    out .ext = low (int (x.ai (x.t.toNat % 64 % x.n))) ∧ (∀ j, x.n ≤ j → (out .mskof).getLsbD j = false) ∧ out .stat = st.setWidth 1024 ∧
    (x.isFp = false → out .radd = low (on.map int).sum) ∧
    (x.isFp = true → out .radd = low (match reduceTree (fun a b => (fAdd x.f x.mode 0 a b).1) (Nat.log2 x.n)
        (fun i => if x.en i then some (lane w x.t i) else none) with
      | some r => if num r = .nan then canonNan x.f else r
      | none => 0 : Nat)) ∧
    (x.f.int ≠ none → (on = [] → out .rmax = low lo ∧ out .rmin = low hi) ∧
      (on ≠ [] → (∃ v ∈ on, out .rmax = low (int v) ∧ ∀ u ∈ on, int u ≤ int v) ∧ ∃ v ∈ on, out .rmin = low (int v) ∧ ∀ u ∈ on, int v ≤ int u)) ∧
    (x.isFp = true → x.f ≠ .e4m3 →
      (on = [] → ∃ p q : Nat, p < 2 ^ w ∧ q < 2 ^ w ∧ out .rmax = low p ∧ num p = .inf true ∧ out .rmin = low q ∧ num q = .inf false) ∧
      (∀ v ∈ on, num v = .nan → out .rmax = low (canonNan x.f) ∧ out .rmin = low (canonNan x.f)) ∧
      (on ≠ [] → (∀ v ∈ on, num v ≠ .nan) → (∃ v ∈ on, out .rmax = low v ∧ ∀ u ∈ on, below v u = false) ∧
        ∃ v ∈ on, out .rmin = low v ∧ ∀ u ∈ on, below u v = false))) ∧
  (∀ (mode : RMode) (s t : Bool) (m n : Nat) (e g : Int) (a b : ℚ), (Machine.Num.fin s m e).value = some a → (Machine.Num.fin t n g).value = some b →
    (addNum mode (.fin s m e) (.fin t n g)).1.value = some (a + b) ∧ (mulNum (.fin s m e) (.fin t n g)).1.value = some (a * b) ∧
    (ltNum (.fin s m e) (.fin t n g) = true ↔ a < b) ∧ (eqNum (.fin s m e) (.fin t n g) = true ↔ a = b)) ∧
  (decodeNum .fp32 0x3FC00000 = .fin false (3 * 2 ^ 22) (-23) ∧ decodeNum .bf16 0xC000 = .fin true 128 (-6) ∧
    decodeNum .fp16 1 = .fin false 1 (-24) ∧ decodeNum .e4m3 0x7E = .fin false 14 5 ∧ decodeNum .e4m3 0xFF = .nan ∧
    decodeNum .e5m2 0x7C = .inf false ∧ decodeNum .fp64 0xFFF0000000000000 = .inf true ∧ decodeNum .i8 0x80 = .fin true 128 0 ∧
    decodeNum .e8m0 0 = .fin false 1 (-127) ∧ decodeMx 8 127 0xC0 = .fin true 64 (-6)) ∧
  ((∀ p ∈ [(RMode.rne, 0x3F800000), (.rtz, 0x3F800000), (.rup, 0x3F800001), (.rdn, 0x3F800000)],
      roundTo (.fin false (2 ^ 24 + 1) (-24)) false .fp32 p.1 0 = (p.2, 16)) ∧
    roundTo (.fin false (2 ^ 24 + 3) (-24)) false .fp32 .rne 0 = (0x3F800002, 16) ∧
    roundTo (.fin false (2 ^ 24 + 1) (-24)) true .fp32 .rne 0 = (0x3F800001, 16) ∧
    roundTo (.fin true (2 ^ 24 + 1) (-24)) false .fp32 .rdn 0 = (0xBF800001, 16) ∧
    roundTo (.fin false (2 ^ 24 + 1) (-24)) false .fp32 .sr (2 ^ 31 - 1) = (0x3F800001, 16) ∧
    roundTo (.fin false (2 ^ 24 + 1) (-24)) false .fp32 .sr (2 ^ 31) = (0x3F800000, 16) ∧
    roundTo (.fin false 1 128) false .fp32 .rne 0 = (0x7F800000, 20) ∧ roundTo (.fin false 1 128) false .fp32 .rtz 0 = (0x7F7FFFFF, 20) ∧
    roundTo (.fin true 1 10) false .e4m3 .rne 0 = (0xFE, 20) ∧ roundTo (.fin false 1 (-150)) false .fp32 .rne 0 = (0, 24) ∧
    roundTo (.fin false 1 (-150)) false .fp32 .rup 0 = (1, 24) ∧ roundTo (.fin false 3 (-150)) false .fp32 .rne 0 = (2, 24) ∧
    roundTo (.fin false 5 (-1)) false .i8 .rne 0 = (2, 16) ∧ roundTo (.fin false 300 0) false .i8 .rne 0 = (127, 48) ∧
    roundTo .nan false .i8 .rne 0 = (0, 1) ∧ roundTo (.fin false 3 (-1)) false .e8m0 .rne 0 = (0x80, 16))

/-- R184, R187, R188: a vx trigger delivers what its rule gives to vx.res or vx.sres after its latency, with its flags at that cycle; a div or
sqrt holds the divider for three cycles more; sclr clears the status. Nothing else of the tile's engines changes.
R188, R206, R219, R249: at the close of a cycle, after its triggers, the flags that are due enter the status words of vx, sf, cv and acc and stay
there, beside the zero that an sclr of the cycle wrote; the others stay due, and of the vector side nothing else changes. -/
def Obligations.VectorTriggers : Prop :=
  (∀ (s : State) (l : Nat), s.agenda = [] → s.turn = .close → l ∈ s.liveTiles → (s.tile l).since ≤ s.cycle →
    let u := (s.tile l).vu
    let due := fun (f : FlagUnit) => (u.flagsDue.filter (fun x => decide (x.1 ≤ s.cycle) && x.2.1 == f)).foldl (fun (b : BitVec 7) x => b ||| x.2.2) 0
    ∃ t, step s = .next t ∧ (t.tile l).vu = { u with
      vxStat := u.vxStat ||| due .vx, sfStat := u.sfStat ||| due .sf, cvStat := u.cvStat ||| due .cv, accStat := u.accStat ||| due .acc,
      flagsDue := u.flagsDue.filter (fun x => decide (s.cycle < x.1)) }) ∧
  ∀ (s : State) (l : Nat) (k : StrandId) (m : Mv) (o : VxOp), s.fires l k m (.vx o) →
    ∃ t, exec (Instr.ofTrig (.vx o) m) s = .next t ∧
      let x := vxIn ((s.tile l).strand k) (s.moved l k m)
      let out := vxOut o x (s.tile l).vu.vxStat
      let due := s.cycle + (match o with
        | .fma | .fnma => 5 | .div | .sqrt => 16 | .radd | .rmax | .rmin => 8 | .rnd | .bin | .hist | .rank => 6 | .stat => 1 | _ => 4)
      let held := match o with | .div | .sqrt => s.cycle + 4 | _ => (s.tile l).vu.divBusy
      let stat := match o with | .sclr => 0 | _ => (s.tile l).vu.vxStat
      (t.tile l).engine = (Tile.modStrand { s.tile l with vu := { (s.tile l).vu.flagsAt due .vx out.2 with divBusy := held, vxStat := stat } } k
        (fun st => match o with
          | .mskof | .radd | .rmax | .rmin | .ext | .stat => st.flyAt due .vxSres (resV out.1)
          | .sclr => st
          | _ => st.flyAt due .vxRes (resV out.1))).engine

/-- R204, R206 to R214: an sf trigger delivers what its rule gives after its latency, with its flags at that cycle; racc puts the
enabled lanes into flight for their set, to take effect at the end of the third cycle after; rclr clears a set that no racc is on its way
to; sclr clears the status. The values: a disabled lane of exp2, log2 or gate takes that of sf.c; an enabled one follows the table of its rule,
RoundTo of the exact result where that is rational, and the worked examples; a racc adds a lane to its set, with S1 and S2 exact while no bit is
dropped; and the row reads round the exact quotient of what the set holds. -/
def Obligations.SpecialTriggers : Prop :=
  (∀ (s : State) (l : Nat) (k : StrandId) (m : Mv) (o : SfOp), s.fires l k m (.sf o) →
    let cfg := s.port64 l k 0x3A3
    let n : Fin 4 := Fin.ofNat 4 (field cfg 6 5)
    let x := sfIn ((s.tile l).strand k) (s.moved l k m)
    let u := (s.tile l).vu
    let out := sfOut o x (field (s.port64 l k 0x3A4) 31 0) u.rowSets[n.val] u.sfStat
    ∃ t, exec (Instr.ofTrig (.sf o) m) s = .next t ∧ (t.tile l).engine =
      (match o with
       | .racc => { s.tile l with vu := { u with raccs := u.raccs ++ [Racc.mk n (field cfg 4 0) (x.enabled.map word) (s.cycle + 3)] } }
       | .rclr => { s.tile l with vu := { u with rowSets := u.rowSets.set n.val .cleared } }
       | .sclr => { s.tile l with vu := { u with sfStat := 0 } }
       | .exp2 | .log2 => Tile.modStrand { s.tile l with vu := u.flagsAt (s.cycle + 10) .sf out.2 } k
           (fun st => st.flyAt (s.cycle + 10) .sfRes (resV out.1))
       | .gate => Tile.modStrand { s.tile l with vu := u.flagsAt (s.cycle + 14) .sf out.2 } k
           (fun st => st.flyAt (s.cycle + 14) .sfRes (resV out.1))
       | .stat => (s.tile l).modStrand k (fun st => st.flyAt (s.cycle + 1) .sfSres (res64 (u.sfStat.setWidth 64)))
       | _ => Tile.modStrand { s.tile l with vu := u.flagsAt (s.cycle + 8) .sf out.2 } k
           (fun st => st.flyAt (s.cycle + 8) .sfSres (resV out.1))).engine ∧
      ((o = .rclr ∨ o = .rcnt ∨ o = .rmax ∨ o = .rsum ∨ o = .rssq ∨ o = .rmean ∨ o = .rvar) → ∀ r ∈ u.raccs, r.set ≠ n)) ∧
  (∀ (x : VxIn) (gk : Nat) (r : RowSet) (st : BitVec 7) (i : Nat), i < x.n → x.f ∈ [Fmt.bf16, .fp16, .fp32] →
    let w := x.w
    let L := fun (o : SfOp) => lane w (sfOut o x gk r st).1 i
    let a := decodeNum x.f (x.ai i)
    let b := decodeNum x.f (x.ti i)
    let g := decodeNum .fp32 gk
    let kb := (mulNum g b).1
    let round := fun (v : Machine.Num) => (roundTo v false x.f x.mode 0).1 % 2 ^ w
    let neg := decide (a.neg ≠ b.neg)
    let sign := fun (v : Nat) => if neg then v + 2 ^ (w - 1) else v
    let isInf := fun (v : Machine.Num) => decide (v = .inf true ∨ v = .inf false)
    (x.en i = false → L .exp2 = x.ci i ∧ L .log2 = x.ci i ∧ L .gate = x.ci i) ∧
    (x.en i = true →
      (b = .nan → L .exp2 = canonNan x.f ∧ L .log2 = canonNan x.f) ∧
      (b = .inf false → L .exp2 = infBits x.f ∧ L .log2 = infBits x.f) ∧ (b = .inf true → L .exp2 = 0 ∧ L .log2 = canonNan x.f) ∧
      (b.isZero = true → L .log2 = infBits x.f + 2 ^ (w - 1)) ∧
      (∀ v, b.value = some v →
        (v < 0 → L .log2 = canonNan x.f) ∧ (∀ j : Int, v = (2 : ℚ) ^ j → L .log2 = round (numOfInt j)) ∧
        (∀ j : Int, |j| ≤ 300 → v = j → ∃ n d : Nat, 0 < d ∧ (n : ℚ) / d = (2 : ℚ) ^ j ∧
          L .exp2 = (roundRat x.f false n d false x.mode 0).1 % 2 ^ w)) ∧
      (a = .nan ∨ b = .nan ∨ g = .nan → L .gate = canonNan x.f) ∧
      (a ≠ .nan → b ≠ .nan → g ≠ .nan →
        (kb = .nan → L .gate = canonNan x.f) ∧ (kb = .inf true → L .gate = if isInf a then canonNan x.f else sign 0) ∧
        (kb = .inf false → L .gate = round (mulNum a b).1) ∧
        (∀ q, kb.value = some q →
          (isInf a = true → L .gate = if b.isZero then canonNan x.f else sign (infBits x.f)) ∧
          ∀ u v, a.value = some u → b.value = some v → (u * v = 0 → L .gate = sign 0) ∧
            ∀ j : Int, |j| ≤ 300 → q = j → u * v ≠ 0 → ∃ n d : Nat, 0 < d ∧ (n : ℚ) / d = |u * v| / (1 + (2 : ℚ) ^ (-j)) ∧
              L .gate = (roundRat x.f neg n d false x.mode 0).1 % 2 ^ w)))) ∧
  (∀ (x : VxIn) (gk : Nat) (r : RowSet) (st : BitVec 7),
    let out := fun (o : SfOp) => sfOut o x gk r st
    let vec := fun (v : Nat × StFlags) => (BitVec.ofNat 1024 v.1, v.2)
    let inf := fun (s : Bool) => if s then 0xFF800000 else 0x7F800000
    let both := fun (y : CsEntry) => if y.pinf && y.ninf then flNV else 0
    out .rcnt = vec (r.cnt, 0) ∧ out .rmax = vec (if r.cnt = 0 then 0xFF800000 else r.max.toNat, 0) ∧
    (r.sum1.num = .nan → out .rsum = vec (0x7FC00000, both r.sum1)) ∧ (r.sum2.num = .nan → out .rssq = vec (0x7FC00000, both r.sum2)) ∧
    (∀ s, r.sum1.num = .inf s → out .rsum = vec (inf s, 0)) ∧ (∀ s, r.sum2.num = .inf s → out .rssq = vec (inf s, 0)) ∧
    (∀ u, r.sum1.num.value = some u → ∃ n d : Nat, 0 < d ∧ (n : ℚ) / d = |u| ∧
      out .rsum = vec (roundRat .fp32 (decide (u < 0)) n d r.sum1.stk x.mode 0)) ∧
    (∀ u, r.sum2.num.value = some u → ∃ n d : Nat, 0 < d ∧ (n : ℚ) / d = |u| ∧
      out .rssq = vec (roundRat .fp32 (decide (u < 0)) n d r.sum2.stk x.mode 0)) ∧
    (r.cnt = 0 → out .rmean = vec (0x7FC00000, flNV)) ∧
    (r.cnt ≠ 0 → (r.sum1.num = .nan → out .rmean = vec (0x7FC00000, both r.sum1)) ∧ (∀ s, r.sum1.num = .inf s → out .rmean = vec (inf s, 0)) ∧
      ∀ u, r.sum1.num.value = some u → ∃ n d : Nat, 0 < d ∧ (n : ℚ) / d = |u| / r.cnt ∧
        out .rmean = vec (roundRat .fp32 (decide (u < 0)) n d r.sum1.stk x.mode 0)) ∧
    (r.sum1.num = .nan ∨ r.sum2.num = .nan → out .rvar = vec (0x7FC00000, 0)) ∧
    (r.sum1.num ≠ .nan → r.sum2.num ≠ .nan → r.cnt = 0 ∨ r.sum1.num.value = none ∨ r.sum2.num.value = none → out .rvar = vec (0x7FC00000, flNV)) ∧
    (∀ u v, r.sum1.num.value = some u → r.sum2.num.value = some v → r.cnt ≠ 0 →
      let inexact := r.sum1.stk || r.sum2.stk
      (r.cnt * v - u * u ≤ 0 → out .rvar = vec (0, if inexact then flNX ||| flUF else 0)) ∧
      (0 < r.cnt * v - u * u → ∃ n d : Nat, 0 < d ∧ (n : ℚ) / d = (r.cnt * v - u * u) / (r.cnt * r.cnt) ∧
        (out .rvar).1 = (vec (roundRat .fp32 false n d false x.mode 0)).1))) ∧
  (∀ (r : RowSet) (f : Fmt) (v : Nat), f ∈ [Fmt.bf16, .fp16, .fp32] →
    let x := decodeNum f v
    let y := (convert f .fp32 .rne 0 v).1
    let m := decodeNum .fp32 r.max.toNat
    let z := decodeNum .fp32 y
    let t := r.add f v
    t.cnt = r.cnt + 1 ∧ (m = .nan ∨ z = .nan → t.max = 0x7FC00000) ∧
    (m ≠ .nan → z ≠ .nan → t.max.toNat =
      if ltNum m z || (m.isZero && z.isZero && m.neg && !z.neg) then y % 2 ^ 32 else r.max.toNat) ∧
    (x = .nan → t.sum1.nan = true ∧ t.sum2.nan = true) ∧
    (∀ s, x = .inf s → t.sum1.pinf = (r.sum1.pinf || !s) ∧ t.sum1.ninf = (r.sum1.ninf || s) ∧ t.sum2.pinf = true) ∧
    (∀ q p p', x.value = some q → r.sum1.num.value = some p → t.sum1.num.value = some p' → p' ≤ p + q ∧ (t.sum1.stk = false → p' = p + q)) ∧
    (∀ q p p', x.value = some q → r.sum2.num.value = some p → t.sum2.num.value = some p' →
      p' ≤ p + q * q ∧ (t.sum2.stk = false → p' = p + q * q))) ∧
  ((∀ c ∈ [(0x3F800000, 0x00000000, 0x00000000, 0), (0x3F800000, 0x3F800000, 0x3F2AAAAB, 16), (0x3F800000, 0xBF800000, 0xBEAAAAAB, 16),
        (0x3F800000, 0x40000000, 0x3FCCCCCD, 16), (0x3F800000, 0xC0000000, 0xBECCCCCD, 16), (0x40400000, 0x40000000, 0x4099999A, 16),
        (0x3F800000, 0x7F800000, 0x7F800000, 0), (0x3F800000, 0xFF800000, 0x80000000, 0), (0x3F800000, 0x7FC00000, 0x7FC00000, 0)],
      sfGate .fp32 .rne 0x3F800000 c.1 c.2.1 = c.2.2) ∧
    sfGate .fp32 .rne 0 0x3F800000 0x7F800000 = (0x7FC00000, 1) ∧
    sfExp2 .fp32 .rne 0x3F000000 = (0x3FB504F3, 16) ∧ sfExp2 .fp32 .rne 0x3F800000 = (0x40000000, 0) ∧
    sfExp2 .fp32 .rne 0xC3160000 = (0, 24) ∧ sfExp2 .fp32 .rup 0xC3160000 = (1, 24) ∧ sfExp2 .fp32 .rne 0x43000000 = (0x7F800000, 20) ∧
    sfLog2 .fp32 .rne 0x41000000 = (0x40400000, 0) ∧ sfLog2 .fp32 .rne 0x40400000 = (0x3FCAE00D, 16) ∧ sfLog2 .fp32 .rdn 0x3F800000 = (0, 0) ∧
    sfLog2 .fp32 .rne 0 = (0xFF800000, 2) ∧ sfLog2 .fp32 .rne 0xBF800000 = (0x7FC00000, 1)) ∧
  ∀ (x : VxIn) (gk : Nat) (st : BitVec 7), x.mode = .rne →
    let r := ((RowSet.cleared.add .fp32 0x3F800000).add .fp32 0x40000000).add .fp32 0x40400000
    let out := fun (o : SfOp) => sfOut o x gk r st
    out .rcnt = (3, 0) ∧ out .rmax = (0x40400000, 0) ∧ out .rsum = (0x40C00000, 0) ∧ out .rssq = (0x41600000, 0) ∧ out .rmean = (0x40000000, 0) ∧
    out .rvar = (0x3F2AAAAB, 16)

/-- R216, R219 to R223: cvt and dqt deliver the converted vector after 6 cycles, qnt the elements and the scales after 8, each with its
flags at that cycle; stat delivers the status, and sclr clears it. The values: an enabled element of cvt is its source rounded once into its
lane, which PART places, and every other lane keeps cv.c; qnt writes the packed elements and the scales of QuantBlock and keeps the other bytes
of cv.c; dqt rounds each element under its scale. A draw is the low 32 bits of CounterHash. -/
def Obligations.ConversionTriggers : Prop :=
  (∀ (s : State) (l : Nat) (k : StrandId) (m : Mv) (o : CvOp), s.fires l k m (.cv o) →
    let v := s.moved l k m
    let c := ((s.tile l).strand k).opnd 0x400
    let p := s.port64 l k
    let u := (s.tile l).vu
    let q := cvQnt v c (p 0x402) (p 0x403) (p 0x404) (p 0x405)
    ∃ t, exec (Instr.ofTrig (.cv o) m) s = .next t ∧ (t.tile l).engine =
      (match o with
       | .cvt => Tile.modStrand { s.tile l with vu := u.flagsAt (s.cycle + 6) .cv (cvCvt v c (p 0x401) (p 0x402) (p 0x403) (p 0x404)).2 } k
           (fun st => st.flyAt (s.cycle + 6) .cvRes (resV (cvCvt v c (p 0x401) (p 0x402) (p 0x403) (p 0x404)).1))
       | .dqt => Tile.modStrand
           { s.tile l with vu := u.flagsAt (s.cycle + 6) .cv (cvDqt v c (p 0x401) (p 0x402) (p 0x403) (p 0x404) (p 0x405)).2 } k
           (fun st => st.flyAt (s.cycle + 6) .cvRes (resV (cvDqt v c (p 0x401) (p 0x402) (p 0x403) (p 0x404) (p 0x405)).1))
       | .qnt => Tile.modStrand { s.tile l with vu := u.flagsAt (s.cycle + 8) .cv q.2.2 } k
           (fun st => (st.flyAt (s.cycle + 8) .cvRes (resV q.1)).flyAt (s.cycle + 8) .cvSres (res64 q.2.1))
       | .stat => (s.tile l).modStrand k (fun st => st.flyAt (s.cycle + 1) .cvSres (res64 (u.cvStat.setWidth 64)))
       | .sclr => { s.tile l with vu := { u with cvStat := 0 } }).engine) ∧
  (∀ (v c : Vec) (m cfg k n : Word) (i : Nat),
    let p := cvSrc cfg
    let q := cvDst cfg
    let ws := p.bits
    let wd := q.bits
    let N := 1024 / max ws wd
    let part := (cfg.toNat / 2 ^ 19) % 8
    let en := !cfg.getLsbD 16 || m.getLsbD i
    let out := (cvCvt v c m cfg k n).1
    let from_ := if ws < wd then part * N + i else i
    let to_ := if wd < ws then part * N + i else i
    p.isMx = false → q.isMx = false → part < max ws wd / min ws wd →
      (i < N → lane wd out to_ = if en then
        (roundTo (decodeNum p (lane ws v from_)) false q (cvMode cfg) (counterHash k.toNat ((n.toNat + i) % 2 ^ 64) % 2 ^ 32)).1 % 2 ^ wd
        else lane wd c to_) ∧
      ∀ d, d < 1024 / wd → (∀ j < N, d ≠ if wd < ws then part * N + j else j) → lane wd out d = lane wd c d) ∧
  (∀ (v c : Vec) (cfg k n sc : Word) (j : Nat),
    let f := cvSrc cfg
    let b := (cvDst cfg).bits
    let B := 1024 / f.bits / 32
    let base := (cfg.toNat / 2 ^ 19) % 8 * (B * (4 * b))
    let given := decide ((cfg.toNat / 2 ^ 17) % 4 = 1)
    let out := cvQnt v c cfg k n sc
    let elem := fun (i : Nat) => out.1.toNat / 2 ^ (8 * base + b * (32 * j + i)) % 2 ^ b
    let src := fun (i : Nat) => decodeNum f (lane f.bits v (32 * j + i))
    let scale := out.2.1.toNat / 2 ^ (8 * j) % 256
    let nonfinite := ∃ i < 32, (src i).value = none
    f ∈ [Fmt.bf16, .fp16, .fp32] → (cvDst cfg).isMx = true → base + B * (4 * b) ≤ 128 → (cfg.toNat / 2 ^ 17) % 4 ≤ 1 → j < B →
      (nonfinite → scale = 255 ∧ ∀ i < 32, elem i = 0) ∧
      (¬ nonfinite → given = true → lane 8 (sc.setWidth 1024) j = 255 → scale = 255 ∧ ∀ i < 32, elem i = 0) ∧
      (¬ nonfinite → (given = true → lane 8 (sc.setWidth 1024) j ≠ 255) →
        (given = true → scale = lane 8 (sc.setWidth 1024) j) ∧
        (given = false → (∀ i < 32, (src i).isZero = true) → scale = 127) ∧
        (given = false → ∀ i < 32, ∀ x, (src i).value = some x → x ≠ 0 → (∀ h < 32, ∀ y, (src h).value = some y → |y| ≤ |x|) →
          (scale : Int) = max 0 (Int.log 2 |x| + 127)) ∧
        ∀ i < 32, ∀ x, (src i).value = some x → ∃ e d : Nat, 0 < d ∧ (e : ℚ) / d = |x| * (2 : ℚ) ^ (127 - (scale : Int) + b - 2) ∧
          (elem i : Int) = (roundIntTo (-(2 ^ (b - 1) - 1)) (2 ^ (b - 1) - 1) (src i).neg e d false (cvMode cfg)
            (counterHash k.toNat ((n.toNat + (32 * j + i)) % 2 ^ 64) % 2 ^ 32)).1 % 2 ^ b) ∧
      ∀ h < 128, h < base ∨ base + B * (4 * b) ≤ h → lane 8 out.1 h = lane 8 c h) ∧
  (∀ (v c : Vec) (m cfg k n sc : Word) (i : Nat),
    let f := cvDst cfg
    let b := (cvSrc cfg).bits
    let B := 1024 / f.bits / 32
    let base := (cfg.toNat / 2 ^ 19) % 8 * (B * (4 * b))
    let en := !cfg.getLsbD 16 || m.getLsbD i
    f ∈ [Fmt.bf16, .fp16, .fp32] → (cvSrc cfg).isMx = true → base + B * (4 * b) ≤ 128 → i < 32 * B →
      lane f.bits (cvDqt v c m cfg k n sc).1 i = if en then
        (roundTo (decodeMx b (lane 8 (sc.setWidth 1024) (i / 32)) (v.toNat / 2 ^ (8 * base + b * i) % 2 ^ b)) false f (cvMode cfg)
          (counterHash k.toNat ((n.toNat + i) % 2 ^ 64) % 2 ^ 32)).1 % 2 ^ f.bits
        else lane f.bits c i) ∧
  quantElement 8 127 .rne 0 (.fin false 3 (-1)) = (96, 0) ∧
  quantElement 8 127 .rne 0 (.fin true 3 (-1)) = (160, 0) ∧ quantElement 4 127 .rne 0 (.fin false 255 (-7)) = (7, 48)

/-- R225, R229, R230, R232 to R234, R238, R242, R252: mdset sets MXMDC. A format trigger starts only while the array is free and no absorb or raw
load of its accumulator is in flight; it reads the operands that it does not hold into its latches, row r of M or N from OFF + r × STRIDE of the
window of its descriptor and, for a block format, the scales in the same way, holds the array for its interval and has its result in flight;
MXMDC goes on by the metadata words that a sparse A read takes. Its shape, depth, interval, scale bytes, sparse depth and formats are those of
R225, and its latency is the interval and 12. No accumulator entry changes at its start. A sparse A is latched with the
metadata of the widest row, 48 words (log entry 25). -/
def Obligations.MatrixTriggers : Prop :=
  ∀ (s : State) (l : Nat) (k : StrandId) (m : Mv),
    (s.fires l k m (.mx .mdset) → ∃ t, exec (.mxMdset m) s = .next t ∧
      (t.tile l).engine = { s.tile l with mx := { (s.tile l).mx with mdc := (s.movedW l k m).toNat % 2048 } }.engine) ∧
    ∀ o, o ≠ .mdset → s.fires l k m (.mx o) →
      let w := s.movedW l k m
      let h := mxShapeOf o w
      let size := if o = .f64 then 16 else 32
      let row := match o with
        | .f64 => (48, 144, 0, 0) | .f32 => (96, 216, 0, 0) | .f16 => (192, 108, 0, 384) | .bf16 => (192, 48, 0, 384) | .i8 => (384, 96, 0, 768)
        | .mx8 => (384, 96, 12, 0) | .mx6 => (512, 72, 16, 0) | .mx4 => (768, 48, 24, 0) | _ => (384, 24, 0, 768)
      let formats := match o with
        | .f64 => (Fmt.fp64, Fmt.fp64) | .f32 => (.fp32, .fp32) | .f16 => (.fp16, .fp16) | .bf16 => (.bf16, .bf16)
        | .i8 => (if bit w 9 then .u8 else .i8, if bit w 8 then .u8 else .i8) | .mx8 => (.mx8, .mx8) | .mx6 => (.mx6, .mx6) | .mx4 => (.mx4, .mx4)
        | .e4e4 => (.e4m3, .e4m3) | .e4e5 => (.e4m3, .e5m2) | .e5e4 => (.e5m2, .e4m3) | _ => (.e5m2, .e5m2)
      h.m = size ∧ h.n = size ∧ (h.k, h.ii, h.nb, h.sk) = row ∧ h.lat = row.2.1 + 12 ∧ (h.fa, h.fb) = formats ∧
      let st := (s.tile l).strand k
      let rows := fun (d n rb : Nat) => (List.range n).map (fun r => (s.tile l).readSpm
        (s.spmAddrs l ((s.port64 l k d).toNat / 2 ^ 19 % 8) ((s.port64 l k d).toNat % 2 ^ 19 + r * ((s.port64 l k d).toNat / 2 ^ 32 % 2 ^ 16)) rb))
      let ra := mxReadA (s.tile l) st o w
      let rb := mxReadB (s.tile l) st o w
      let sp := bit w 10
      (s.tile l).mx.busy ≤ s.cycle ∧ absorbInto (s.tile l).vu.accPend (mxAccOf w) = false ∧
        rloadInto (s.tile l).vu.accPend (mxAccOf w) = false ∧
        (ra.lv = true ∧ ra.rows = rows 0x480 h.m 384 ∧ ra.scales = (if h.nb = 0 then [] else rows 0x482 h.m h.nb) ∧ ra.lrows = h.m ∧ ra.lrb = 384 ∧
          ra.lsc = h.nb ∧ ra.lsp = sp ∧ ra.lmd = (if sp then (s.tile l).mx.mdc else 0) ∧
          ra.mdw = if sp then (List.range (h.m * 48)).map (fun i => mget (s.tile l).metaStore (((s.tile l).mx.mdc + i) % 2048) 0) else []) ∧
        (rb.lv = true ∧ rb.rows = rows 0x481 h.n (if sp then 768 else 384) ∧ rb.scales = (if h.nb = 0 then [] else rows 0x483 h.n h.nb) ∧
          rb.lrows = h.n ∧ rb.lrb = (if sp then 768 else 384) ∧ rb.lsc = h.nb ∧ rb.lsp = false ∧ rb.mdw = []) ∧
        ∃ t, exec (Instr.ofTrig (.mx o) m) s = .next t ∧
        (t.tile l).mx.a = (if bit w 4 then (s.tile l).mx.a else mxReadA (s.tile l) st o w) ∧
        (t.tile l).mx.b = (if bit w 5 then (s.tile l).mx.b else mxReadB (s.tile l) st o w) ∧
        (t.tile l).mx.busy = s.cycle + h.ii ∧ (t.tile l).mx.seq = (s.tile l).mx.seq ∧
        (t.tile l).mx.mdc = (if mxSp w && !bit w 4 then ((s.tile l).mx.mdc + h.m * (h.k / 32)) % 2048 else (s.tile l).mx.mdc) ∧
        (∃ f, (t.tile l).mx.flights = (s.tile l).mx.flights ++ [f] ∧ f.id = st.nextId ∧ f.op = o ∧ f.word = w ∧
          f.due = s.cycle + h.lat ∧ f.a = (t.tile l).mx.a ∧ f.b = (t.tile l).mx.b) ∧
        (t.tile l).engine = (Tile.modStrand { s.tile l with mx := (t.tile l).mx } k
          (fun st => st.fly none .mxRes (res64 0) (st.lockedPort .mxRes))).engine

/-- R253, R246: acc.clr sets every entry of the accumulator that bits [2:0] of its operand name to the cleared state, and changes nothing
else; it sets no flag and has no check to fail. -/
def Obligations.AccumulatorClear : Prop :=
  ∀ (s : State) (l : Nat) (k : StrandId) (m : Mv), s.fires l k m (.acc .clr) →
    trigCheck (.acc .clr) (s.iss l k m) s = none ∧
    ∃ t, exec (.accClr m) s = .next t ∧
      (∀ n : Fin 8, n.val = (s.movedW l k m).toNat % 8 → ∀ r < 32, ∀ c < 32, accGet (t.tile l).vu.acc[n.val] r c = AccEntry.cleared) ∧
      (∀ n : Fin 8, n.val ≠ (s.movedW l k m).toNat % 8 → (t.tile l).vu.acc[n.val] = (s.tile l).vu.acc[n.val]) ∧
      (t.tile l).vu.accStat = (s.tile l).vu.accStat ∧ (t.tile l).vu.flagsDue = (s.tile l).vu.flagsDue ∧
      (t.tile l).engine = { s.tile l with vu := { (s.tile l).vu with acc := (t.tile l).vu.acc } }.engine

/-- R248, R249, R252, R254 to R261: a resolve delivers its lanes after 8 cycles with its flags, and clears the entries it reads where RC is set;
cmpz delivers the sign codes after 4, and emit the pairs after 8; absorb, rsave and rload go into flight for six and eight cycles and change no
entry before; an rsave issues with the stores before it performed (log entry 29), and an rload reads what a load of ls would (log entry 30); stat
delivers the status, and sclr clears it. The values: each
lane of a resolve rounds what its entry denotes once, with STK and its draw, and lanes beyond are zero; a pair holds W by its leading bits and a
sticky mark; an absorbed pair marks its entry or is aligned into it, which keeps the exact sum but for what falls below the window, noted in STK;
and a raw load of the image of a row gives the row back. -/
def Obligations.AccumulatorTriggers : Prop :=
  (∀ (s : State) (l : Nat) (k : StrandId) (m : Mv),
    let d := s.movedW l k m
    let u := (s.tile l).vu
    let a := u.acc[(adAcc d).val]
    let p := s.port64 l k
    let as := rawAddrs (s.tile l) (p 0x501)
    (∀ o ∈ [AccOp.resF32, .resBf16, .resF64, .resI32], s.fires l k m (.acc o) →
      let r := accResolve o a d (p 0x502) (p 0x503) (p 0x504)
      ∃ t, exec (Instr.ofTrig (.acc o) m) s = .next t ∧ (t.tile l).engine =
        (Tile.modStrand { s.tile l with vu := accAfter o d (u.flagsAt (s.cycle + 8) .acc r.2) } k
          (fun st => st.flyAt (s.cycle + 8) .accRes (resV r.1))).engine) ∧
    (s.fires l k m (.acc .cmpz) → ∃ t, exec (.accCmpz m) s = .next t ∧ (t.tile l).engine = ((s.tile l).modStrand k (fun st =>
      st.flyAt (s.cycle + 4) .accSres (resV (ofLanes 2 ((accCols .cmpz d).map (fun c =>
        let e := csGet a (adWd d) (adRow d) c
        if e.nan = true ∨ (e.pinf = true ∧ e.ninf = true) then 3 else if e.pinf = true then 0 else if e.ninf = true then 2
        else if e.w < 0 then 2 else if e.w = 0 ∧ e.stk = false then 1 else 0)))))).engine) ∧
    (s.fires l k m (.acc .emit) → ∃ t, exec (.accEmit m) s = .next t ∧ (t.tile l).engine =
      (Tile.modStrand { s.tile l with vu := accAfter .emit d u } k (fun st => st.flyAt (s.cycle + 8) .accRes
        (resV (ofLanes 128 ((accCols .emit d).map (fun c => emitPair (csGet a (adWd d) (adRow d) c))))))).engine) ∧
    (s.fires l k m (.acc .absorb) → ∃ t, exec (.accAbsorb m) s = .next t ∧ (t.tile l).engine =
      { s.tile l with vu := { u with accPend := u.accPend ++ [AccPending.absorb (p 0x500) (s.moved l k m) (s.cycle + 5)] } }.engine) ∧
    (s.fires l k m (.acc .rsave) → ((s.tile l).strand k).sb = [] ∧ (s.tile l).needed k ((s.tile l).strand k).nextId = [] ∧
      let ps : List (Nat × Byte) := (as.zip (rowImage a (adRow d))).filterMap (fun (e : Option Nat × Byte) => e.1.map (fun x => (x, e.2)))
      ∃ t, exec (.accRsave m) s = .next t ∧ (t.tile l).engine =
        { s.tile l with vu := { u with accPend := u.accPend ++ [AccPending.rsave (ps.map Prod.fst) (ps.map Prod.snd) (s.cycle + 7)] } }.engine) ∧
    (s.fires l k m (.acc .rload) →
      let v := (s.forced l k).tile l
      ∃ t, exec (.accRload m) s = .next t ∧ (s.forced l k).around t l k ∧ (t.tile l).engine =
        { v with vu := { v.vu with accPend := v.vu.accPend ++ [AccPending.rload d as (v.readSpm as) s.cycle (s.cycle + 7)] } }.engine) ∧
    (s.fires l k m (.acc .stat) → ∃ t, exec (.accStat m) s = .next t ∧ (t.tile l).engine = ((s.tile l).modStrand k (fun st =>
      st.flyAt (s.cycle + 1) .accSres (res64 (u.accStat.setWidth 64)))).engine) ∧
    (s.fires l k m (.acc .sclr) → ∃ t, exec (.accSclr m) s = .next t ∧
      (t.tile l).engine = { s.tile l with vu := { u with accStat := 0 } }.engine)) ∧
  (∀ (o : AccOp) (a : SMap AccEntry) (d cfg k n : Word), accResolves o = true → d.toNat / 2 ^ 12 % 4 ≤ accMaxG o (bit d 15) →
    let f := match o with | .resBf16 => Fmt.bf16 | .resF64 => .fp64 | .resI32 => .i32 | _ => .fp32
    let wd := bit d 15
    let row := d.toNat / 32 % 32
    let col := fun (j : Nat) => if o = .resF64 ∧ wd = false then 16 * (d.toNat / 2 ^ 12 % 4) + j else j
    let out := (accResolve o a d cfg k n).1
    ∀ j, j < 1024 / f.bits → lane f.bits out j = if j < (if o = .resF64 ∨ wd = true then 16 else 32) then
        let e := csGet a wd row (col j)
        (roundTo e.num e.stk f ((rmodeOf (cfg.toNat % 8)).getD .rne)
          (counterHash k.toNat ((n.toNat + (if wd then 16 * row + col j else 32 * row + col j)) % 2 ^ 64) % 2 ^ 32)).1 % 2 ^ f.bits
        else 0) ∧
  (∀ (a : SMap AccEntry) (r c : Nat),
    let e := accGet a r c
    let lo := accGet a r (2 * c)
    let hi := accGet a r (2 * c + 1)
    csGet a false r c = ⟨e.s.toInt, e.c.toInt, e.e.toInt, e.stk, e.nan, e.pinf, e.ninf⟩ ∧
    csGet a true r c = ⟨(hi.s ++ lo.s).toInt, (hi.c ++ lo.c).toInt, hi.e.toInt, hi.stk, hi.nan, hi.pinf, hi.ninf⟩) ∧
  (∀ x : CsEntry, (x.num = .nan ↔ x.nan = true ∨ x.pinf = true ∧ x.ninf = true) ∧
    (x.nan = false → (x.pinf && x.ninf) = false → (x.pinf = true → x.num = .inf false) ∧ (x.ninf = true → x.num = .inf true) ∧
      (x.pinf = false → x.ninf = false → x.num.value = some ((x.s + x.c : ℚ) * (2 : ℚ) ^ x.e)))) ∧
  (∀ (o : AccOp) (u : Vu) (d : Word) (c r : Nat), accResolves o = true ∨ o = .emit → c < 32 → d.toNat / 2 ^ 12 % 4 ≤ accMaxG o (bit d 15) →
    let a := u.acc[(adAcc d).val]
    let b := (accAfter o d u).acc[(adAcc d).val]
    accGet b r c = if bit d 14 = true ∧ r = d.toNat / 32 % 32 ∧ (if bit d 15 then c / 2 else c) ∈ accCols o d then AccEntry.cleared
      else accGet a r c) ∧
  (∀ x : CsEntry, -2048 ≤ x.e → x.e < 2048 → -2 ^ 162 ≤ x.w → x.w < 2 ^ 162 →
    let p := emitPair x
    let m := signed 63 (p % 2 ^ 64 / 2)
    let e := signed 32 (p / 2 ^ 64 % 2 ^ 32)
    let st := decide (p % 2 = 1)
    p < 2 ^ 128 ∧ p / 2 ^ 96 % 2 ^ 28 = 0 ∧ p / 2 ^ 124 = 8 * b2n x.nan + 4 * b2n x.pinf + 2 * b2n x.ninf + 1 ∧
    (x.w = 0 → m = 0 ∧ e = x.e ∧ st = x.stk) ∧
    (x.w ≠ 0 → ∃ sh : Int, e = x.e + sh ∧ (m : ℚ) * (2 : ℚ) ^ sh ≤ x.w ∧ (x.w : ℚ) < (m + 1) * (2 : ℚ) ^ sh ∧
      (0 < x.w → 2 ^ 61 ≤ m ∧ m < 2 ^ 62) ∧ (x.w < 0 → -2 ^ 62 ≤ m ∧ m < -2 ^ 61) ∧
      (st = true ↔ x.stk = true ∨ (m : ℚ) * (2 : ℚ) ^ sh ≠ x.w))) ∧
  (∀ (wide : Bool) (x : CsEntry) (p : Nat), p < 2 ^ 128 →
    let b := fun (i : Nat) => p.testBit i
    let m := signed 63 (p % 2 ^ 64 / 2)
    let e := signed 32 (p / 2 ^ 64 % 2 ^ 32)
    let y := { x with nan := x.nan || b 127, pinf := x.pinf || b 126, ninf := x.ninf || b 125 }
    let z := if m = 0 then (x, false) else x.align (if wide then 157 else 77) m e
    (b 124 = false → absorbPair wide x p = (x, false)) ∧
    (b 124 = true → (b 127 || b 126 || b 125) = true → absorbPair wide x p = (y, false)) ∧
    (b 124 = true → (b 127 || b 126 || b 125) = false → absorbPair wide x p = ({ z.1 with stk := z.1.stk || b 0 }, z.2))) ∧
  (∀ (x : CsEntry) (l : Nat) (m e : Int), l ∈ [77, 157] → -2 ^ (l + 2) ≤ x.s → x.s < 2 ^ (l + 2) → -2 ^ (l + 2) ≤ x.c → x.c < 2 ^ (l + 2) →
    -2048 ≤ x.e → x.e < 2048 → m ≠ 0 →
    let y := (x.align l m e).1
    let old := (x.w : ℚ) * (2 : ℚ) ^ x.e
    let v := (m : ℚ) * (2 : ℚ) ^ e
    let new := (y.w : ℚ) * (2 : ℚ) ^ y.e
    ((x.align l m e).2 = true ↔ (2 : ℚ) ^ (l + 2047 : Int) ≤ |old| ∨ (2 : ℚ) ^ (l + 2047 : Int) ≤ |v|) ∧
    ((x.align l m e).2 = true → y = if 0 < m then { x with pinf := true } else { x with ninf := true }) ∧
    ((x.align l m e).2 = false →
      -2 ^ (l + 2) ≤ y.s ∧ y.s < 2 ^ (l + 2) ∧ -2 ^ (l + 2) ≤ y.c ∧ y.c < 2 ^ (l + 2) ∧ x.e ≤ y.e ∧ y.e ≤ 2047 ∧
      |old| < (2 : ℚ) ^ (l + y.e : Int) ∧ |v| < (2 : ℚ) ^ (l + y.e : Int) ∧
      (x.e < y.e → (2 : ℚ) ^ (l + y.e - 1 : Int) ≤ |old| ∨ (2 : ℚ) ^ (l + y.e - 1 : Int) ≤ |v|) ∧
      new ≤ old + v ∧ old + v < new + 2 * (2 : ℚ) ^ y.e ∧ y.stk = (x.stk || decide (new ≠ old + v)) ∧
      y.nan = x.nan ∧ y.pinf = x.pinf ∧ y.ninf = x.ninf)) ∧
  (∀ (a : SMap AccEntry) (d : Word) (v : Vec) (r c : Nat),
    let wd := bit d 15
    let G := d.toNat / 2 ^ 12 % 4
    G ≤ accMaxG .absorb wd → c < (if wd then 16 else 32) →
    csGet (absorbRun a d v).1 wd r c = if r = d.toNat / 32 % 32 ∧ c / 8 = G then (absorbPair wd (csGet a wd r c) (lane 128 v (c % 8))).1
      else csGet a wd r c) ∧
  (∀ (x : AccEntry), x.image.length = 22 ∧ AccEntry.ofImage false x.image = x ∧
    AccEntry.ofImage true x.image = { x with e := 0, stk := false, nan := false, pinf := false, ninf := false } ∧
    ∀ i < 176, ((x.image.getD (i / 8) 0).getLsbD (i % 8) = if i < 80 then x.s.getLsbD i else if i < 160 then x.c.getLsbD (i - 80)
      else if i < 172 then x.e.getLsbD (i - 160) else if i = 172 then x.stk else if i = 173 then x.ninf else if i = 174 then x.pinf else x.nan)) ∧
  ∀ (a b : SMap AccEntry) (d : Word) (q r c : Nat), c < 32 →
    accGet (rowLoad a d (rowImage b q)) r c = if r = d.toNat / 32 % 32 then
      AccEntry.ofImage (bit d 15 && decide (c % 2 = 0)) (accGet b q c).image else accGet a r c

/-! ### Copies, the network and the tasks -/

/-- R281 to R284, R288, R79: an nx access of a remote window or a handle goes into flight with a free latency, its order marks and its data: rld
and the atomics count in LDCNT and hold nx.sres, or the register that nx.map names; rst, rvst and hrel count in STCNT, hacq in LDCNT; a
store to the issuing die goes into the store buffer. Choices of the model in it: the free latency (entry 8), and that a global nx atomic goes by
the path near, to its home in the die domain (entry 24). -/
def Obligations.NetworkAccesses : Prop :=
  ∀ (s : State) (l : Nat) (k : StrandId) (m : Mv),
    let sel := s.port64 l k 0x640
    let off := (s.movedW l k m).toNat
    let isGlobal := decide (nxSpace sel = 2)
    let va := (s.tile l).handleBase (nxIdx sel) + off
    let loc := if isGlobal = true then Loc.global va else .window (nxLtn sel) (nxIdx sel) off
    let acq := decide (nxOrd sel = 1) || decide (nxOrd sel = 3)
    let rel := decide (nxOrd sel = 2) || decide (nxOrd sel = 3)
    let st := (s.tile l).strand k
    let path := if (nxSpace sel = 1 ∧ dieOf (nxLtn sel) = dieOf l) ∨ nxSpace sel = 2 then AccessPath.near else .far
    let a : Access :=
      { id := 0, pc := st.pc, op := .load 8 false, loc := loc, path := path, home := false, port := some .nxSres,
        map := nxMapped .rld st, rel := rel, acq := acq, handle := none, countsLd := true, countsSt := false, performed := false, value := 0,
        due := s.nextDue, ret := s.cycle + 1 }
    let push := fun (t : Tile) (a : Access) => t.modStrand k (fun st =>
      (match a.map with | some x => st.dropMapped x | none => st).pushAccess a)
    (s.fires l k m (.nx .rld) → ∃ t, exec (.nxRld m) s = .next t ∧ (t.tile l).engine = (push (s.tile l) a).engine) ∧
    (∀ o n, (o = .rst ∧ n = 8) ∨ (o = .rvst ∧ n = 128) → s.fires l k m (.nx o) →
      let data := if o = .rvst then st.opnd 0x643 else (s.port64 l k 0x641).setWidth 1024
      let u := (s.noteStore l k (s.byteIds loc n)).tile l
      ∃ t, exec (Instr.ofTrig (.nx o) m) s = .next t ∧
        (t.tile l).engine = (if path = .near then
          u.modStrand k (fun st => { st with
            sb := st.sb ++ [⟨st.nextId, st.pc, loc, n, data, none, rel, false, s.nextDue⟩], nextId := st.nextId + 1, stcnt := st.stcnt + 1 })
        else push u { a with op := .store n data, port := none, map := none, countsLd := false, countsSt := true }).engine) ∧
    (s.fires l k m (.nx .hrel) → ∃ t, exec (.nxHrel m) s = .next t ∧ (t.tile l).engine = (push (s.tile l)
      { a with op := .release va (s.port64 l k 0x644).toNat, path := .far, port := none, map := none, rel := true, acq := false, handle := some (nxIdx sel), countsLd := false, countsSt := true }).engine) ∧
    (s.fires l k m (.nx .hacq) → ∃ t, exec (.nxHacq m) s = .next t ∧ (t.tile l).engine = (push (s.tile l)
      { a with op := .acquire va (s.port64 l k 0x644).toNat, path := .far, port := none, map := none, rel := false, acq := true, handle := some (nxIdx sel) }).engine) ∧
    ∀ o b, (o, b) ∈ [(NxOp.aadd, AtomicOp.add), (.aswp, .swap), (.acas, .cas), (.amin, .min), (.amax, .max), (.aminu, .minu), (.amaxu, .maxu),
        (.aand, .and), (.aor, .or), (.axor, .xor)] → s.fires l k m (.nx o) →
      ∃ t, exec (Instr.ofTrig (.nx o) m) s = .next t ∧ (t.tile l).engine = (push ((s.noteStore l k (s.byteIds loc 8)).tile l)
        { a with op := .atomic b (s.port64 l k 0x641) (s.port64 l k 0x642), home := isGlobal, map := nxMapped o st }).engine

/-- R289 to R293, R297, R301: sub and unsub go into flight with the entry that they take or free; rhdr delivers the header of the oldest q12
message one cycle later; gcfg sets the idle threshold; mcast goes into
flight with the tasks that subscribe its tag, wake and msg go into flight as messages that keep the strand's order; xsend
puts its payload into the interface until its slot; bar makes the drain strand wait for the barrier. -/
def Obligations.NetworkControl : Prop :=
  ∀ (s : State) (l : Nat) (k : StrandId) (m : Mv),
    let nx := (s.tile l).nx
    let tag : BitVec 16 := (s.port64 l k 0x600).setWidth 16
    let st := (s.tile l).strand k
    let v := s.movedW l k m
    let a : Access :=
      { id := 0, pc := st.pc, op := .multicast (v.setWidth 16) (st.opnd 0x643) (s.subscribers (s.ctxOf l) (v.setWidth 16)), loc := .global 0,
        path := .far, home := false, port := none, map := none, rel := true, acq := false, handle := none, countsLd := false, countsSt := false,
        performed := false, value := 0, due := s.nextDue, ret := s.cycle + 1 }
    (s.fires l k m (.nx .sub) → ∀ e, nx.entryOf tag = none → nx.mtab.toList.findIdx? Option.isNone = some e →
      ∃ t, exec (.nxSub m) s = .next t ∧ (t.tile l).nx.mtab = nx.mtab.setIfInBounds e (some (tag, s.cycle)) ∧
        ∃ f, (t.tile l).nx.subs = nx.subs ++ [f] ∧ f.id = st.nextId ∧ f.isSub = true ∧ f.tag = tag ∧ f.entry = some e ∧
          f.res = word (2 ^ 63 + e % 8) ∧ f.due = s.nextDue) ∧
    (s.fires l k m (.nx .unsub) → ∀ e n, nx.entryOf tag = some (e, n) → ∃ t, exec (.nxUnsub m) s = .next t ∧ (t.tile l).nx.mtab = nx.mtab ∧
      ∃ f, (t.tile l).nx.subs = nx.subs ++ [f] ∧ f.isSub = false ∧ f.entry = some e ∧ f.res = word (2 ^ 63 + e % 8)) ∧
    (s.fires l k m (.nx .rhdr) → ∃ e r, nx.q12 = e :: r ∧ ∃ t, exec (.nxRhdr m) s = .next t ∧
      (t.tile l).engine = ((s.tile l).modStrand k (fun st => st.flyAt (s.cycle + 1) .nxRres (res64 e.2.1))).engine) ∧
    (s.fires l k m (.nx .gcfg) → ∃ t, exec (.nxGcfg m) s = .next t ∧
      (t.tile l).engine = { s.tile l with nx := { nx with threshold := v.toNat } }.engine) ∧
    (s.fires l k m (.nx .mcast) → ∃ t, exec (.nxMcast m) s = .next t ∧
      (t.tile l).engine = ((s.tile l).modStrand k (fun st => st.pushAccess
        { a with due := ({ s with free := s.free + (s.ctx (s.ctxOf l)).nextUid } : State).nextDue })).engine) ∧
    (∀ o c, (o = .wake ∧ c = 2) ∨ (o = .msg ∧ c = 3) → s.fires l k m (.nx o) → ∃ t, exec (Instr.ofTrig (.nx o) m) s = .next t ∧
      (t.tile l).engine = ((s.tile l).modStrand k (fun st => st.pushAccess { a with
        op := .message (nxLtn v) (targetStrand v) (word (c * 2 ^ 60 + l % 2 ^ 12 * 2 ^ 48 + field (s.port64 l k 0x641) 47 0)),
        loc := .window (nxLtn v) 0 0 })).engine) ∧
    (s.fires l k m (.nx .xsend) → ∀ (x : Task) (d : Nat) (dom : Domain) (e : SchedEntry), s.taskOn l = some x →
      s.domainOf l = some (d, dom) → x.sched[v.toNat]? = some e → dom.phase = some e.ph ∧ e.src = x.gidx ∧ v.toNat ∉ nx.sentIdx ∧
        (∀ t0, dom.t0 = some t0 → s.cycle - t0 < e.cyc) ∧ ∃ t, exec (.nxXsend m) s = .next t ∧
        (t.tile l).nx.sentIdx = v.toNat :: nx.sentIdx ∧ ∃ p, (t.tile l).nx.sends = nx.sends ++ [p] ∧ p.idx = v.toNat ∧
          p.dst = x.memberTile e.dst ∧ p.payload = st.opnd 0x643 ∧ p.depart = dom.t0.getD 0 + e.cyc ∧ p.gone = false) ∧
    (s.fires l k m (.nx .bar) → ∃ t, exec (.nxBar m) s = .next t ∧ (t.tile l).engine =
      (Tile.modStrand { s.tile l with nx := { nx with barWait := some (st.nextId, v) } } k (fun st => st.fly none .nxSres (res64 0) true)).engine)

/-- R318 to R322: tk.launch goes into flight to Scarab with its address; tk.done closes the record that its operand names; tk.est delivers
the state word of the record, two cycles later: bit 63 for a record below NREG, bit 62 while the task is speculative, bit 61 once it is
closed, and its own EST, or zero at or above NREG; tk.xlt on a record that is not LAZY delivers OK after 4 cycles, and else loads in
flight. -/
def Obligations.TaskTriggers : Prop :=
  ∀ (s : State) (l : Nat) (k : StrandId) (m : Mv),
    let n := (s.movedW l k m).toNat
    let w := match (s.tile l).regions[n]? with
      | none => 0
      | some r => word (2 ^ 63 + (if s.speculates l then 2 ^ 62 else 0) + (if r.closed then 2 ^ 61 else 0) + r.est)
    let fly := fun (st : Strand) => st.fly none .tkRes (res64 0) true
    (s.fires l k m (.tk .launch) → ∃ t, exec (.tkLaunch m) s = .next t ∧ (t.tile l).engine =
      (Tile.modStrand { s.tile l with tkFlights := (s.tile l).tkFlights ++
        [.launch ((s.tile l).strand k).nextId ⟨n, false, ⟨[], [], []⟩, s.nextDue⟩] } k fly).engine) ∧
    (s.fires l k m (.tk .done) → ((s.tile l).strand k).sb = [] ∧ n < (s.tile l).regions.length ∧ ∃ t, exec (.tkDone m) s = .next t ∧
      (t.tile l).engine = { s.tile l with regions := (s.tile l).regions.modify n (fun r => { r with closed := true }) }.engine) ∧
    (s.fires l k m (.tk .est) → ∃ t, exec (.tkEst m) s = .next t ∧
      (t.tile l).engine = ((s.tile l).modStrand k (fun st => st.flyAt (s.cycle + 2) .tkRes (res64 w))).engine) ∧
    (s.fires l k m (.tk .xlt) → ∃ r, (s.tile l).regions[n]? = some r ∧ ∃ t, exec (.tkXlt m) s = .next t ∧ (t.tile l).engine =
      (if r.lazyMap then Tile.modStrand { s.tile l with tkFlights := (s.tile l).tkFlights ++
          [.xlt (r.base + (s.port64 l k 0x740).toNat) (s.port64 l k 0x741).toNat s.nextDue] } k fly
        else (s.tile l).modStrand k (fun st => st.flyAt (s.cycle + 4) .tkRes (res64 (word (2 ^ 63))))).engine)

/-- R356, R358, R359, R363, R366: wq.hsel sets the part pointer; wq.commit goes into flight and counts in STCNT; wq.post reserves 16 entries of
q15, for which it needs the room, and goes into flight with the address of its command block; wq.cancel marks the query and tells, after
4 cycles, whether there was one. -/
def Obligations.WeevilTriggers : Prop :=
  ∀ (s : State) (l : Nat) (k : StrandId) (m : Mv),
    let n := (s.movedW l k m).toNat
    let wq := (s.tile l).wq
    let st := (s.tile l).strand k
    let fly := fun (st : Strand) => st.fly none .wqRes (res64 0) true
    (s.fires l k m (.wq .hsel) → ∃ t, exec (.wqHsel m) s = .next t ∧ (t.tile l).engine = { s.tile l with wq := { wq with hp := n } }.engine) ∧
    (s.fires l k m (.wq .commit) → ∃ t, exec (.wqCommit m) s = .next t ∧ (t.tile l).engine =
      (Tile.modStrand { s.tile l with wq := { wq with commits := wq.commits ++
        [⟨st.pc, field (s.port64 l k 0x700) 3 0, s.port64 l k 0x701, n, st.nextId, s.nextDue⟩] } } k (fun st => (fly st).addSt)).engine) ∧
    (s.fires l k m (.wq .post) → wq.q15.length + wq.reserved + 16 ≤ 32 ∧ ∃ t, exec (.wqPost m) s = .next t ∧
      (t.tile l).wq.reserved = wq.reserved + 16 ∧ (t.tile l).wq.q15 = wq.q15 ∧
      (∃ q, (t.tile l).wq.queries = wq.queries ++ [q] ∧ q.block = (s.tile l).handleBase (field (s.port64 l k 0x702) 3 0) + n ∧
        q.after = st.nextId ∧ q.accepted = false ∧ q.waited = none ∧ q.got = [] ∧ q.delivered = 0) ∧
      (t.tile l).engine = (Tile.modStrand { s.tile l with wq := (t.tile l).wq } k fly).engine) ∧
    (s.fires l k m (.wq .cancel) →
      let hit := wq.queries.any (fun x => x.accepted && x.qid == n % 2 ^ 16)
      ∃ t, exec (.wqCancel m) s = .next t ∧
        (t.tile l).wq.queries = wq.queries.map (fun x =>
          if x.accepted = true ∧ x.qid = n % 2 ^ 16 ∧ x.cancelled = none then { x with cancelled := some s.time } else x) ∧
        (t.tile l).engine = (Tile.modStrand { s.tile l with wq := (t.tile l).wq } k (fun st =>
          st.flyAt (s.cycle + 4) .wqRes (res64 (if hit then wqWord 0 (n % 2 ^ 16) else wqWord 6 0)))).engine)

/-- R371, R372, R374 to R376, R382, R387, R390: the one-sided fx triggers and the fence go into flight with their target and data, faa and cas
counted in LDCNT and the others in STCNT; coll posts a collective, ready unless its CCFG waits for a semaphore,
and marks it and an unretired one of its COLLID as duplicates of each other; cstat delivers after 2
cycles STATE 00 for an unknown COLLID, 01 or 10 before and after readiness, and 11 with its CODE once it has retired; stat delivers and
clears the error byte of a package; share sets the weights of the links it names. -/
def Obligations.FabricTriggers : Prop :=
  ∀ (s : State) (l : Nat) (k : StrandId) (m : Mv),
    let v := s.movedW l k m
    let fx := (s.tile l).fx
    let st := (s.tile l).strand k
    let p := s.port64 l k
    (∀ o ∈ [FxOp.st, .vst, .faa, .cas, .fence], s.fires l k m (.fx o) → fx.ops.length < 32 ∧ ∃ t, exec (Instr.ofTrig (.fx o) m) s = .next t ∧
      (t.tile l).fx.ops = fx.ops ++
        [{ id := st.nextId, pc := st.pc, op := o, fpid := field (p 0x680) 23 16, exp := field (p 0x680) 3 0,
           off := v.toNat, d := if o = .fence then p 0x684 else p 0x681, e := p 0x682, xd := st.opnd 0x683, performed := false, value := 0,
           due := s.nextDue }] ∧
      ((t.tile l).strand k).ldcnt = ((s.tile l).strand k).ldcnt + (if o = .faa ∨ o = .cas then 1 else 0) ∧
      ((t.tile l).strand k).stcnt = ((s.tile l).strand k).stcnt + (if o = .faa ∨ o = .cas then 0 else 1) ∧
      (t.tile l).spm = (s.tile l).spm) ∧
    (s.fires l k m (.fx .coll) → fx.colls.length < 4 ∧ ∃ t, exec (.fxColl m) s = .next t ∧
      (t.tile l).fx.colls = fx.colls ++
        [{ order := (s.tile l).copyOrder, cb := p 0x685, cn := p 0x686, cring := p 0x687, ccfg := p 0x688,
           off := v.toNat, after := st.nextId, ready := !collRdy (p 0x688), due := s.nextDue }] ∧
      ∃ q, t.postings = s.postings.map (fun y => if y.rivals q then { y with dup := true } else y) ++ [q] ∧
        q.dup = s.postings.any (fun y => y.rivals q) ∧ q.tile = l ∧ q.uid = s.uidOf l ∧ q.fpid = s.fpid ∧ q.collid = collId (p 0x688) ∧
        q.retired = false) ∧
    (s.fires l k m (.fx .cstat) →
      let id := field v 15 0
      let w := match fx.colls.find? (fun c => collId c.ccfg == id) with
        | some c => word ((if c.ready then 2 else 1) * 2 ^ 62)
        | none => match fx.collDone.find? (fun p => p.1 == id) with
          | some q => word (3 * 2 ^ 62 + q.2 * 2 ^ 56)
          | none => 0
      ∃ t, exec (.fxCstat m) s = .next t ∧
        (t.tile l).engine = ((s.tile l).modStrand k (fun st => st.flyAt (s.cycle + 2) .fxRes (res64 w))).engine) ∧
    (s.fires l k m (.fx .stat) → ∃ t, exec (.fxStat m) s = .next t ∧
      (t.tile l).engine = (Tile.modStrand { s.tile l with fx := { fx with err := mdel fx.err (field v 7 0) } } k (fun st =>
        st.flyAt (s.cycle + 2) .fxRes (res64 ((mget fx.err (field v 7 0) 0).setWidth 64)))).engine) ∧
    (s.fires l k m (.fx .share) → ∃ t, exec (.fxShare m) s = .next t ∧ (t.tile l).engine = (s.tile l).engine ∧
      ∀ n < 8, mget (t.ctx (s.ctxOf l)).fxShare n 0 = if bit v (24 + n) then field v 15 0 else mget (s.ctx (s.ctxOf l)).fxShare n 0)

/-! ### The steps of a tile between issues -/

/-- R21, R22, R23, R24, R166, R157, R158, R168, R281: the free-running results that land in a cycle reach their ports, the one triggered last
on each, and those of a stopped strand its shadows, with their distance, a hi value that of its own port; the oldest data-locked result of a
port enters it once it is complete and the port is empty, and waits while it is full (on ix0 with the landing results, so that the guard of
ix1 is written last); a shadow lands d − 1 cycles after the resume; a mapped value due lands in its register, at a stopped strand one of nx
alone. At a strand that runs, a hi value goes to its port with the value it belongs to, and a compare writes its guard, the writes of ix0 before
those of ix1; no other guard changes. Nothing else of the strand's registers changes, and no other tile; a strand that halts for the debugger is
reported in the list of its context (log entry 18). -/
def Obligations.ResultsLand : Prop :=
  ∀ s : State,
    let l := s.args.l
    let st := (s.tile l).strand s.args.k
    let lands := fun (p : ResPort) => st.flights.filter (fun f => f.port == p && !f.locked && f.due == some s.cycle)
    let onHi := fun (p : ResPort) => p = .ix0Hi ∨ p = .ix1Hi
    let guards := fun (fs : List Flight) (n : Fin 3) => fs.filterMap (fun f => f.res.guard.bind (fun q => if q.1 = n then some q.2 else none))
    let wrote := fun (u : Strand) (fs : List Flight) => ∀ n : Fin 3, u.g[n] = ((guards fs n).getLast?).getD st.g[n]
    (∃ t, exec .resultLand s = .next t ∧
      let u := (t.tile l).strand s.args.k
      (∀ j, j ≠ l → t.tile j = s.tile j) ∧ u.x = st.x ∧ t.mem = s.mem ∧ (t.tile l).spm = (s.tile l).spm ∧
      ((st.flights.map Flight.id).Nodup →
        ((∀ f ∈ st.flights, f.res.guard ≠ none → f.port = .ix0Res ∨ f.port = .ix1Res) →
          (st.lockedFlight .ix0Res = false → wrote u (lands .ix0Res ++ lands .ix1Res)) ∧
          ∀ f d, lands .ix0Res = [] → st.flights.find? (fun f => f.port == .ix0Res) = some f → f.locked = true → f.due = some d → d ≤ s.cycle →
            (st.port .ix0Res).full = false → wrote u (f :: lands .ix1Res)) ∧
        (st.stopped = false → ∀ p h, hiPort p = some h → (∀ g ∈ st.flights, g.port ≠ h) → (p = .ix0Res → st.lockedFlight p = false) →
          (∀ f, (lands p).getLast? = some f → (u.port h).value = (f.res.hi.map (fun v => v.setWidth 1024)).getD (st.port h).value) ∧
          (lands p = [] → u.port h = st.port h)) ∧
        (st.stopped = false → ∀ p, ¬ onHi p → (p = .ix0Res → st.lockedFlight p = false) →
          (∀ f, (lands p).getLast? = some f → (u.port p).value = f.res.value ∧ (u.port p).full = false ∧ f ∉ u.flights) ∧
          (lands p = [] → u.port p = st.port p)) ∧
        (∀ f d, lands .ix0Res = [] → st.flights.find? (fun f => f.port == .ix0Res) = some f → f.locked = true → f.due = some d → d ≤ s.cycle →
          (st.port .ix0Res).full = false → (u.port .ix0Res).value = f.res.value ∧ (u.port .ix0Res).full = true ∧ f ∉ u.flights ∧
            (st.stopped = false → (∀ g ∈ st.flights, g.port ≠ .ix0Hi) →
              (u.port .ix0Hi).value = (f.res.hi.map (fun v => v.setWidth 1024)).getD (st.port .ix0Hi).value)) ∧
        (st.stopped = true → ∀ p f, ¬ onHi p → (p = .ix0Res → st.lockedFlight p = false) → (lands p).getLast? = some f →
          (u.port p).shadow = some (resV f.res.value, s.cycle + 1 - st.base) ∧ (u.port p).value = (st.port p).value ∧
          ∀ h v, hiPort p = some h → f.res.hi = some v → (∀ g ∈ st.flights, g.port ≠ h) →
            (u.port h).shadow = some (resV (v.setWidth 1024), s.cycle + 1 - st.base)))) ∧
    (∃ t, exec .dataLockedDeliver s = .next t ∧
      let u := (t.tile l).strand s.args.k
      (∀ j, j ≠ l → t.tile j = s.tile j) ∧ u.x = st.x ∧
      ((st.flights.map Flight.id).Nodup → (∀ f ∈ st.flights, f.res.guard ≠ none → f.port = .ix0Res ∨ f.port = .ix1Res) →
        wrote u ([ResPort.ix0Res, .ix1Res].filterMap (fun p => (st.flights.find? (fun f => f.port == p)).filter (fun f =>
          f.locked && !(st.port p).full && f.due.any (fun d => decide (d ≤ s.cycle)))))) ∧
      ((st.flights.map Flight.id).Nodup → st.stopped = false → ∀ p h f d, hiPort p = some h → (∀ g ∈ st.flights, g.port ≠ h) →
        st.flights.find? (fun f => f.port == p) = some f → f.locked = true → f.due = some d → d ≤ s.cycle → (st.port p).full = false →
        (u.port h).value = (f.res.hi.map (fun v => v.setWidth 1024)).getD (st.port h).value) ∧
      ((st.flights.map Flight.id).Nodup → ∀ p f d, ¬ onHi p → st.flights.find? (fun f => f.port == p) = some f → f.locked = true →
        (f.due = some d → d ≤ s.cycle → (st.port p).full = false → (u.port p).value = f.res.value ∧ (u.port p).full = true ∧ f ∉ u.flights) ∧
        ((st.port p).full = true → u.port p = st.port p ∧ f ∈ u.flights))) ∧
    (∃ t, exec .shadowLand s = .next t ∧
      let u := (t.tile l).strand s.args.k
      (∀ j, j ≠ l → t.tile j = s.tile j) ∧ u.x = st.x ∧ u.g = st.g ∧
      (∀ c p r d, st.stopped = false → st.resumeAt = some c → (∀ q, resOfHi p = some q → lands q = []) → (st.port p).shadow = some (r, d) →
        (c + d ≤ s.cycle + 1 → (u.port p).value = r.value ∧ (u.port p).shadow = none) ∧
        (s.cycle + 1 < c + d → u.port p = st.port p))) ∧
    (∃ t, exec .mappedWriteLand s = .next t ∧
      let u := (t.tile l).strand s.args.k
      let now := fun (e : Mapped) => decide (e.due ≤ s.cycle) && (!st.stopped || e.nx)
      (∀ j, j ≠ l → t.tile j = s.tile j) ∧ u.g = st.g ∧ u.mapped = st.mapped.filter (fun e => !now e) ∧
        ∀ n : Fin 64, (∀ e, (st.mapped.filter (fun e => e.reg == n && now e)).getLast? = some e → u.x[n] = e.value) ∧
          ((∀ e ∈ st.mapped, now e = true → e.reg ≠ n) → u.x[n] = st.x[n])) ∧
    ∃ t, exec .debugHalt s = .next t ∧ (∀ j, j ≠ l → t.tile j = s.tile j) ∧
      (st.run = .running → st.repLeft = 0 → (st.atBreakpoint = true ∨ st.stepDone = true) →
        ((t.tile l).strand s.args.k).run = .debugHalt ∧ ((t.tile l).strand s.args.k).pc = st.pc ∧ ((t.tile l).strand s.args.k).x = st.x ∧
        (l, s.args.k, st.pc) ∈ (t.ctx (s.ctxOf l)).halts) ∧
      (st.run ≠ .running → t = s)

/-- R13, R88, R134, R135, R169, R172: at the end of a cycle a semaphore takes the posts that no earlier store of their strand holds back, saturating at
65,535, and then gives the takes; a lone post that would pass 65,535 sets SOVF in the strand that issued it. A ring commit adds its slot
to FILL or FREE, a get or an acquire takes one and moves its pointer on, and an rcfg of the cycle makes its ring, every slot free.
R77, R79, R163, R166, R68, R76, R82: the oldest store of a strand, once nothing holds it, leaves the buffer, writes its bytes and drops STCNT,
and the window of the tile takes them; while something holds it nothing changes. A peer load is performed at its tile, where that has a
live task, and takes the bytes there, but raises PEER_GONE where it has none or one of another gang (R287); so is a peer store that leaves the
buffer. R164, R165, R201, R283, R316: an atomic takes the old value and writes the new one, an accumulate adds, a gather takes each lane's bytes,
and a scatter writes each lane's, at the peer's tile; a handle access acts on the line in the cache of its die, or brings it there from home; an nx
atomic acts at home; and an accumulate through a handle of MODE ACC adds to the delta of its task. A performed access returns its
value to its port, or to the register that ls.map names, and drops LDCNT. That an rpub or rrel with nothing held has no effect and that rcfg comes
last is log entry 25; a whole access in one step is log entry 24; which gang a tile is taken to belong to is log entry 28. -/
def Obligations.PostsAndStores : Prop :=
  (∀ s : State,
     let l := s.args.l
     let w := s.tile l
     let ready := fun (k : StrandId) => (w.strand k).posts.filter (fun p => (w.strand k).clearBefore p.after)
     let due := w.semPosts ++ allStrands.flatMap (fun k => (ready k).filterMap (fun p => match p.kind with | .sem n m => some (k, n, m) | _ => none))
     let rings := w.ringRel ++ allStrands.flatMap (fun k => (ready k).filterMap (fun p => match p.kind with | .sem _ _ => none | x => some x))
     (∃ t, exec .semPostApply s = .next t ∧ (∀ j, j ≠ l → t.tile j = s.tile j) ∧ (t.tile l).spm = w.spm ∧ (t.tile l).rings = w.rings ∧
       (t.tile l).semPosts = [] ∧ (t.tile l).semTakes = [] ∧
       ((∀ p ∈ due, p.2.1 < 64) → (∀ p ∈ w.semTakes, p.2.1 < 64) → ∀ n < 64, (t.tile l).sem n =
         min 65535 (w.sem n + ((due.filter (fun p => p.2.1 == n)).map (fun p => p.2.2)).sum) -
           ((w.semTakes.filter (fun p => p.2.1 == n)).map (fun p => p.2.2)).sum) ∧
       ∀ k n m, due = [(k, n, m)] → ((t.tile l).strand k).sstat =
         if 65535 < w.sem n + m then (w.strand k).sstat ||| 1 else (w.strand k).sstat) ∧
     ∃ t, exec .ringCommitApply s = .next t ∧ (∀ j, j ≠ l → t.tile j = s.tile j) ∧ (t.tile l).spm = w.spm ∧ (t.tile l).sems = w.sems ∧
       (t.tile l).ringRel = [] ∧ (t.tile l).ringAcq = [] ∧ (t.tile l).ringCfg = [] ∧
       (∀ n < 8, ∀ d, rings = [] → w.ringAcq = [] → w.ringCfg = [(n, d)] → (t.tile l).ring n = ⟨true, d, 0, ringSlots d, 0, 0, 0, 0⟩) ∧
       (w.ringCfg = [] → ∀ n < 8, ∀ r, r = w.ring n →
         (rings = [.rpub n] → w.ringAcq = [] → (t.tile l).ring n = if r.ph = 0 then r else { r with fill := r.fill + 1, ph := r.ph - 1 }) ∧
         (rings = [.rrel n] → w.ringAcq = [] → (t.tile l).ring n = if r.ch = 0 then r else { r with free := r.free + 1, ch := r.ch - 1 }) ∧
         (rings = [] → w.ringAcq = [(n, true)] → (t.tile l).ring n =
           { r with free := r.free - 1, ph := r.ph + 1, tail := (r.tail + 1) % ringSlots r.desc }) ∧
         (rings = [] → w.ringAcq = [(n, false)] → (t.tile l).ring n =
           { r with fill := r.fill - 1, ch := r.ch + 1, head := (r.head + 1) % ringSlots r.desc }))) ∧
  ∀ s : State,
    let l := s.args.l
    let k := s.args.k
    let st := (s.tile l).strand k
    (∀ e r, st.sb = e :: r →
      (s.mayDrain l k e = false → exec .storeBufferDrain s = .next s) ∧
      ∀ w off, e.loc = .window l w off → e.due ≤ s.cycle → s.mayDrain l k e = true →
        ∃ t, exec .storeBufferDrain s = .next t ∧ ((t.tile l).strand k).sb = r ∧ ((t.tile l).strand k).stcnt = st.stcnt - 1 ∧
          (t.tile l).spm = ((s.tile l).writeSpm ((s.spmAddrs l w off ((vecBytes e.data).take e.n).length).zip ((vecBytes e.data).take e.n))).spm ∧
          ((t.tile l).strand k).x = st.x ∧ t.mem = s.mem ∧ ∀ j, j ≠ l → t.tile j = s.tile j) ∧
    (∀ e r tl w off, st.sb = e :: r → e.loc = .window tl w off → tl ≠ l → e.due ≤ s.cycle → s.mayDrain l k e = true →
      (s.tile tl).nx.gate = .opened → (s.tile tl).nx.gateAt ≤ s.cycle → ∃ t, exec .storeBufferDrain s = .next t ∧ ((t.tile l).strand k).sb = r ∧
        ((t.tile l).strand k).stcnt = st.stcnt - 1 ∧ t.mem = s.mem ∧
        (s.liveFor (s.ctxOf l) tl = true → (e.peer = true → s.otherGang l tl = false) →
          (t.tile tl).spm = ((s.tile tl).writeSpm ((((s.tile tl).window w).addrs off ((vecBytes e.data).take e.n).length).zip
            ((vecBytes e.data).take e.n))).spm ∧ ((t.tile l).strand k).run = st.run) ∧
        ((s.liveFor (s.ctxOf l) tl = false ∨ e.peer = true ∧ s.otherGang l tl = true) → st.fault = none → st.run = .running →
          t.tile tl = s.tile tl ∧ (((t.tile l).strand k).fault.map (fun f => (f.code, f.kind, f.fpc))) = some (.peerGone, .deferred, e.pc) ∧
          ((t.tile l).strand k).run = .halted)) ∧
    ∀ a, st.accesses.find? (fun a => a.id == s.args.id) = some a →
      (a.performed = true → a.ret ≤ s.cycle → ∃ t, exec .loadReturn s = .next t ∧
        let u := (t.tile l).strand k
        u.accesses = st.accesses.filter (fun b => b.id != a.id) ∧ u.ldcnt = (if a.countsLd then st.ldcnt - 1 else st.ldcnt) ∧ u.x = st.x ∧
        (∀ n, a.map = some n → u.mapped = st.mapped ++ [⟨n, a.value.setWidth 64, s.cycle, true, a.path == .near || a.path == .far⟩] ∧ u.flights = st.flights) ∧
        (a.map = none → u.mapped = st.mapped ∧
          u.flights = st.flights.map (fun f => if f.id = a.id then { f with due := some s.cycle, res := resV a.value } else f)) ∧
        (t.tile l).spm = (s.tile l).spm ∧ t.mem = s.mem) ∧
      (∀ tl w off, a.performed = false → a.due ≤ s.cycle → s.mayPerform l k a = true → a.loc = .window tl w off → tl ≠ l →
        (s.tile tl).nx.gate = .opened → (s.tile tl).nx.gateAt ≤ s.cycle → s.liveFor (s.ctxOf l) tl = true →
        (a.path = .peer → s.otherGang l tl = false) →
        let y := s.tile tl
        let at1 := fun (o n : Nat) => (y.window w).addrs o n
        let wrote := fun (t : State) (ps : List (Option Nat × Byte)) => (t.tile tl).spm = (y.writeSpm ps).spm
        let took := fun (t : State) (v : Vec) => ((t.tile l).strand k).accesses =
          st.accesses.map (fun b => if b.id = a.id then { b with performed := true, value := v } else b)
        let left := fun (t : State) => ((t.tile l).strand k).accesses = st.accesses.filter (fun b => b.id != a.id) ∧
          ((t.tile l).strand k).stcnt = (if a.countsSt then st.stcnt - 1 else st.stcnt)
        (∀ o d e, a.op = .atomic o d e → ∃ t, exec .peerAccessPerform s = .next t ∧ t.mem = s.mem ∧
          took t (BitVec.ofNat 1024 (leNat (y.readSpm (at1 off 8)))) ∧
          wrote t ((at1 off 8).zip (leBytes 8 (atomicNew o (word (leNat (y.readSpm (at1 off 8)))) d e).toNat))) ∧
        (∀ ty d, a.op = .accumulate ty d → ∃ t, exec .peerAccessPerform s = .next t ∧ t.mem = s.mem ∧ left t ∧
          wrote t ((at1 off ty.width).zip (leBytes ty.width (ty.sum (leNat (y.readSpm (at1 off ty.width))) d.toNat)))) ∧
        (∀ lw lanes, a.op = .gather lw lanes → (lanes.map (·.1)).Nodup → (∀ p ∈ lanes, ∃ o, p.2 = .window tl w o) → lw ∈ [8, 16, 32, 64] →
          ∃ t v, exec .peerAccessPerform s = .next t ∧ t.mem = s.mem ∧ took t v ∧ t.tile tl = y ∧
            (∀ i o, (i, Loc.window tl w o) ∈ lanes → i < 1024 / lw →
              lane lw v i = leNat (s.forward st a.id (s.byteIds (.window tl w o) (lw / 8)) (y.readSpm (at1 o (lw / 8))))) ∧
            ∀ i, i < 1024 / lw → i ∉ lanes.map (·.1) → lane lw v i = 0) ∧
        ∀ lw lanes data, a.op = .scatter lw lanes data → (∀ p ∈ lanes, ∃ o, p.2 = .window tl w o) →
          ∃ t, exec .peerAccessPerform s = .next t ∧ t.mem = s.mem ∧ left t ∧
            (t.tile tl).spm = (lanes.foldl (fun (x : Tile) p => match p.2 with
              | .window _ _ o => x.writeSpm ((at1 o (lw / 8)).zip (leBytes (lw / 8) (lane lw data p.1)))
              | .global _ => x) y).spm) ∧
      (∀ va, a.performed = false → a.due ≤ s.cycle → s.mayPerform l k a = true → a.loc = .global va → s.speculates l = false →
        (s.tile l).lazyAt va = false →
        let c := s.ctxOf l
        let d := dieOf l
        let u := fun (t : State) => ((t.tile l).strand k).accesses
        let took := fun (t : State) (v : Vec) => u t = st.accesses.map (fun b => if b.id = a.id then { b with performed := true, value := v } else b)
        (∀ ty dt x uid, a.op = .accumulate ty x → (s.tile l).accHandle a.handle = some dt → (s.tile l).owner = some (c, uid) →
          ∃ t, exec .peerAccessPerform s = .next t ∧ t.mem = s.mem ∧ u t = st.accesses.filter (fun b => b.id != a.id) ∧
            (t.die d).cache = (s.die d).cache ∧ (t.die d).deltas = match (s.die d).deltas.find? (fun e => e.ctx == c && e.uid == uid && e.va == va) with
              | some e => (s.die d).deltas.map (fun f => if f = e then { e with value := word (dt.sum e.value.toNat x.toNat) } else f)
              | none => (s.die d).deltas ++ [⟨c, uid, va, dt, word (dt.sum 0 x.toNat)⟩]) ∧
        ∀ n pas pl, (s.ctx c).pas va n = some pas → pas.length = n → (∀ p ∈ pas, lineOf p = pl) → 0 < n → s.lineFenced pl = false →
          (∀ i < 4, mfind s.latent (4 * pl + i) = none) → s.poison.contains pl = false → (∀ h ∈ (s.die d).held, h.line ≠ pl) →
          (∀ o e1 e2, a.op = .atomic o e1 e2 → a.home = true → n = 8 → mfind (s.die d).cache pl = none → s.memoryOk = true →
            ∃ t, exec .peerAccessPerform s = .next t ∧ took t (BitVec.ofNat 1024 (leNat (readAt s.mem pas))) ∧
              t.mem = writeAt s.mem (pas.zip (leBytes 8 (atomicNew o (word (leNat (readAt s.mem pas))) e1 e2).toNat)) ∧
              mfind (t.die d).cache pl = none) ∧
          ((∀ x, mfind (s.die d).cache pl = some x → x.poison = false) → (mfind (s.die d).cache pl = none → (s.die d).cache.length < 393216) →
            let old := (s.line d pl).data
            let bs := pas.map (fun p => BitVec.ofNat 8 (lane 8 old (p % 128)))
            let line := fun (t : State) (ps : List (Nat × Byte)) => (ps.map (·.1)).Nodup → ∀ i < 128, lane 8 (t.line d pl).data i =
              match ps.find? (fun p => p.1 % 128 == i) with | some p => p.2.toNat | none => lane 8 old i
            (∀ sg, a.op = .load n sg → ∃ t, exec .peerAccessPerform s = .next t ∧ t.mem = s.mem ∧
              took t (loadValue n sg (s.forward st a.id (s.byteIds a.loc n) bs)) ∧ line t []) ∧
            (∀ o e1 e2, a.op = .atomic o e1 e2 → a.home = false → n = 8 → ∃ t, exec .peerAccessPerform s = .next t ∧ t.mem = s.mem ∧
              took t (BitVec.ofNat 1024 (leNat bs)) ∧ line t (pas.zip (leBytes 8 (atomicNew o (word (leNat bs)) e1 e2).toNat))) ∧
            ∀ x, a.op = .store n x → n ≤ 128 → ∃ t, exec .peerAccessPerform s = .next t ∧ t.mem = s.mem ∧
              u t = st.accesses.filter (fun b => b.id != a.id) ∧ line t (pas.zip ((vecBytes x).take n)))) ∧
      ∀ n sg tl w off, a.performed = false → a.due ≤ s.cycle → s.mayPerform l k a = true → a.op = .load n sg → a.loc = .window tl w off → tl ≠ l →
        (s.tile tl).nx.gate = .opened → (s.tile tl).nx.gateAt ≤ s.cycle →
        let v := loadValue n sg (s.forward st a.id (s.byteIds a.loc n) ((s.tile tl).readSpm (((s.tile tl).window w).addrs off n)))
        (s.liveFor (s.ctxOf l) tl = true → (a.path = .peer → s.otherGang l tl = false) → ∃ t, exec .peerAccessPerform s = .next t ∧
          ((t.tile l).strand k).accesses = st.accesses.map (fun b => if b.id = a.id then { b with performed := true, value := v } else b) ∧
          t.tile tl = s.tile tl ∧ ((t.tile l).strand k).x = st.x ∧ t.mem = s.mem) ∧
        ((s.liveFor (s.ctxOf l) tl = false ∨ (a.path = .peer ∧ s.otherGang l tl = true)) → st.fault = none → st.run = .running → ∃ t, exec .peerAccessPerform s = .next t ∧
          (((t.tile l).strand k).fault.map (fun f => (f.code, f.kind, f.fpc))) = some (.peerGone, .deferred, a.pc) ∧
          ((t.tile l).strand k).run = .halted ∧ t.mem = s.mem)

/-- R212, R229, R233, R235 to R237, R241, R252, R260, R291, R87: at its landing an racc adds its lanes, in order, to its set; a matrix operation adds into its accumulator
alone, counts the sequence word and completes with its result word; an absorb and a raw load write their entries, the absorb setting OF on
overflow, and a raw save its bytes. The gate latch arms after the threshold of idle cycles, becomes gated at the end of the next
cycle or open again where a message arrived or the tile was not idle, and a gated one opens for an arrival, delivered 64 cycles later. A die cache that writes a line
back writes its dirty bytes home, and no other byte (all in one step: log entry 24). The values of the matrix engine: a row's elements, dense or
expanded by their metadata; DotTerm, the exact sum of the products with its marks; and AddTerm, which marks an entry or makes the sum one arrival
(R248), for every entry (i, j) of the accumulator and no other. The steps that land within a tile change nothing outside it, and no program counter,
operand port, vector register or byte of SPM; only a mapped write changes a scalar register, and only a raw save bytes of SPM. -/
def Obligations.EngineLandings : Prop :=
  (∀ (s : State) (i : Instr), i ∈ [Instr.resultLand, .dataLockedDeliver, .shadowLand, .mappedWriteLand, .semPostApply, .ringCommitApply, .loadReturn,
      .subComplete, .raccTakeEffect, .mxLand, .absorbWrite, .rloadWrite, .rsavePerform, .gateArm, .gateClose, .gateWake, .collectiveReady,
      .tripleDeliver, .scheduledSendDepart] →
    ∃ t, exec i s = .next t ∧ t = { s with tiles := t.tiles } ∧ (∀ j, j ≠ s.args.l → t.tile j = s.tile j) ∧
      (∀ k, ((t.tile s.args.l).strand k).pc = ((s.tile s.args.l).strand k).pc ∧ ((t.tile s.args.l).strand k).run = ((s.tile s.args.l).strand k).run ∧
        ((t.tile s.args.l).strand k).operands = ((s.tile s.args.l).strand k).operands ∧
        (i ≠ .mappedWriteLand → ((t.tile s.args.l).strand k).x = ((s.tile s.args.l).strand k).x)) ∧
      (t.tile s.args.l).vu.v = (s.tile s.args.l).vu.v ∧ (i ≠ .rsavePerform → (t.tile s.args.l).spm = (s.tile s.args.l).spm)) ∧
  (∀ s : State,
    let l := s.args.l
    let w := s.tile l
    let u := w.vu
    (∀ r, u.raccs = [r] → ∃ t, exec .raccTakeEffect s = .next t ∧ (∀ j, j ≠ l → t.tile j = s.tile j) ∧ (t.tile l).spm = w.spm ∧
      (t.tile l).vu = if r.due ≤ s.cycle then
        { u with
          rowSets := u.rowSets.set r.set.val (r.lanes.foldl (fun x v => x.add ((fmtOf r.et).getD .fp32) v.toNat) u.rowSets[r.set.val]),
          raccs := [] } else u) ∧
    (∀ f, w.mx.flights.find? (fun f => decide (f.due ≤ s.cycle)) = some f →
      let r := mxApply f u.acc[(mxAccOf f.word).val]
      ∃ t, exec .mxLand s = .next t ∧ (∀ j, j ≠ l → t.tile j = s.tile j) ∧ (t.tile l).spm = w.spm ∧
        (t.tile l).vu.acc[(mxAccOf f.word).val] = r.1 ∧ (∀ b : Fin 8, b ≠ mxAccOf f.word → (t.tile l).vu.acc[b] = u.acc[b]) ∧
        (t.tile l).mx = { w.mx with seq := w.mx.seq + 1, flights := w.mx.flights.filter (fun g => g.id != f.id) } ∧
        (t.tile l).compute.flights = w.compute.flights.map (fun g => if g.id = f.id then { g with due := some s.cycle, res := res64 (word
          ((w.mx.seq + 1).toNat * 2 ^ 32 + f.op.port * 2 ^ 16 + b2n r.2 * 2 ^ 10 + (mxAccOf f.word).val)) } else g)) ∧
    (∀ d p c, u.accPend = [.absorb d p c] → c ≤ s.cycle →
      let r := absorbRun u.acc[(adAcc d).val] d p
      ∃ t, exec .absorbWrite s = .next t ∧ (∀ j, j ≠ l → t.tile j = s.tile j) ∧ (t.tile l).spm = w.spm ∧
        (t.tile l).vu = { u with
          acc := u.acc.set (adAcc d).val r.1, accPend := [],
          flagsDue := if r.2 then u.flagsDue ++ [(s.cycle, .acc, flOF)] else u.flagsDue }) ∧
    (∀ d as bs i c, u.accPend = [.rload d as bs i c] → c ≤ s.cycle →
      ∃ t, exec .rloadWrite s = .next t ∧ (∀ j, j ≠ l → t.tile j = s.tile j) ∧ (t.tile l).spm = w.spm ∧
        (t.tile l).vu = { u with acc := u.acc.set (adAcc d).val (rowLoad u.acc[(adAcc d).val] d bs), accPend := [] }) ∧
    (∀ as bs c, u.accPend = [.rsave as bs c] → c ≤ s.cycle →
      ∃ t, exec .rsavePerform s = .next t ∧ (∀ j, j ≠ l → t.tile j = s.tile j) ∧ (t.tile l).vu = { u with accPend := [] } ∧
        (t.tile l).spm = (w.writeSpm ((as.map some).zip bs)).spm) ∧
    (∃ t, exec .gateArm s = .next t ∧ (t.tile l).nx =
      if w.nx.gate = .opened ∧ w.nx.threshold ≠ 0 ∧ w.nx.threshold ≤ w.nx.idleFor then
        { w.nx with gate := .armed, gateAt := s.cycle, arrived := false } else w.nx) ∧
    (∃ t, exec .gateClose s = .next t ∧
      (w.nx.gate = .armed → s.cycle ≠ w.nx.gateAt → w.nx.arrived = false → (t.tile l).nx = { w.nx with gate := .gated }) ∧
      (w.nx.gate = .armed → s.cycle ≠ w.nx.gateAt → w.nx.arrived = true → (t.tile l).nx = { w.nx with gate := .opened, gateAt := 0 }) ∧
      (w.nx.gate = .armed → s.cycle = w.nx.gateAt → (t.tile l).nx = { w.nx with arrived := w.nx.arrived || !s.idle l }) ∧
      (w.nx.gate ≠ .armed → (t.tile l).nx = w.nx)) ∧
    (∃ t, exec .gateWake s = .next t ∧
      (w.nx.gate = .gated → (t.tile l).nx = { w.nx with gate := .opened, idleFor := 0, gateAt := s.cycle + 64 }) ∧
      (w.nx.gate = .armed → (t.tile l).nx = { w.nx with arrived := true }) ∧ (w.nx.gate = .opened → t = s))) ∧
  (∀ a b : List Machine.Num,
    let ps := (a.zip b).map (fun p => (mulNum p.1 p.2).1)
    let d := dotTerm a b
    d.nan = decide (Machine.Num.nan ∈ ps) ∧ d.pinf = decide (Machine.Num.inf false ∈ ps) ∧ d.ninf = decide (Machine.Num.inf true ∈ ps) ∧
    ((∀ x ∈ a ++ b, ∃ s m e, x = .fin s m e ∧ -1100 ≤ e) → (d.sum : ℚ) * (2 : ℚ) ^ (-2200 : Int) =
      ((a.zip b).map (fun p => p.1.value.getD 0 * p.2.value.getD 0)).sum)) ∧
  (∀ (s t : Bool) (m : Nat) (e : Int) (x : Machine.Num), mulNum .nan x = (.nan, 0) ∧ mulNum x .nan = (.nan, 0) ∧
    mulNum (.inf s) (.inf t) = (.inf (s != t), 0) ∧ mulNum (.inf s) (.fin t m e) = (if m = 0 then (.nan, flNV) else (.inf (s != t), 0)) ∧
    mulNum (.fin t m e) (.inf s) = if m = 0 then (.nan, flNV) else (.inf (t != s), 0)) ∧
  (∀ (x : CsEntry) (wide : Bool) (d : DotSum),
    (d.nan = true ∨ d.pinf = true ∨ d.ninf = true ∨ d.sum = 0 →
      addTerm x wide d = { x with nan := x.nan || d.nan, pinf := x.pinf || d.pinf, ninf := x.ninf || d.ninf }) ∧
    (d.nan = false → d.pinf = false → d.ninf = false → d.sum ≠ 0 →
      addTerm x wide d = (x.align (if wide then 157 else 77) d.sum (-2200)).1)) ∧
  (∀ (f : MxFlight) (acc : SMap AccEntry) (r c : Nat),
    let h := mxShapeOf f.op f.word
    let sp := bit f.word 10
    let wide := decide (f.op = .f64)
    let value := fun (e : Fmt) (bs : List Byte) (sc : List Byte) (k : Nat) =>
      let v := leNat bs / 2 ^ (e.bits * k) % 2 ^ e.bits
      if e.isMx then decodeMx e.bits (sc.getD (k / 32) 0).toNat v else decodeNum e v
    let width := if wide then 16 else 32
    let A := mxRowsA f
    let B := mxRowsB f
    A.length = min h.m f.a.rows.length ∧ B.length = min h.n f.b.rows.length ∧
    (∀ bs, f.a.rows[r]? = some bs → r < h.m → sp = false →
      A[r]? = some ((List.range h.k).map (value h.fa (bs.take 384) (f.a.scales.getD r [])))) ∧
    (∀ bs, f.b.rows[c]? = some bs → c < h.n → B[c]? = some ((List.range (if sp then h.sk else h.k)).map
      (value h.fb (bs.take (if sp then 768 else 384)) (f.b.scales.getD c [])))) ∧
    (∀ bs xs k, f.a.rows[r]? = some bs → r < h.m → sp = true → A[r]? = some xs → k < h.sk →
      let nib := (f.a.mdw.getD (r * (h.k / 32) + k / 64) 0).toNat / 2 ^ (4 * (k / 4 % 16)) % 16
      let at1 := fun (p i : Nat) => if p = k % 4 then (value h.fa (bs.take 384) [] i).value else some 0
      xs.length = h.sk ∧ ∀ u v, at1 (nib % 4) (2 * (k / 4)) = some u → at1 (nib / 4) (2 * (k / 4) + 1) = some v →
        (xs.getD k .nan).value = some (u + v)) ∧
    (A.length ≤ width → B.length ≤ width → r < 32 → c < width →
      csGet (mxApply f acc).1 wide r c = match A[r]?, B[c]? with
        | some a, some b => addTerm (csGet acc wide r c) wide (dotTerm a b)
        | _, _ => csGet acc wide r c) ∧
    (mxApply f acc).2 = A.any (fun a => B.any (fun b => (dotTerm a b).nan || (dotTerm a b).pinf || (dotTerm a b).ninf))) ∧
  ∀ (s : State) (d : Fin 8) (x : Line), s.memoryOk = true → s.args.n = d.val → mfind (s.die d).cache s.args.id = some x → x.dirty ≠ 0 →
    s.lineFenced s.args.id = false → ∃ t, exec .dieCacheWriteBack s = .next t ∧
      (∀ i < 128, readByte t.mem (s.args.id * 128 + i) =
        if bit x.dirty i then BitVec.ofNat 8 (lane 8 x.data i) else readByte s.mem (s.args.id * 128 + i)) ∧
      (∀ a, a / 128 ≠ s.args.id → readByte t.mem a = readByte s.mem a) ∧ (∀ l, t.tile l = s.tile l) ∧
      ((∀ i < 4, mfind s.latent (4 * s.args.id + i) = none) →
        let y := { x with dirty := 0, writers := [], poison := x.poison && decide (x.dirty ≠ BitVec.allOnes 128) }
        (t.die d).cache = if s.args.flag then mdel (mput (s.die d).cache s.args.id y) s.args.id else mput (s.die d).cache s.args.id y)

/-- R270, R274, R275, R278, R422, R137, R138, R290: a copy between windows of its tile moves its next element, reading the source and writing
the destination, but for the bytes that an element of higher number has written; with its last element, or where it has none left or is
cancelled, it completes: it applies its post, and retires where it sends no message; a completed copy puts its
message into its mailbox, after those sent before it, and retires, so that CPCNT drops; one that meets an error retires and its strand takes a
deferred fault, whose DETAIL is the channel and transfer id or, for poison, that of R331. A message that waits enters its mailbox when there is room, and stays while there is none or while its task is stopped; it
goes with its task. Which element moves first, and each element in one step, is log entry 12; that a held message waits for its stopped task and
goes with it is log entry 28. -/
def Obligations.CopiesAndMessages : Prop :=
  (∀ (s : State) (x : Copy),
    let l := s.args.l
    let c := s.args.ch
    let w := s.tile l
    let begins := x.begun = true ∨ x.total = 0 ∨ w.allBefore (cpOwner c) x.after = true
    (w.channel c).copyAt? s.args.id = some x →
    let ends := fun (t : State) (y : Copy) =>
      ((t.tile l).channel c).copies = (if x.sends = true then
        (w.channel c).copies.map (fun z => if z.order = x.order then { y with completed := true, sent := w.copyOrder + 1 } else z)
        else (w.channel c).copies.filter (fun z => z.order != x.order)) ∧
      ((t.tile l).strand (cpOwner c)).cpcnt = (w.strand (cpOwner c)).cpcnt - (if x.sends = true then 0 else 1) ∧
      (t.tile l).sem x.semi = (if x.posts then min 65535 (w.sem x.semi + 1) else w.sem x.semi)
    (∀ n a o b p, x.completed = false → x.cancelled = false → x.due ≤ s.cycle → begins → x.done = n * x.esz → 0 < x.esz → n < x.total →
      w.canMove c s.cycle x.esz = true → cpKind l x.ssel = 0 → cpKind l x.dsel = 0 →
      sideLoc w l x.ssel x.soff x.sdims (x.element n) = .window l a o → sideLoc w l x.dsel x.doff x.ddims (x.element n) = .window l b p →
      copyHeld w s.cycle x (s.spmAddrs l a o x.esz) (s.spmAddrs l b p x.esz) = false →
      let later := fun (i : Nat) => ∃ m < n, x.element n < x.element m ∧ ∃ q r, sideLoc w l x.dsel x.doff x.ddims (x.element m) = .window l q r ∧
        some i ∈ s.spmAddrs l q r x.esz
      let y := { x with begun := true, done := x.done + x.esz, due := s.cycle + 1 }
      ∃ t, exec .copyComplete s = .next t ∧ (∀ j, j ≠ l → t.tile j = s.tile j) ∧ t.mem = s.mem ∧
        ((∀ i, some i ∈ s.spmAddrs l b p x.esz → ¬ later i) →
          (t.tile l).spm = (w.writeSpm ((s.spmAddrs l b p x.esz).zip (w.readSpm (s.spmAddrs l a o x.esz)))).spm) ∧
        (∀ i, later i ∨ some i ∉ s.spmAddrs l b p x.esz → readByte (t.tile l).spm i = readByte w.spm i) ∧
        (n + 1 < x.total → ((t.tile l).channel c).copies = (w.channel c).copies.map (fun z => if z.order = x.order then y else z) ∧
          (t.tile l).sems = w.sems ∧ ((t.tile l).strand (cpOwner c)).cpcnt = (w.strand (cpOwner c)).cpcnt) ∧
        (n + 1 = x.total → ends t y)) ∧
    (x.completed = false → x.cancelled = true ∨ x.total * x.esz ≤ x.done → x.due ≤ s.cycle → begins → cpKind l x.ssel = 0 → cpKind l x.dsel = 0 →
      ∃ t, exec .copyComplete s = .next t ∧ (∀ j, j ≠ l → t.tile j = s.tile j) ∧ t.mem = s.mem ∧ (t.tile l).spm = w.spm ∧ ends t x) ∧
    (x.completed = true → x.sends = false → ∃ t, exec .copyRetire s = .next t ∧ (t.tile l).spm = w.spm ∧
      ((t.tile l).channel c).copies = (w.channel c).copies.filter (fun y => y.order != s.args.id) ∧
      ((t.tile l).strand (cpOwner c)).cpcnt = (w.strand (cpOwner c)).cpcnt - 1) ∧
    (x.completed = true → x.sends = true → x.messageTile l = l → (w.channel c).held = [] →
      (∀ y ∈ (w.channel c).copies, y.completed = true → y.sends = true → y.messageTile l = l → y.mstr = x.mstr → x.sent ≤ y.sent) →
      (w.strand x.mstr).mailRoom s.cycle = true →
      ∃ t, exec .copyRetire s = .next t ∧ (t.tile l).spm = w.spm ∧
        ((t.tile l).strand x.mstr).mailbox = (w.strand x.mstr).mailbox ++
          [(s.cycle, word (2 ^ 60 + l % 2 ^ 12 * 2 ^ 48 + (x.tag * 2 ^ 40 + (if x.cancelled then 2 ^ 38 else 0) + cpNum c * 2 ^ 16 + x.xid) % 2 ^ 48))] ∧
        ((t.tile l).channel c).copies = (w.channel c).copies.filter (fun y => y.order != s.args.id) ∧
        ((t.tile l).strand (cpOwner c)).cpcnt = (w.strand (cpOwner c)).cpcnt - 1) ∧
    ∀ u f, s.copyStep l c x = (u, some f) → ((u.tile l).strand (cpOwner c)).fault = none → ((u.tile l).strand (cpOwner c)).run = .running →
      ∃ t, exec .copyError s = .next t ∧ ((t.tile l).strand (cpOwner c)).run = .halted ∧
        (((t.tile l).strand (cpOwner c)).fault.map (fun f => (f.code, f.kind, f.fpc, f.detail))) =
          some (f.fault.1, .deferred, x.pc, word (match f with
            | .gone _ => cpNum c * 2 ^ 16 + x.xid
            | .poison cause va => cause * 2 ^ 62 + va / 128 * 128)) ∧
        ((t.tile l).channel c).copies = ((u.tile l).channel c).copies.filter (fun y => y.order != s.args.id)) ∧
  (∀ s : State,
    let l := s.args.l
    let k := s.args.k
    let st := (s.tile l).strand k
    (s.tile l).live = true → (s.tile l).nx.gate = .opened → (s.tile l).nx.gateAt ≤ s.cycle →
    (∀ w r, s.args.flag = true → st.mailHeld = w :: r →
      (st.mailRoom s.cycle = true → ∃ t, exec .mailboxMessageEnter s = .next t ∧ ((t.tile l).strand k).mailHeld = r ∧
        ((t.tile l).strand k).mailbox = st.mailbox ++ [(s.cycle, w)] ∧ ((t.tile l).strand k).x = st.x ∧ (t.tile l).spm = (s.tile l).spm) ∧
      (st.mailRoom s.cycle = false → exec .mailboxMessageEnter s = .next s)) ∧
    ∀ h y, s.args.flag = false → s.args.n ≠ l → (s.tile s.args.n).nx.heldFor s.args.uid k = some h →
      (s.ctx (s.ctxOf s.args.n)).task? s.args.uid = some y → y.state.over = false → s.liveTile (s.ctxOf s.args.n) y = some l →
      (st.mailRoom s.cycle = true → ∃ t, exec .mailboxMessageEnter s = .next t ∧
        ((t.tile l).strand k).mailbox = st.mailbox ++ [(s.cycle, h.word)] ∧ (t.tile s.args.n).nx.held = (s.tile s.args.n).nx.held.erase h) ∧
      (st.mailRoom s.cycle = false → exec .mailboxMessageEnter s = .next s)) ∧
  ∀ (s : State) (h : HeldMsg), s.args.flag = false → (s.tile s.args.n).nx.heldFor s.args.uid s.args.k = some h →
    (∀ y, (s.ctx (s.ctxOf s.args.n)).task? s.args.uid = some y → y.state.over = false → s.liveTile (s.ctxOf s.args.n) y = none →
      exec .mailboxMessageEnter s = .next s) ∧
    ((s.ctx (s.ctxOf s.args.n)).task? s.args.uid = none → ∃ t, exec .mailboxMessageEnter s = .next t ∧
      (t.tile s.args.n).nx.held = (s.tile s.args.n).nx.held.erase h)

/-- R83, R86, R283, R288, R292, R293: a remote store is performed at its tile, in one step (log entry 24), and drops STCNT; a release or acquire of a
handle writes the dirty bytes of every cached line of its range home and no other byte, leaves those lines clean or drops them, and completes; the result of sub or unsub reaches its port, and unsub frees its entry; a multicast enters q12 behind
the others with the header of its sender and tag, or is discarded where the subscription that it was sent to has ended.
R297, R302: a scheduled send departs in its cycle, takes a free link for 2 or 4 cycles, and after 6 + 5H + 11B cycles and its delays its bytes are
performed at the window of its receiver; a barrier whose members have all arrived gives each member the AND and the OR of the votes, sets T0
to the next cycle (log entry 22) and takes the next phase, which the arrivals agree on. -/
def Obligations.NetworkSteps : Prop :=
  (∀ s : State,
    let l := s.args.l
    let w := s.tile l
    (∀ a, w.drain.accesses.find? (fun a => a.id == s.args.id) = some a → a.performed = false → a.path ≠ .peer → a.due ≤ s.cycle →
      s.mayPerform l .drain a = true →
      (∀ n data tl win off, a.op = .store n data → a.loc = .window tl win off → tl ≠ l → (s.tile tl).nx.gate = .opened →
        (s.tile tl).nx.gateAt ≤ s.cycle → s.liveFor (s.ctxOf l) tl = true →
        ∃ t, exec .remoteAccessPerform s = .next t ∧
          (t.tile tl).spm = ((s.tile tl).writeSpm ((s.spmAddrs tl win off ((vecBytes data).take n).length).zip ((vecBytes data).take n))).spm ∧
          (t.tile l).drain.accesses = w.drain.accesses.filter (fun b => b.id != a.id) ∧
          (t.tile l).drain.stcnt = (if a.countsSt then w.drain.stcnt - 1 else w.drain.stcnt) ∧ (t.tile l).spm = w.spm ∧ t.mem = s.mem) ∧
      (∀ va n, a.op = .release va n ∨ a.op = .acquire va n → ∃ t, exec .handleSyncComplete s = .next t ∧
        (s.memoryOk = true → (∀ pl, s.lineFenced pl = false) →
          let d := dieOf l
          let covered := fun (pl : Nat) => n ≠ 0 ∧ ∃ v b, va / 128 ≤ v ∧ v ≤ (va + n - 1) / 128 ∧ (s.ctx (s.ctxOf l)).translate (v * 128) = some b ∧
            b / 128 = pl
          let state := fun (u : State) (pl : Nat) => (mfind (u.die d).cache pl).map (fun x => (x.data, x.dirty))
          (∀ pl i, i < 128 → covered pl → readByte t.mem (pl * 128 + i) = match mfind (s.die d).cache pl with
            | some x => if bit x.dirty i then BitVec.ofNat 8 (lane 8 x.data i) else readByte s.mem (pl * 128 + i)
            | none => readByte s.mem (pl * 128 + i)) ∧
          (∀ pl i, i < 128 → ¬ covered pl → readByte t.mem (pl * 128 + i) = readByte s.mem (pl * 128 + i) ∧ state t pl = state s pl) ∧
          ∀ pl, covered pl → (a.op = .acquire va n → state t pl = none) ∧
            (a.op = .release va n → state t pl = (mfind (s.die d).cache pl).map (fun x => (x.data, 0)))) ∧
        (t.tile l).drain.accesses = w.drain.accesses.filter (fun b => b.id != a.id) ∧
        (t.tile l).drain.stcnt = (if a.countsSt then w.drain.stcnt - 1 else w.drain.stcnt) ∧
        (t.tile l).drain.ldcnt = (if a.countsLd then w.drain.ldcnt - 1 else w.drain.ldcnt) ∧ (t.tile l).spm = w.spm)) ∧
    (∀ f r, w.nx.subs = f :: r →
      (f.due ≤ s.cycle → ∃ t, exec .subComplete s = .next t ∧ (t.tile l).nx.subs = r ∧
        (f.isSub = true → (t.tile l).nx.mtab = w.nx.mtab) ∧
        (∀ e, f.isSub = false → f.entry = some e → (t.tile l).nx.mtab = w.nx.mtab.setIfInBounds e none) ∧
        (t.tile l).feed.flights = w.feed.flights.map (fun g => if g.id = f.id then { g with due := some s.cycle, res := res64 f.res } else g) ∧
        (t.tile l).spm = w.spm ∧ t.mem = s.mem) ∧
      (s.cycle < f.due → exec .subComplete s = .next s)) ∧
    ∀ m y, (s.tile s.args.n).nx.mcasts.find? (fun m => m.dst == s.args.uid) = some m → m.due ≤ s.cycle → s.args.n ≠ l →
      (s.ctx (s.ctxOf s.args.n)).task? s.args.uid = some y → s.liveTile (s.ctxOf s.args.n) y = some l →
      ((w.nx.entryOf m.tag).map Prod.snd ≠ some m.stamp → ∃ t, exec .mcastDeliver s = .next t ∧
        (t.tile s.args.n).nx.mcasts = (s.tile s.args.n).nx.mcasts.erase m ∧ (t.tile l).nx.q12 = w.nx.q12) ∧
      ((w.nx.entryOf m.tag).map Prod.snd = some m.stamp → w.nx.gate = .opened → w.nx.gateAt ≤ s.cycle → w.nx.q12Room s.cycle = true → ∃ t, exec .mcastDeliver s = .next t ∧
        (t.tile l).nx.q12 = w.nx.q12 ++ [(s.cycle, word (2 ^ 60 + s.args.n % 2 ^ 12 * 2 ^ 48 + m.tag.toNat), m.payload)] ∧
        (t.tile s.args.n).nx.mcasts = (s.tile s.args.n).nx.mcasts.erase m ∧ (t.tile l).spm = w.spm) ∧
      ((w.nx.entryOf m.tag).map Prod.snd = some m.stamp → w.nx.gate = .opened → w.nx.gateAt ≤ s.cycle → w.nx.q12Room s.cycle = false →
        exec .mcastDeliver s = .next s)) ∧
  (∀ (s : State) (x : SchedSend),
    let l := s.args.l
    let sends := (s.tile l).nx.sends
    let hops := gridHops l x.dst
    sends.find? (fun x => x.idx == s.args.id) = some x →
    (x.gone = false → x.depart ≤ s.cycle → ∃ t, exec .scheduledSendDepart s = .next t ∧
      (t.tile l).nx.sends = sends.map (fun y => if y.idx = x.idx then { x with gone := true } else y) ∧
      (t.tile l).spm = (s.tile l).spm) ∧
    (x.gone = false → s.cycle < x.depart → exec .scheduledSendDepart s = .next s) ∧
    (x.gone = true → x.hop < hops → x.reached ≤ s.cycle → mget s.links (linkAt l x.dst x.hop) 0 ≤ s.cycle →
      ∃ t, exec .scheduledSendPerform s = .next t ∧
        t.links = mput s.links (linkAt l x.dst x.hop) (s.cycle + (if x.n = 64 then 2 else 4)) ∧ (t.tile l).nx.sends = sends.map (fun y =>
          if y.idx = x.idx then { x with hop := x.hop + 1, delay := x.delay + (s.cycle - x.reached), reached := s.cycle + 5 } else y)) ∧
    (x.gone = true → hops ≤ x.hop → x.depart + 6 + 5 * hops + 11 * gridBounds l x.dst + x.delay ≤ s.cycle → x.dst ≠ l →
      s.liveFor (s.ctxOf l) x.dst = true → s.sameGang l x.dst = true → (s.tile x.dst).nx.gate = .opened → (s.tile x.dst).nx.gateAt ≤ s.cycle →
      ∃ t, exec .scheduledSendPerform s = .next t ∧ (t.tile l).nx.sends = sends.filter (fun y => y.idx != s.args.id) ∧
        (t.tile x.dst).spm = ((s.tile x.dst).writeSpm ((s.spmAddrs x.dst x.win x.off x.n).zip ((vecBytes x.payload).take x.n))).spm ∧
        t.mem = s.mem)) ∧
  ∀ (s : State) (d : Domain), mfind s.domains s.args.n = some d → d.members.Nodup →
    (∀ i < d.members.length, ∃ w, (i, w) ∈ d.arrivals) → d.due ≤ s.cycle + 1 → (∀ l ∈ d.members, s.memberOn d l = true) →
    let votes := d.arrivals.map (fun p => p.2.setWidth 32)
    ∃ t, exec .barrierComplete s = .next t ∧
      (∃ e, mfind t.domains s.args.n = some e ∧ e.t0 = some (s.cycle + 1) ∧ e.arrivals = [] ∧ e.members = d.members ∧
        ∀ p, p ≠ 255 → d.arrivals ≠ [] → (∀ q ∈ d.arrivals, field q.2 39 32 = p) → e.phase = some p) ∧
      (∀ l ∈ d.members, (t.tile l).nx.barWait = none ∧ (t.tile l).nx.sentIdx = [] ∧ ∀ id w, (s.tile l).nx.barWait = some (id, w) →
        (t.tile l).drain.flights = (s.tile l).drain.flights.map (fun f => if f.id = id then
          { f with due := some s.cycle, res := res64 (word ((votes.foldl (· &&& ·) (BitVec.allOnes 32)).toNat * 2 ^ 32 + (votes.foldl (· ||| ·) 0).toNat)) }
          else f)) ∧
      (∀ l, l ∉ d.members → t.tile l = s.tile l) ∧ t.mem = s.mem

/-- R358, R359, R362, R363: a commit that passes delivers its code and LEN, writes the new LEN into its descriptor at home, and leaves STCNT; the acceptance
of a query reads GEN in the cycle after its wait, then each word at its own moment, then GEN again, and accepts the query under the next QID
or rejects it with the code; a bank folds its next token, which it skips below LO; the triple of a stack enters q15,
and the sixteenth retires the query. R322: tk.xlt delivers the number of the translations that it loaded.
R372 to R377, R383, R384: a one-sided store changes its bytes at the peer's home and leaves STCNT, one that fails sets the bits of FXERR, and
the value of a performed atomic lands; an operation that loops back to an export without a translation, or into a reserved physical range
(log entry 14), gives GONE; one of another package, an input (log entry 6), writes the bytes of its target at home and past the die caches, or nothing
where it fails, and its answer leaves with that package, whose memory and exports are data of State here (log entry 14). A fence delivers and clears
the error bits of its package; a semaphore readies the oldest waiting collective; a collective reads its input, in an all-gather its own chunk alone,
writes its bucket, notes its code and posts. A commit checks the descriptor's FORMAT at its performance (log entry 16). The values: the codes of
a commit, of the acceptance of a query and of a collective, in their order; the fold of a token into a bank's triple, the merge of two triples and
the tree of a stack's banks; the layout of the q15 entry and its status word; and the elements that a collective writes. Choices in them: the
descriptor's words 2 to 7 (log entry 16); a score of zeros (log entry 29); a route lost between two others, and rounds (log entry 30). -/
def Obligations.DeviceSteps : Prop :=
  (∀ s : State,
    let l := s.args.l
    let w := s.tile l
    (∀ x r rk ws, w.wq.commits = x :: r → x.due ≤ s.cycle → w.allBefore .feed x.after = true → w.regions[x.kv]? = some rk →
      let va := w.handleBase (sdIdx x.sd) + sdOff x.sd
      (s.homeWords (s.ctxOf l) va 8).2 = .ok ws →
      ∃ t, exec .commitComplete s = .next t ∧ (t.tile l).wq = { w.wq with commits := r } ∧ (t.tile l).feed.stcnt = w.feed.stcnt - 1 ∧
        (∀ g, w.feed.flights.find? (fun f => f.port == .wqRes && f.due.isNone) = some g → (t.tile l).feed.flights =
          w.feed.flights.map (fun f => if f.id = g.id then
            { f with due := some s.cycle, res := res64 (wqWord (commitCode ws x.n rk.cap).1 (commitCode ws x.n rk.cap).2) } else f)) ∧
        ((commitCode ws x.n rk.cap).1 ≠ 0 → t.mem = s.mem) ∧
        (∀ pas, (commitCode ws x.n rk.cap).1 = 0 → s.memoryOk = true → (s.ctx (s.ctxOf l)).pas va 8 = some pas → pas.Nodup →
          (∀ a ∈ pas, s.lineFenced (lineOf a) = false) → readAt t.mem pas = leBytes 8 x.n)) ∧
    (∀ x, w.wq.queries.find? (fun x => !x.accepted) = some x → x.due ≤ s.cycle →
      let posted := fun (t : State) (y : WqQuery) => (t.tile l).wq.queries = w.wq.queries.map (fun z => if z.accepted then z else y)
      (x.waited = none → w.allBefore .feed x.after = true → ∃ t, exec .queryAccept s = .next t ∧
        posted t { x with waited := some s.cycle, due := s.cycle + 1 }) ∧
      (∀ n s1 v, x.waited = some n → x.gen = none → s.blockWord l x.block = (s1, .ok v) → ∃ t, exec .queryAccept s = .next t ∧
        posted t { x with gen := some (field v 63 32), due := s1.nextDue }) ∧
      ∀ n gen, x.waited = some n → x.gen = some gen →
        (∀ va s1 v, x.nextRead w = some (false, va) → s.blockWord l va = (s1, .ok v) → ∃ t, exec .queryAccept s = .next t ∧
          posted t { x with got := x.got ++ [v], due := s1.nextDue }) ∧
        (∀ va s1 ws, x.nextRead w = some (true, va) → s.homeWords (s.ctxOf l) va 1 = (s1, .ok ws) → ∃ t, exec .queryAccept s = .next t ∧
          posted t { x with got := x.got ++ ws, due := s1.nextDue }) ∧
        ∀ s1 g, x.nextRead w = none → s.blockWord l x.block = (s1, .ok g) →
          let p := x.finding w gen g
          (p.1 = 0 → ∃ t, exec .queryAccept s = .next t ∧ posted t { p.2.2 with accepted := true, qid := w.wq.nextQid, due := s1.nextDue } ∧
            (t.tile l).wq.nextQid = (if w.wq.nextQid = 65535 then 1 else w.wq.nextQid + 1)) ∧
          (p.1 ≠ 0 → ∃ t, exec .queryAccept s = .next t ∧ (t.tile l).wq.queries = w.wq.queries.filter WqQuery.accepted ∧
            (t.tile l).wq.reserved = w.wq.reserved - 16 ∧ (t.tile l).feed = w.feed.landWq s.cycle (wqWord p.1 p.2.1))) ∧
    (∀ x, w.wq.queries.find? (fun x => x.accepted && x.qid == s.args.id) = some x → x.due ≤ s.cycle → s.args.n ≤ 15 → s.args.row ≤ 1023 →
      x.bankDone (s.scanOver x) s.args.n s.args.row = false →
      let b := mget x.banks (1024 * s.args.n + s.args.row) (BankScan.start x)
      let y := s.stack (Fin.ofNat 16 s.args.n)
      let stops := s.time < mget y.held s.args.row 0 ∨ s.args.row ∈ y.owed.map (·.1) ∨ s.args.row ∈ y.backOffs.map (·.1)
      (b.next % 4 = 0 → stops → exec .bankScan s = .next s) ∧ (b.next % 4 ≠ 0 ∨ ¬ stops →
      let tok := 16384 * b.next + bankToken s.args.n s.args.row
      let k := s.scanLine (s.ctxOf l) (w.handleBase x.kvh + keyOff tok)
      let v := k.1.scanLine (s.ctxOf l) (w.handleBase x.kvh + valueOff tok)
      ∃ t, exec .bankScan s = .next t ∧ (∀ j, j ≠ l → t.tile j = s.tile j) ∧ (t.tile l).spm = w.spm ∧ (∀ j, (t.tile l).strand j = w.strand j) ∧
        (t.tile l).vu = w.vu ∧ t.mem = s.mem ∧ ∃ y ∈ (t.tile l).wq.queries, y.qid = x.qid ∧
        (tok < x.lo → mget y.banks (1024 * s.args.n + s.args.row) (BankScan.start x) = { b with next := b.next + 1 }) ∧
        (∀ kl vl, x.lo ≤ tok → k.2.1 = some kl → v.2.1 = some vl → mget y.banks (1024 * s.args.n + s.args.row) (BankScan.start x) =
          { b.fold x (s.args.row / 32) (some (kl, vl)) (k.2.2 + v.2.2) with next := b.next + 1 }) ∧
        (x.lo ≤ tok → k.2.1 = none ∨ v.2.1 = none → mget y.banks (1024 * s.args.n + s.args.row) (BankScan.start x) =
          { b.fold x (s.args.row / 32) none (k.2.2 + v.2.2) with next := b.next + 1 }))) ∧
    (∀ x r, w.wq.queries = x :: r → x.accepted = true → x.due ≤ s.cycle → (∀ b < 1024, x.bankDone (s.scanOver x) x.delivered b = true) →
      ∃ t, exec .tripleDeliver s = .next t ∧ (t.tile l).wq = { w.wq with
        q15 := w.wq.q15 ++ [⟨x.parts x.delivered, s.cycle⟩], reserved := w.wq.reserved - 1,
        queries := if x.delivered = 15 then r else { x with delivered := x.delivered + 1 } :: r }) ∧
    (∀ va n due r, w.tkFlights = .xlt va n due :: r → due ≤ s.cycle → ∃ t, exec .xltLoadsComplete s = .next t ∧ (t.tile l).tkFlights = r ∧
      (t.tile l).drain = w.drain.landTk s.cycle (word (2 ^ 63 + b2n ((s.ctx (s.ctxOf l)).uncovered va n) * 2 ^ 62 +
        ((s.ctx (s.ctxOf l)).covering va n).length)) ∧ (t.tile l).spm = w.spm ∧ t.mem = s.mem)) ∧
  (∀ s : State,
    let l := s.args.l
    let w := s.tile l
    (s.args.flag = true → ∃ t, exec .fxPerform s = .next t ∧ (∀ j, t.tile j = s.tile j) ∧
      let a := s.args
      let x := s.ctx a.c
      let op := match a.row with | 0 => FxOp.st | 1 => .vst | 2 => .faa | _ => .cas
      let e := x.exports[a.id % 16]
      let f : FxOpFlight :=
        { id := 0, pc := 0, op := op, fpid := s.fpid, exp := a.id, off := a.addr, d := a.v, e := a.words.headD 0,
          xd := bytesVec (a.bytes.getD []), performed := false, value := 0, due := 0 }
      let runs := x.en = true ∧ a.addr % (if op = .vst then 64 else 8) = 0 ∧ exportErrors e x.imagePages op a.addr = 0
      (¬ runs ∨ s.loopback a.c f = none → t = s) ∧
      ∀ pas, runs → s.loopback a.c f = some pas → s.latent = [] → (∀ p ∈ pas, s.lineFenced (lineOf p) = false) →
        (∀ d, t.die d = s.die d) ∧
        (fxAtomic op = true → (∃ p ∈ pas, s.poison.contains (lineOf p) = true) → t = s) ∧
        (fxAtomic op = false ∨ (∀ p ∈ pas, s.poison.contains (lineOf p) = false) →
          t.mem = match fxNew f (readAt s.mem pas) with | some bs => writeAt s.mem (pas.zip bs) | none => s.mem)) ∧
    (∀ (f : FxOpFlight) (old : List Byte), (f.op = .st → fxNew f old = some (leBytes 8 f.d.toNat)) ∧ (f.op = .vst → fxNew f old = some (vecBytes f.xd)) ∧
      (f.op = .faa → fxNew f old = some (leBytes 8 (leNat old + f.d.toNat))) ∧
      (f.op = .cas → fxNew f old = if leNat old = f.e.toNat then some (leBytes 8 f.d.toNat) else none)) ∧
    (∀ (e : Export) (pages : List (Nat × Nat)) (o : FxOp) (off : Nat), o ∈ [FxOp.st, .vst, .faa, .cas] →
      let n := if o = .vst then 128 else 8
      exportErrors e pages o off = if e.mode = 0 then 1 else (if e.extent < off + n then 2 else 0) |||
        (if (e.mode = 3 ∨ e.mode = 2 ∧ fxAtomic o = false) ∧ touchesPage pages (e.base + off) n = false then 0 else 4)) ∧
    (∀ f, s.args.flag = false → w.fx.ops.find? (fun f => f.id == s.args.id) = some f → f.op ≠ .fence →
      (f.performed = true → f.due ≤ s.cycle → ∃ t, exec .fxPerform s = .next t ∧ (t.tile l).fx.ops = w.fx.ops.filter (fun g => g.id != f.id) ∧
        (t.tile l).drain.ldcnt = w.drain.ldcnt - 1 ∧
        (t.tile l).drain.flights = w.drain.flights.map (fun g => if g.id = f.id then { g with due := some s.cycle, res := res64 f.value } else g)) ∧
      (f.performed = false → f.due ≤ s.cycle → s.fxMay l f = true →
        (s.args.bytes = none → f.fpid = s.fpid → fxAtomic f.op = false →
          exportErrors (s.ctx (s.ctxOf l)).exports[f.exp % 16] (s.ctx (s.ctxOf l)).imagePages f.op f.off = 0 → s.loopback (s.ctxOf l) f = none →
          ∃ t, exec .fxPerform s = .next t ∧ (t.tile l).fx.ops = w.fx.ops.filter (fun g => g.id != f.id) ∧ t.mem = s.mem ∧
            mget (t.tile l).fx.err f.fpid 0 = mget w.fx.err f.fpid 0 ||| 1) ∧
        (∀ pas bs, s.args.bytes = none → f.fpid = s.fpid → fxAtomic f.op = false →
          exportErrors (s.ctx (s.ctxOf l)).exports[f.exp % 16] (s.ctx (s.ctxOf l)).imagePages f.op f.off = 0 → s.loopback (s.ctxOf l) f = some pas →
          s.latent = [] → (∀ p ∈ pas, s.lineFenced (lineOf p) = false) → fxNew f (readAt s.mem pas) = some bs →
          ∃ t, exec .fxPerform s = .next t ∧ (t.tile l).fx.ops = w.fx.ops.filter (fun g => g.id != f.id) ∧ t.mem = writeAt s.mem (pas.zip bs) ∧
            (t.tile l).drain.stcnt = w.drain.stcnt - 1 ∧ (∀ n, mget (t.tile l).fx.err n 0 = mget w.fx.err n 0) ∧ ∀ d, t.die d = s.die d) ∧
        ∀ p, f.fpid ≠ s.fpid → s.peer? f.fpid (s.ctx (s.ctxOf l)).job = some p → p.routed = true →
          s.args.bytes = none → fxAtomic f.op = false →
          let e := exportErrors p.exports[f.exp % 16] p.images f.op f.off
          ∃ t, exec .fxPerform s = .next t ∧ (t.tile l).fx.ops = w.fx.ops.filter (fun g => g.id != f.id) ∧ t.mem = s.mem ∧
            (t.tile l).drain.stcnt = w.drain.stcnt - 1 ∧
            (e ≠ 0 → t.peers = s.peers ∧ mget (t.tile l).fx.err f.fpid 0 = mget w.fx.err f.fpid 0 ||| e) ∧
            (∀ bs, e = 0 → fxNew f (readAt p.mem (span (f.va p.exports) (fxSize f.op))) = some bs →
              ∃ q ∈ t.peers, q.fpid = p.fpid ∧ q.job = p.job ∧ q.mem = writeAt p.mem ((span (f.va p.exports) (fxSize f.op)).zip bs)))) ∧
    (∀ f, w.fx.ops.find? (fun f => f.id == s.args.id) = some f → f.op = .fence → f.due ≤ s.cycle → s.fxMay l f = true →
      let bits := mget w.fx.err f.fpid 0 ||| (s.fxDo (s.ctxOf l) f).2.2
      ∃ t, exec .fenceComplete s = .next t ∧ (t.tile l).fx.ops = w.fx.ops.filter (fun g => g.id != f.id) ∧
        (t.tile l).fx.err = mdel w.fx.err f.fpid ∧ (t.tile l).drain.stcnt = w.drain.stcnt - 1 ∧ (t.tile l).drain.flights =
          w.drain.flights.map (fun g => if g.id = f.id then
            { g with due := some s.cycle, res := res64 (word ((if bits = 0 then 0 else 1) * 2 ^ 56 + bits.toNat)) } else g)) ∧
    (∀ x, w.fx.colls = [x] → x.ready = false → ∃ t, exec .collectiveReady s = .next t ∧ (t.tile l).spm = w.spm ∧
      (1 ≤ w.sem (collRsem x.ccfg) → (t.tile l).sem (collRsem x.ccfg) = w.sem (collRsem x.ccfg) - 1 ∧
        (t.tile l).fx.colls = [{ x with ready := true, order := w.copyOrder, due := s.cycle }]) ∧
      (w.sem (collRsem x.ccfg) = 0 → (t.tile l).fx.colls = [x] ∧ (t.tile l).sems = w.sems)) ∧
    ∀ x mine bs code, s.args.words = [] → w.fx.colls.find? (fun x => collId x.ccfg == s.args.id) = some x → x.ready = true → x.due ≤ s.cycle →
      w.allBefore .drain x.after = true → x.clear w s.cycle = true → (s.posted (s.ctx (s.ctxOf l)).job s.args.id).find?
        (fun p => p.fpid == s.fpid && p.uid == s.uidOf l && !p.retired) = some mine → field x.cb 13 12 = 0 → collKind x.ccfg ≠ 3 →
      let chunk := fun (c : Nat) => c * collN x.cn / collNp x.ccfg * collWidth x.cn
      collPos x.ccfg < collNp x.ccfg → bs = (w.readSpm (s.spmAddrs l (field x.cb 3 0) x.off x.bytes)).zipIdx.map (fun b =>
        if collKind x.ccfg = 2 ∧ ¬ (chunk (collPos x.ccfg) ≤ b.2 ∧ b.2 < chunk (collPos x.ccfg + 1)) then 0 else b.1) →
      s.collCode mine false = some code →
      ∃ t, exec .collectiveComplete s = .next t ∧ (t.tile l).fx.colls = w.fx.colls.filter (fun y => y != x) ∧
        ((t.tile l).fx.collDone.find? (fun p => p.1 == s.args.id)).map Prod.snd = some code ∧ t.mem = s.mem ∧
        (code = 1 ∨ code = 2 ∨ code = 5 → (t.tile l).spm = w.spm) ∧
        (code = 0 → State.inputsKnown mine (s.collInputs mine bs) = true → (t.tile l).spm = ((collOut x.cn x.ccfg (s.collInputs mine bs)).foldl (fun (y : Tile) p =>
          y.writeSpm ((s.spmAddrs l (field x.cb 3 0) (x.off + p.1 * collWidth x.cn) (collWidth x.cn)).zip (leBytes (collWidth x.cn) p.2))) w).spm) ∧
        (t.tile l).sem (field x.ccfg 29 24) =
          (if bit x.ccfg 31 then min 65535 (w.sem (field x.ccfg 29 24) + 1) else w.sem (field x.ccfg 29 24))) ∧
  (∀ (d : List Word) (n cap : Nat),
    let w := fun (i : Nat) => (d.getD i 0).toNat
    let len := w 0 % 2 ^ 48
    let bad := w 0 / 2 ^ 48 ≠ 0 ∨ w 1 / 2 ≠ 0 ∨ ∃ v ∈ d.drop 2, v ≠ 0
    (bad → commitCode d n cap = (2, 0)) ∧
    (¬ bad → (n ≤ len → commitCode d n cap = (4, len)) ∧ (len < n → cap < n → commitCode d n cap = (5, len)) ∧
      (len < n → n ≤ cap → commitCode d n cap = (0, n)))) ∧
  (∀ c v : Nat, c < 256 → v < 2 ^ 48 → (wqWord c v).toNat = c * 2 ^ 56 + v) ∧
  (∀ (t : Tile) (x : WqQuery) (gen : Nat) (g : Word) (ws ds qs : List Word), ws.length = 7 → x.got = ws ++ ds ++ qs →
    let w := fun (i : Nat) => (ws.getD (i - 1) 0).toNat
    let d := fun (i : Nat) => (ds.getD i 0).toNat
    let off := w 1 / 2 ^ 6 % 2 ^ 42 * 64
    let may := fun (r : Region) => r.mode = 0 ∨ r.mode = 2
    let p := x.finding t gen g
    let torn := g.toNat / 2 ^ 32 ≠ gen
    let lone := ∀ r, t.regions[w 1 % 16]? = some r → r.extent < off + 64
    (lone → ds = [] → (torn → p.1 = 1 ∧ p.2.1 = 0) ∧ (¬ torn → p.1 = 2 ∧ p.2.1 = 0)) ∧
    (¬ lone → ds.length = 8 →
      let kf := decide (d 1 % 2 = 1)
      let fence := w 3 % 2 ^ 48
      let lo := w 4 % 2 ^ 48
      let len := d 0 % 2 ^ 48
      let reserved := g.toNat % 2 ^ 32 ≠ 0 ∨ w 1 / 2 ^ 48 ≠ 0 ∨ w 1 / 2 ^ 4 % 4 ≠ 0 ∨ w 2 / 16 ≠ 0 ∨ w 3 / 2 ^ 48 ≠ 0 ∨ w 4 / 2 ^ 48 ≠ 0 ∨
        w 5 ≠ 0 ∨ w 6 ≠ 0 ∨ w 7 ≠ 0 ∨ d 0 / 2 ^ 48 ≠ 0 ∨ d 1 / 2 ≠ 0 ∨ ∃ i, 2 ≤ i ∧ i < 8 ∧ d i ≠ 0
      let bad := reserved ∨ (∀ r, t.regions[w 2 % 16]? = some r → r.weevil = false ∨ ¬ may r) ∨
        (∃ r, t.regions[w 1 % 16]? = some r ∧ ¬ may r) ∨ x.room < 64 + (if kf then 256 else 128) ∨ fence < lo
      (torn → p.1 = 1 ∧ p.2.1 = 0) ∧ (¬ torn → bad → p.1 = 2 ∧ p.2.1 = 0) ∧ (¬ torn → ¬ bad → len < fence → p.1 = 3 ∧ p.2.1 = len) ∧
      (¬ torn → ¬ bad → fence ≤ len → p.1 = 0 ∧ ∃ q, p.2.2 = { x with kf := kf, kvh := w 2 % 16, fence := fence, lo := lo, q := q } ∧
        (qs.length = (if kf then 32 else 16) → q.length = (if kf then 128 else 64) ∧
          ∀ i < q.length, (q.getD i 0).toNat = (qs.getD (i / 4) 0).toNat / 2 ^ (16 * (i % 4)) % 2 ^ 16)))) ∧
  (∀ a b : Tri,
    let num := fun (v : BitVec 32) => decodeNum .fp32 v.toNat
    let none1 : BitVec 32 := 0x7FC00000
    let r := mergeTriple a b
    let rounds := fun (v : BitVec 32) (q : ℚ) => ∃ x : Machine.Num, x.value = some q ∧ v = BitVec.ofNat 32 (roundTo x false .fp32 .rne 0).1
    (num a.m = .nan ∨ num b.m = .nan → r = ⟨none1, none1, List.replicate a.acc.length none1⟩) ∧
    (num a.m ≠ .nan → num b.m ≠ .nan → (a.m = 0xFF800000 → r = b) ∧ (a.m ≠ 0xFF800000 → b.m = 0xFF800000 → r = a)) ∧
    ∀ u v, (num a.m).value = some u → (num b.m).value = some v → r.m = (if u < v then b.m else a.m) ∧ r.acc.length = min a.acc.length b.acc.length ∧
      ∃ fa fb : ℚ, (∀ j : Nat, j ≤ 149 → u = max u v - j → fa = 1 / 2 ^ j) ∧ (∀ j : Nat, j ≤ 149 → v = max u v - j → fb = 1 / 2 ^ j) ∧
        (∀ c d, (num a.s).value = some c → (num b.s).value = some d → rounds r.s (c * fa + d * fb)) ∧
        ∀ i < r.acc.length, ∀ c d, (num (a.acc.getD i 0)).value = some c → (num (b.acc.getD i 0)).value = some d →
          rounds (r.acc.getD i 0) (c * fa + d * fb)) ∧
  (∀ (b : BankScan) (x : WqQuery) (channel ncor : Nat) (k v : Vec),
    let nums := fun (y : Vec) => (List.range (if x.kf then 128 else 64)).map (fun i =>
      if x.kf then decodeNum .e4m3 (y.toNat / 2 ^ (8 * i) % 2 ^ 8) else decodeNum .bf16 (y.toNat / 2 ^ (16 * i) % 2 ^ 16))
    let q := x.q.map (fun y => decodeNum .bf16 y.toNat)
    let finite := fun (ys : List Machine.Num) => ∀ y ∈ ys, y.value ≠ none
    let c := { b with ncor := b.ncor + ncor }
    BankScan.start x = ⟨⟨0xFF800000, 0, List.replicate (if x.kf then 128 else 64) 0⟩, 0, 0, 0, 0, 0, false⟩ ∧
    b.fold x channel none ncor = { c with npsn := b.npsn + 1, pmask := b.pmask ||| (1#32 <<< channel) } ∧
    (x.q.length = (if x.kf then 128 else 64) →
      (¬ finite (nums v) ∨ ¬ finite q ∨ ¬ finite (nums k) → b.fold x channel (some (k, v)) ncor =
        { c with tri := ⟨0x7FC00000, 0x7FC00000, List.replicate (if x.kf then 128 else 64) 0x7FC00000⟩, nf := true }) ∧
      (finite (nums v) → finite q → finite (nums k) → ∃ y : Machine.Num,
        y.value = some (((q.zip (nums k)).map (fun p => p.1.value.getD 0 * p.2.value.getD 0)).sum) ∧
        let s := (roundTo y false .fp32 .rne 0).1
        ((decodeNum .fp32 s).value = none → b.fold x channel (some (k, v)) ncor =
          { c with tri := ⟨0x7FC00000, 0x7FC00000, List.replicate (if x.kf then 128 else 64) 0x7FC00000⟩, nf := true }) ∧
        ((decodeNum .fp32 s).value ≠ none → b.fold x channel (some (k, v)) ncor =
          { c with tri := mergeTriple b.tri ⟨BitVec.ofNat 32 s, 0x3F800000, (nums v).map (fun n => BitVec.ofNat 32 (roundTo n false .fp32 .rne 0).1)⟩,
                   ntok := b.ntok + 1 })))) ∧
  (∀ (x : WqQuery) (stack : Nat), x.qid < 2 ^ 16 → stack < 16 →
    let bank := fun (b : Nat) => mget x.banks (1024 * stack + b) (BankScan.start x)
    let all := (List.range 1024).map bank
    let count := fun (f : BankScan → Nat) => (all.map f).sum
    let st := (x.status stack).toNat
    let t := x.stackTri stack
    (∃ f : Nat → Nat → Tri, (∀ b < 1024, f 0 b = (bank b).tri) ∧ t = f 10 0 ∧
      ∀ j < 10, ∀ i < 2 ^ (9 - j), f (j + 1) i = mergeTriple (f j (2 * i)) (f j (2 * i + 1))) ∧
    (st / 2 ^ 63 = 1 ↔ stack = 15) ∧ (st / 2 ^ 62 % 2 = 1 ↔ x.cancelled.isSome = true) ∧ (st / 2 ^ 61 % 2 = 1 ↔ ∃ b ∈ all, b.nf = true) ∧
    (st / 2 ^ 60 % 2 = 1 ↔ 0 < count BankScan.npsn) ∧ st / 2 ^ 56 % 16 = stack ∧ st / 2 ^ 48 % 2 ^ 8 = min 255 (count BankScan.ncor) ∧
    st / 2 ^ 40 % 2 ^ 8 = min 255 (count BankScan.npsn) ∧ st / 2 ^ 32 % 2 ^ 8 = 0 ∧ (∀ c < 32, st.testBit c = all.any (fun b => b.pmask.getLsbD c)) ∧
    (x.parts stack).length = 8 ∧
    (let p := ((x.parts stack).getD 0 0).toNat
     p % 2 ^ 32 = t.m.toNat ∧ p / 2 ^ 32 % 2 ^ 32 = t.s.toNat ∧ p / 2 ^ 64 % 2 ^ 64 = st ∧ p / 2 ^ 128 % 2 ^ 16 = x.qid ∧ p / 2 ^ 144 % 2 ^ 16 = 0 ∧
     p / 2 ^ 160 = count BankScan.ntok % 2 ^ 48) ∧
    (∀ j < 4, ∀ i < 32, lane 32 ((x.parts stack).getD (j + 1) 0) i = (t.acc.getD (32 * j + i) 0).toNat) ∧
    ∀ j, 5 ≤ j → (x.parts stack).getD j 0 = 0) ∧
  (∀ (cn cfg : Word) (inputs : List (List Byte)) (f : Fmt), collFmt cn = some f → inputs.length = cfg.toNat / 2 ^ 44 % 16 → 2 ≤ inputs.length →
    let np := inputs.length
    let n := cn.toNat % 2 ^ 32
    let wd := f.bits / 8
    let kind := cfg.toNat / 2 ^ 22 % 4
    let op := cfg.toNat / 2 ^ 20 % 4
    let pos := cfg.toNat / 2 ^ 40 % 8
    let num := decodeNum f
    let int := fun (v : Nat) => if 2 ^ (f.bits - 1) ≤ v then (v : Int) - 2 ^ f.bits else (v : Int)
    let below := fun (a b : Nat) => ltNum (num a) (num b) || ((num a).isZero && (num b).isZero && (num a).neg && !(num b).neg)
    let comb := fun (a b : Nat) =>
      if op = 0 then (if f.fp.isSome then (roundTo (addNum .rne (num a) (num b)).1 false f .rne 0).1 else (a + b) % 2 ^ f.bits)
      else if f.fp.isSome then
        (if num a = .nan ∨ num b = .nan then canonNan f else if op = 1 then (if below a b then b else a) else if below a b then a else b)
      else if op = 1 then (if int a < int b then b else a) else if int a < int b then a else b
    let x := fun (r k : Nat) => leNat (((inputs.getD (r % np) []).drop (k * wd)).take wd)
    f ∈ [Fmt.i32, .i64, .bf16, .fp32, .fp64] ∧
    ∀ k v, (k, v) ∈ collOut cn cfg inputs ↔ k < n ∧ ∃ c < np, c * n / np ≤ k ∧ k < (c + 1) * n / np ∧
      ((kind = 0 ∨ kind = 1 ∧ c = pos) ∧ (∃ s : Nat → Nat, s 1 = x (c + 1) k ∧ (∀ j, 2 ≤ j → j ≤ np → s j = comb (s (j - 1)) (x (c + j) k)) ∧ v = s np) ∨
        kind = 2 ∧ v = x c k)) ∧
  (∀ a b : Posting, a.agrees b = true ↔ collNp a.ccfg = collNp b.ccfg ∧ a.cring = b.cring ∧ collKind a.ccfg = collKind b.ccfg ∧
    (collKind a.ccfg = 3 ∨ collOp a.ccfg = collOp b.ccfg ∧ a.cn = b.cn)) ∧
  ∀ (s : State) (mine : Posting) (poison : Bool),
    let posts := s.postings.filter (fun p => p.job == mine.job && p.collid == mine.collid)
    let ms := (List.range (collNp mine.ccfg)).map (fun i => mine.cring.toNat / 2 ^ (8 * i) % 2 ^ 8)
    let other := fun (f : Nat) => if f = s.fpid then none else s.peer? f mine.job
    let gone := ∃ f ∈ ms, f ≠ s.fpid ∧ other f = none
    let met := fun (p : Posting) => p ∈ posts ∧ p.fpid ∈ ms
    let code := s.collCode mine poison
    mine ∈ posts → mine.fpid = s.fpid → (posts.map Posting.fpid).Nodup → s.fpid ∈ ms →
      ((∃ f ∈ ms, (other f).isSome = true ∧ ∀ p ∈ posts, p.fpid ≠ f) → code = none) ∧
      ((∀ f ∈ ms, (other f).isSome = true → ∃ p ∈ posts, p.fpid = f) →
        ((∃ p, met p ∧ p.dup = true) → code = some 5) ∧
        ((∀ p, met p → p.dup = false) →
          (gone → code = some 2) ∧
          (¬ gone →
            ((∃ p, met p ∧ mine.agrees p = false) → code = some 1) ∧
            ((∀ p, met p → mine.agrees p = true) →
              let broken := ∃ f ∈ ms, ∃ q, other f = some q ∧ (q.routed = false ∨ ∃ g ∈ ms, g ∈ q.lost)
              (broken → code = some 3) ∧
              (¬ broken → (∃ p, met p ∧ p.fpid ≠ s.fpid ∧ p.ready = false) → code = none) ∧
              (¬ broken → (∀ p, met p → p.fpid ≠ s.fpid → p.ready = true) →
                code = some (if poison = true ∨ (posts.any (fun p => ms.contains p.fpid && p.poisoned)) = true then 4 else 0))))))

/-! ### Tasks and kernels -/

/-- R34, R304 to R315, R319, R325, R329, R401, R26: the life of a task. The words of a launch record are read one by one, GEN again at the end;
then the launch is accepted as WAITING to be translated, or gives its code; a translated task becomes WAITING with its pages pinned; one
whose dependences are met becomes READY; it takes a tile, with its windows and records, or early, where every unmet dependence is on an ENDING
task; its records go from IDLE through PENDING to DONE once the end actions before them have ended, a STAGE_OUT reading its window first; its
strands start at their entries with the arguments in x0 to x7 and zero elsewhere; it becomes ENDING when they have ended, commits in order,
releases its tile once the windows are read, retires, and with the last of its tasks the kernel completes. Choices of the model in it: a word
of an entry or record that is lost for want of a translation or to poison answers the launch with code 5 and ends no kernel, while a queue entry
without a translation waits (entry 26); a latency is free (entry 8); the firmware's choice to place a task early is free (entry 7); the kernel and tasks a
rollback or checkpoint holds back, the end actions that `State.startMay` waits for and the dependences that `State.depsMet` counts
(entries 19 and 27). -/
def Obligations.TaskLifecycle : Prop :=
  (∀ s : State,
    let l := s.args.l
    let c := s.args.c
    let x := s.ctx c
    (∀ after r rest t0, s.args.flag = true → (s.tile l).tkFlights = .launch after r :: rest → s.taskOn l = some t0 → r.due ≤ s.cycle →
      (s.tile l).allBefore .drain after = true →
      let n := if r.got.gang then r.got.gw * r.got.gh else 1
      let lands := fun (t : State) (code : Nat) => (t.tile l).tkFlights = rest ∧
        (t.tile l).drain = (s.tile l).drain.landTk s.cycle (word (code * 2 ^ 56 + r.got.taskid))
      (∀ u r1, s.readStep (s.ctxOf l) (some l) r = (u, .more r1) → ∃ t, exec .launchAccept s = .next t ∧
        (t.tile l).tkFlights = .launch after r1 :: rest ∧ (t.tile l).drain = (s.tile l).drain) ∧
      (∀ u gen, s.readStep (s.ctxOf l) (some l) r = (u, .whole gen) →
        let code := u.launchCode (s.ctxOf l) t0.kid (some t0) r.got gen
        ∃ t, exec .launchAccept s = .next t ∧ lands t code ∧
          (code ≠ 0 → (t.ctx (s.ctxOf l)).tasks = (u.ctx (s.ctxOf l)).tasks ∧ t.mem = u.mem) ∧
          (code = 0 → ∀ i < n, r.got.task ((u.ctx (s.ctxOf l)).nextUid + i) t0.kid (u.ctx (s.ctxOf l)).nextUid i none ∈
            (t.ctx (s.ctxOf l)).tasks)) ∧
      ∀ u, s.readStep (s.ctxOf l) (some l) r = (u, .lost) → ∃ t, exec .launchAccept s = .next t ∧ lands t 5 ∧
        (t.ctx (s.ctxOf l)).tasks = (u.ctx (s.ctxOf l)).tasks) ∧
    (s.args.flag = false → x.lqhead = x.lqtail → exec .launchAccept s = .next s) ∧
    (s.args.flag = false → x.en = true → s.recovery = false → x.lqhead ≠ x.lqtail → x.ckpt = false → x.recovery = none →
      let taken := fun (t : State) (last : Bool) =>
        (t.ctx c).lqhead = x.lqhead + 1 ∧ (t.ctx c).reading = none ∧ (last = true → (t.ctx c).openKernel = none)
      let here := x.pas (x.lqbase.toNat + 16 * (x.lqhead.toNat % queueSize x.lqcfg)) 16
      (x.reading = none → here = none → exec .launchAccept s = .next s) ∧
      (x.reading = none → here.isSome = true → (s.readQueue c).2 = none → ∃ t, exec .launchAccept s = .next t ∧ taken t false) ∧
      (∀ u w0 w1, x.reading = none → here.isSome = true → s.readQueue c = (u, some (w0, w1)) →
        let bad := field w0 47 0 % 64 ≠ 0 ∨ field w0 62 48 ≠ 0 ∨ w1 ≠ 0
        (bad → ∃ t, exec .launchAccept s = .next t ∧ taken t (bit w0 63)) ∧
        (¬bad → ∃ t, exec .launchAccept s = .next t ∧ (t.ctx c).reading = some ⟨field w0 47 0, bit w0 63, ⟨[], [], []⟩, u.nextDue⟩ ∧
          (t.ctx c).lqhead = x.lqhead)) ∧
      ∀ r, x.reading = some r → r.due ≤ s.cycle →
        (∀ u r1, s.readStep c none r = (u, .more r1) → ∃ t, exec .launchAccept s = .next t ∧ (t.ctx c).reading = some r1 ∧
          (t.ctx c).lqhead = x.lqhead) ∧
        (∀ u gen, s.readStep c none r = (u, .whole gen) → ∃ t, exec .launchAccept s = .next t ∧ taken t r.last) ∧
        ∀ u, s.readStep c none r = (u, .lost) → ∃ t, exec .launchAccept s = .next t ∧ taken t r.last) ∧
    ∀ k, x.kernels.find? (fun k => k.kid == s.args.n && k.alive) = some k →
      (k.closed = false → exec .kernelComplete s = .next s) ∧
      (k.closed = true → (∀ q ∈ x.tasks, q.kid = s.args.n → q.state = .retired) → (∀ j ∈ x.kernels, j.alive = true → j.kid = s.args.n) →
        x.ckpt = false → x.recovery = none → queueSize x.cqcfg ≤ queueFill x.cqtail x.cqhead →
        ∃ t, exec .kernelComplete s = .next t ∧ (t.ctx c).kernels = x.kernels.filter (fun j => j.kid != s.args.n) ∧
          (t.ctx c).tasks = x.tasks.filter (fun q => q.kid != s.args.n) ∧ (t.ctx c).cqHeld = x.cqHeld ++ [⟨2, 0, 0, s.args.n, k.retired⟩] ∧
          t.mem = s.mem)) ∧
  (∀ (s : State) (q : Task),
    let c := s.args.c
    let x := s.ctx c
    x.task? s.args.uid = some q →
    (q.state = .accepted → s.refuses x q = false → (∀ u ∈ q.units (fun _ => true), (x.translate u).isSome = true) →
      ∃ t, exec .translationComplete s = .next t ∧ (t.ctx c).task? q.uid = some { q with state := .waiting } ∧
        (∀ u ∈ q.units (fun r => !r.lazyMap && !r.pinned), (u, 2 * q.uid) ∈ (t.ctx c).pins) ∧
        (∀ u ∈ q.units (fun r => !r.lazyMap && r.pinned), (u, 2 * q.kid + 1) ∈ (t.ctx c).pins) ∧ t.mem = s.mem) ∧
    (q.state = .waiting → x.recovery = none → s.depsMet c q = true → ∃ t, exec .taskPlace s = .next t ∧
      (t.ctx c).task? q.uid = some { q with state := .ready, readyAt := s.time }) ∧
    (q.state = .waiting → q.spec = false → q.gang = false → s.depsMet c q = false → s.early c q = false ∨ q.parked = true →
      exec .taskPlace s = .next s) ∧
    (∀ l n, q.state = .waiting → q.spec = false → q.gang = false → q.marked = false → q.parked = false → s.depsMet c q = false → s.early c q = true →
      x.recovery = none → x.ckpt = false → s.outranked c q = false → s.placement c q = some ([l], [n], none) →
      ∃ t, exec .taskPlace s = .next t ∧ (t = s.bump ∨ (t.tile l).owner = some (c, q.uid))) ∧
    (∀ l n, q.state = .ready → q.parked = false → x.ckpt = false → x.recovery = none → q.gang = false → q.marked = false →
      s.outranked c q = false → s.placement c q = some ([l], [n], none) → ∃ t, exec .taskPlace s = .next t ∧
        (t.tile l).owner = some (c, q.uid) ∧ (t.tile l).windows = q.windows ∧ (t.tile l).regions = q.regions ∧ (t.tile l).live = false ∧
        (t.tile l).spm = (if (s.tile l).lastCtx = some c then (s.tile l).spm else []) ∧
        ∃ p, (t.ctx c).task? q.uid = some p ∧ p.state = .starting ∧ p.ltn = some l ∧ p.slot = some n ∧ p.started = q.started) ∧
    (∀ l, q.state = .starting → q.hasImage = false → q.gang = false → q.ltn = some l → (s.tile l).owner = some (c, q.uid) →
      (s.tile l).feed.fault = none → (s.tile l).stop = .none → (∀ r ∈ (s.tile l).regions, r.est = 2) → s.depsMet c q = true → x.ckpt = false →
      x.recovery = none →
      ∃ t, exec .taskStart s = .next t ∧ (t.tile l).live = true ∧ (t.tile l).spm = (s.tile l).spm ∧
        (t.ctx c).task? q.uid = some { q with state := .running, started := s.cycle, agentMail := [] } ∧
        ((t.tile l).feed.pc = q.entryF ∧ (t.tile l).compute.pc = q.entryC ∧ (t.tile l).drain.pc = q.entryD) ∧
        ∀ k, ((t.tile l).strand k).run = .running ∧ ∀ n : Fin 64, ((t.tile l).strand k).x[n] = if n.val < 8 then q.args.getD n.val 0 else 0) ∧
    (q.state = .ending → q.committed = false → q.conflict = false → s.aborting c q = false → x.recovery = none → (∀ p ∈ x.tasks, p.keyBelow q = true → regionsOverlap p.regions q.regions = true → p.committed = true) →
      ∃ t, exec .taskCommit s = .next t ∧ (t.ctx c).task? q.uid = some { q with committed := true } ∧
        ∀ d, ∀ h ∈ (t.die d).held, ¬(h.ctx = c ∧ h.uid = q.uid)) ∧
    (∀ p ∈ x.tasks, q.state = .ending → q.committed = false → q.conflict = false → x.ckpt = false → p.keyBelow q = true → p.uid ≠ q.uid → p.committed = false → p.state = .running →
      p.gang = false → regionsOverlap p.regions q.regions = true → exec .taskCommit s = .next s) ∧
    (q.state = .ending → q.committed = true → s.onTile c q = none → (∀ r ∈ q.regions, r.ended = true ∧ r.est = 2) →
      ∃ t, exec .taskRetire s = .next t ∧ (t.ctx c).task? q.uid = some { q with state := .retired, slot := none } ∧
        (t.ctx c).pins = x.pins.filter (fun p => p.2 != 2 * q.uid) ∧
        (t.ctx c).kernels = x.kernels.map (fun k => if k.kid = q.kid then { k with retired := k.retired + 1 } else k)) ∧
    ∀ l, s.onTile c q = some l →
      let w := s.tile l
      (q.state = .running → (∀ k, (w.strand k).run = .ended ∧ (w.strand k).fault = none) → w.quiet l s.cycle false = true → w.stop = .none →
        ∃ t, exec .taskFinish s = .next t ∧ (t.ctx c).task? q.uid = some { q with state := .ending, noticed := none } ∧ t.tile l = w) ∧
      (∀ k, q.state = .running → (w.strand k).run = .running → exec .taskFinish s = .next s) ∧
      (q.state = .ending → w.stop ≠ .aborting → (∀ r ∈ w.regions, r.stageOut = true → r.windowRead = true) →
        ∃ t, exec .tileRelease s = .next t ∧ (t.tile l).owner = none ∧ (t.tile l).live = false ∧ (t.tile l).spm = w.spm ∧ t.mem = s.mem) ∧
      ∀ r, w.regions[s.args.n]? = some r → w.stop ≠ .aborting →
        (q.state = .starting → q.hasImage = false → r.est = 0 →
          (r.mode = 1 ∨ r.mode = 3 → ∃ t, exec .startAction s = .next t ∧ (t.tile l).regions[s.args.n]? = some { r with est := 2 }) ∧
          (¬(r.mode = 1 ∨ r.mode = 3) → s.startMay c q r = false → exec .startAction s = .next s) ∧
          (¬(r.mode = 1 ∨ r.mode = 3) → s.startMay c q r = true → ∃ t, exec .startAction s = .next t ∧
            (t.tile l).regions[s.args.n]? = some { r with est := 1, ending := false, due := s.nextDue })) ∧
        (q.ltn = some l → r.est = 1 → s.specRoom l [(r.base, r.extent)] = false → (if r.ending then r.stageOut else r.stageIn) = true →
          exec .edgeActionComplete s = .next s) ∧
        (q.ltn = some l → r.est = 1 → r.due ≤ s.cycle → r.ending = false → (r.stageIn = true → s.specRoom l [(r.base, r.extent)] = true) →
          ∃ t, exec .edgeActionComplete s = .next t ∧ (t.tile l).regions[s.args.n]? = some { r with est := 2 } ∧
            (r.mode = 1 ∨ r.mode = 3 → (t.tile l).spm = w.spm) ∧
            ∀ u bs, (r.mode = 0 ∨ r.mode = 2) → r.stageIn = true → 0 < r.extent → r.extent ≤ 128 →
              (s.acquireRange (dieOf l) c r.base r.extent).readGlobal l r.base r.extent = (u, .ok bs) →
              (t.tile l).spm = (w.writeSpm (((span (w.window r.win).base r.extent).map some).zip bs)).spm) ∧
        (q.ltn = some l → r.est = 1 → r.due ≤ s.cycle → r.ending = true → r.stageOut = true → r.windowRead = false →
          s.specRoom l [(r.base, r.extent)] = true → ∃ t, exec .edgeActionComplete s = .next t ∧ (t.tile l).spm = w.spm ∧ (t.tile l).regions[s.args.n]? =
            some { r with windowRead := true, staged := if r.mode = 3 then w.windowBytes r.win r.extent else [], due := s.nextDue }) ∧
        (q.ltn = some l → r.est = 1 → r.due ≤ s.cycle → r.ending = true →
          (r.stageOut = true → r.windowRead = true ∧ s.specRoom l [(r.base, r.extent)] = true) → x.tasks = [q] →
          ∃ t, exec .edgeActionComplete s = .next t ∧
            (t.tile l).regions[s.args.n]? = some { r with est := 2, ending := false, ended := true, staged := [] }) ∧
        (q.ltn = some l → r.est = 2 → s.endReady c q s.args.n r = true → r.mode ≠ 0 → ∃ t, exec .edgeActionComplete s = .next t ∧
          (t.tile l).regions[s.args.n]? = some { r with est := 1, ending := true, due := s.nextDue }))

/-- R142, R144, R145, R149, R324, R337, R419: a stop asked for, or announced 20 µs ago, sends the token through feed, compute and drain, each of
which halts where it did not issue or has run on for 64 bundles; a settled stop saves the image, and the task is STOPPED and leaves its tile
with the SPM bytes in place; a fault, and an aborted domain at its next bar or xsend or at its deadline, stops every strand at once and parks
the task, and a fault is carried to the other members of the gang; a stopped task is placed again, unless it is parked or a record of it is
held, and starts again when its dependences are satisfied; the victim of a pre-emption gets its notice in the mailbox of its drain strand; the
watchdog asks for the stop of a task of its kernel; a tile that fails 10 probes is fenced. R330 to R335: a checkpoint empties the log with
no dirty line left; poison, an abort and a fence stop every task of the context at once, a fence after DOMAIN_ABORT has reached the other members
of the gang; when their copies and queries have run out, every task is off its tile, no task or kernel of an aborted kernel is left, and the
rollback is counted; a fenced tile takes the lowest spare. Choices of the model in it: a log record of 136 bytes (entry 13); one
pre-emption victim at a time (entry 19); the fence's wait for the other members, what a draining or parked task does with a further fault, and
what a checkpoint waits for (entry 27); the watchdog counting anew and the host's leave to resume (entry 18), and its acting at the end of
the millisecond of WDOG (entry 29). -/
def Obligations.Stops : Prop :=
  (∀ s : State,
    let l := s.args.l
    let c := s.ctxOf l
    let x := s.ctx c
    let w := s.tile l
    let st := w.strand s.args.k
    let allStop := fun (t : State) => (t.tile l).stop = .draining ∧ (t.tile l).spm = w.spm ∧ ∀ k, ((t.tile l).strand k).token = none ∧
      ((t.tile l).strand k).run = (if (w.strand k).run = .running then .halted else (w.strand k).run) ∧ ((t.tile l).strand k).pc = (w.strand k).pc
    let parks := fun (t : State) (uid : Nat) => ∃ p, (t.ctx c).task? uid = some p ∧ p.parked = true
    let halted := fun (t : State) => ∀ p ∈ x.tasks, ∀ m, s.onTile c p = some m → (t.tile m).live = false ∧ (t.tile m).stop = .aborting ∧
      (t.tile m).spm = (s.tile m).spm
    (w.stop = .requested ∨ (w.stop = .none ∧ (s.taskOn l).any (fun q => q.noticed.any (fun n => s.elapsed n 20000)) = true) →
      s.mayStop l = true → (s.taskOn l).any (fun q => q.state == .running || q.state == .starting) = true →
      (w.live = true → ∃ t, exec .stopTokenInject s = .next t ∧ (t.tile l).stop = .token ∧
        (t.tile l).feed = { w.feed with token := some 0 } ∧ (t.tile l).compute = { w.compute with token := some 65 } ∧
        (t.tile l).drain = w.drain ∧ (t.tile l).spm = w.spm) ∧
      (w.live = false → ∃ t, exec .stopTokenInject s = .next t ∧ (t.tile l).stop = .draining ∧ (t.tile l).spm = w.spm)) ∧
    (s.mayStop l = false ∨ (∀ q, s.taskOn l = some q → q.state ≠ .running ∧ q.state ≠ .starting) → exec .stopTokenInject s = .next s) ∧
    (∀ n, w.stop = .token → st.token = some n →
      (n = 65 → ∃ t, exec .strandHaltOnToken s = .next t ∧ (t.tile l).strand s.args.k = { st with token := some 64 }) ∧
      (n ≠ 65 → n ≠ 0 → s.args.k ≠ .feed → st.run = .running → st.issuedAt = s.cycle + 1 → exec .strandHaltOnToken s = .next s) ∧
      (n ≠ 65 → (n = 0 ∨ s.args.k = .feed ∨ st.run ≠ .running ∨ st.issuedAt ≠ s.cycle + 1) → ∃ t, exec .strandHaltOnToken s = .next t ∧
        ((t.tile l).strand s.args.k).run = (if st.run = .running then .halted else st.run) ∧ ((t.tile l).strand s.args.k).token = none ∧
        ((t.tile l).strand s.args.k).pc = st.pc ∧ (s.args.k = .compute → (t.tile l).drain = { w.drain with token := some 65 }) ∧
        (s.args.k = .drain → (t.tile l).stop = .draining))) ∧
    (∀ q, s.taskOn l = some q → w.live = true → w.faulted = true → w.poisoned = false → (w.stop = .draining → q.parked = false) →
      ∃ t, exec .taskFault s = .next t ∧ parks t q.uid ∧ (w.stop ≠ .draining → allStop t) ∧ (w.stop = .draining → (t.tile l).stop = .draining) ∧
        ∀ p ∈ x.members q, ∀ m, q.gang = true → p.uid ≠ q.uid → s.onTile c p = some m → parks t p.uid ∧
          ((s.tile m).abort = none → (s.tile m).stop ≠ .aborting → (t.tile m).abort = some ⟨.domainAbort, word l, s.time + 342 * 20000⟩)) ∧
    (∀ q, s.taskOn l = some q → w.stop = .draining → q.parked = true → exec .taskFault s = .next (s.traceFaults l)) ∧
    (w.faulted = false → exec .taskFault s = .next (s.traceFaults l)) ∧
    (w.abortPends = true → w.live = true → s.abortPoint l = true → ∃ t, exec .domainAbort s = .next t ∧ allStop t ∧
      ∀ q, s.taskOn l = some q → parks t q.uid) ∧
    (s.abortPoint l = false → exec .domainAbort s = .next s) ∧
    ((∃ q, s.taskOn l = some q ∧ q.state = .ending) → exec .domainAbortDeadline s = .next s) ∧
    (∀ a, w.abortPends = true → w.abort = some a → (a.deadline ≤ s.time → (∀ q, s.taskOn l = some q → q.state ≠ .ending) → ∃ t, exec .domainAbortDeadline s = .next t ∧ allStop t ∧
        ∀ q, s.taskOn l = some q → parks t q.uid) ∧
      (s.time < a.deadline → exec .domainAbortDeadline s = .next s)) ∧
    (∀ q, s.taskOn l = some q → q.ltn = some l → q.speculating = false → (x.tasks.map Task.uid).Nodup → x.recovery = none →
      w.live = true → s.stopSettled l = true → s.gangSettled c l q = true → ∃ t, exec .stopComplete s = .next t ∧
        (t.tile l).owner = none ∧ (t.tile l).live = false ∧ (t.tile l).spm = w.spm ∧
        ∃ p, (t.ctx c).task? q.uid = some p ∧ p.state = .stopped ∧ p.hasImage = true ∧ p.ltn = none ∧ p.slot = q.slot) ∧
    (s.stopSettled l = false → exec .stopComplete s = .next s) ∧
    (s.elapsed w.probedAt 1000000 = false → exec .hangProbe s = .next s) ∧
    (s.elapsed w.probedAt 1000000 = true → ∃ t, exec .hangProbe s = .next t ∧ (t.tile l).probedAt = s.time ∧
      (s.args.flag = true → (t.tile l).probes = 0) ∧
      (s.args.flag = false → w.probes + 1 < 10 → (t.tile l).probes = w.probes + 1 ∧ (t.tile l).fenced = w.fenced) ∧
      (s.args.flag = false → 9 ≤ w.probes → s.taskOn l = none → (s.die (dieOf l)).spares = [] → (t.tile l).fenced = true)) ∧
    (w.fenced = true → exec .tileFence s = .next s) ∧
    (w.fenced = false → s.taskOn l = none → ∃ t, exec .tileFence s = .next t ∧
      ((s.die (dieOf l)).spares = [] → (t.tile l).fenced = true ∧ (t.tile l).live = false) ∧
      ∀ p, (s.die (dieOf l)).spares.min? = some p → (t.tile l).fenced = false ∧ (t.tile l).phys = some p ∧ (t.tile l).spm = [] ∧
        (t.die (dieOf l)).spares = (s.die (dieOf l)).spares.filter (fun j => j != p)) ∧
    (∀ q, w.fenced = false → s.taskOn l = some q → q.ltn = some l → x.recovery = none →
      (q.gang = false → ∃ t, exec .tileFence s = .next t ∧ (t.tile l).fenced = true ∧ halted t ∧
        ∃ r, (t.ctx c).recovery = some r ∧ r.named = [] ∧ r.error = true ∧ r.halted = true ∧ r.causes = [abortRecord q l l]) ∧
      ∀ p ∈ x.members q, ∀ m, q.gang = true → p.uid ≠ q.uid → s.onTile c p = some m → (s.tile m).abort = none → (s.tile m).stop ≠ .draining →
        (s.tile m).stop ≠ .aborting → ∃ t, exec .tileFence s = .next t ∧ (t.tile l).fenced = true ∧
          (t.tile m).abort = some ⟨.domainAbort, word l, s.time + 342 * 20000⟩ ∧
          ∃ r, (t.ctx c).recovery = some r ∧ m ∈ r.waits ∧ r.halted = false) ∧
    (∀ q f p, s.args.flag = false → s.args.row ≠ 1 → s.taskOn l = some q → q.ltn = some l → w.stop ≠ .aborting → x.recovery = none →
      w.feed.fault = some f → f.poison = some p → ∃ t, exec .rollback s = .next t ∧ halted t ∧
        ∃ r, (t.ctx c).recovery = some r ∧ r.error = true ∧ r.halted = true ∧ (p.1 = 1 → r.named = [q.kid]))) ∧
  ∀ s : State,
    let c := s.args.c
    let x := s.ctx c
    (∀ q l, x.task? s.args.uid = some q → x.ckpt = false → x.recovery = none → q.gang = false → s.onTile c q = some l → q.state = .starting →
      q.hasImage = true →
      let bad := ∃ pl ∈ s.imageLines c (q.slot.getD 0), s.linePoison pl = true
      ((s.tile l).stop = .none → (∀ r ∈ (s.tile l).regions, r.est = 2) → q.speculating = true ∨ s.depsMet c q = true → s.latent = [] →
        (¬ bad → ∃ t, exec .taskResume s = .next t ∧ (t.tile l).live = true ∧ (t.tile l).since = s.firstCycle ∧
          ∃ p, (t.ctx c).task? q.uid = some p ∧ p.state = .running ∧ p.started = s.cycle ∧ p.heldMail = []) ∧
        (bad → ∃ t, exec .taskResume s = .next t ∧ (t.tile l).live = false ∧ (t.tile l).spm = (s.tile l).spm ∧
          ∃ r, (t.ctx c).recovery = some r ∧ r.error = true ∧ r.halted = true)) ∧
      ((q.speculating = false ∧ s.depsMet c q = false) ∨ (∃ r ∈ (s.tile l).regions, r.est ≠ 2) → exec .taskResume s = .next s)) ∧
    (∀ q l, x.task? s.args.uid = some q → x.ckpt = false → x.recovery = none → q.gang = false → q.state = .stopped → q.marked = false →
      q.parked = false → s.args.flag = false → x.recordHeld q = false → (∀ y ∈ s.ctxs, ∀ z ∈ y.2.tasks, z.state ≠ .ready) →
      s.choose q = some [l] → ∃ t, exec .taskResume s = .next t ∧
        (t.tile l).owner = some (c, q.uid) ∧ ∃ p, (t.ctx c).task? q.uid = some p ∧ p.state = .starting ∧ p.ltn = some l ∧ p.hasImage = q.hasImage) ∧
    (∀ q, x.task? s.args.uid = some q → x.ckpt = false → x.recovery = none → s.args.flag = true → q.marked = false → q.gang = false →
      q.state = .stopped ∨ ((q.state = .waiting ∨ q.state = .ready) ∧ x.recordHeld q = false) → ∃ t, exec .taskResume s = .next t ∧
        ∃ p, (t.ctx c).task? q.uid = some p ∧ p.parked = false) ∧
    (∀ q, x.task? s.args.uid = some q → q.state = .waiting ∨ q.state = .ready → x.recordHeld q = true → exec .taskResume s = .next s) ∧
    (∀ q, x.task? s.args.uid = some q → q.state = .stopped → q.marked = false → s.args.flag = false →
      q.parked = true ∨ (q.gang = false ∧ x.recordHeld q = true) → exec .taskResume s = .next s) ∧
    (∀ q e v l, x.task? s.args.uid = some q →
      let all := s.ctxs.flatMap (fun p => p.2.tasks.map (fun q => (p.1, q)))
      q.state = .ready → q.parked = false → s.elapsed q.readyAt 100000 = true → s.placement c q = none →
      (∀ p ∈ all, p.2.noticed = none) → firstBy (fun p q => victimBefore p.2 q.2) (all.filter (fun p => p.2.state == .running &&
        decide (p.2.prio < q.prio) && (s.onTile p.1 p.2).any (fun l => (s.tile l).stop == .none && s.mayStop l))) = some (e, v) →
      v.speculating = false → v.gang = false → (s.ctx e).task? v.uid = some v → s.onTile e v = some l →
      ∃ t, exec .preemptNotice s = .next t ∧ (t.ctx e).task? v.uid = some { v with noticed := some s.time } ∧
        (t.tile l).drain.mailHeld = (s.tile l).drain.mailHeld ++ [mailWord 4 0xFFF (2 ^ 40 + s.cyclesOf 20000 % 2 ^ 32)]) ∧
    (∀ q, x.task? s.args.uid = some q → s.elapsed q.readyAt 100000 = false → exec .preemptNotice s = .next s) ∧
    (x.ckpt = false → x.recovery = none → x.en = true → 0 < x.logsize.toNat → 7 * x.logsize.toNat ≤ 8 * (136 * x.log.length) →
      ∃ t, exec .checkpoint s = .next t ∧ (t.ctx c).ckpt = true ∧ (t.ctx c).log = x.log ∧ t.mem = s.mem) ∧
    (∀ q l, x.ckpt = true → x.recovery = none → x.tasks = [q] → q.state = .running → q.speculating = false → s.onTile c q = some l →
      (s.tile l).stop = .none → (s.tile l).finished l s.cycle = false → ∃ t, exec .checkpoint s = .next t ∧ (t.ctx c).ckpt = true ∧
        t.tile l = { s.tile l with stop := .requested } ∧ t.mem = s.mem) ∧
    (x.ckpt = true → x.recovery = none → x.tasks = [] → ∃ t, exec .checkpoint s = .next t ∧ (t.ctx c).ckpt = false ∧ (t.ctx c).log = [] ∧
      (t.ctx c).boundary = [] ∧ ∀ d pl y, mfind (t.die d).cache pl = some y → c ∈ y.writers → y.dirty = 0) ∧
    (∀ k, x.kernels.find? (fun k => k.kid == s.args.n && k.alive) = some k →
      (s.args.flag = true → x.recovery = none → ∃ t, exec .kernelAbort s = .next t ∧
        (∃ r, (t.ctx c).recovery = some r ∧ r.named = [s.args.n] ∧ r.error = false ∧ r.halted = true) ∧
        ∀ p ∈ x.tasks, ∀ m, s.onTile c p = some m → (t.tile m).live = false ∧ (t.tile m).stop = .aborting ∧ (t.tile m).spm = (s.tile m).spm) ∧
      (s.args.flag = false → (∀ q ∈ x.tasks, q.kid = s.args.n → q.state ≠ .accepted) → exec .kernelAbort s = .next s) ∧
      (x.wdog = 0 → exec .watchdog s = .next s) ∧
      (s.elapsed k.startedAt ((x.wdog.toNat + 1) * 1000000) = false → exec .watchdog s = .next s) ∧
      ∀ q l, x.wdog ≠ 0 → s.elapsed k.startedAt ((x.wdog.toNat + 1) * 1000000) = true → x.tasks = [q] → q.kid = s.args.n →
        q.state = .running ∨ q.state = .starting → q.speculating = false → s.onTile c q = some l → (s.tile l).stop ≠ .aborting → (s.tile l).abort = none →
        ∃ t, exec .watchdog s = .next t ∧ (t.tile l).stop = (if (s.tile l).stop = .none then .requested else (s.tile l).stop) ∧
          (t.tile l).abort = some ⟨.watchdog, x.wdog, s.time⟩ ∧ (t.ctx c).task? q.uid = some { q with parked := true, noticed := none } ∧
          ∀ j ∈ (t.ctx c).kernels, j.kid = s.args.n → j.startedAt = s.time) ∧
    ∀ r, s.args.flag = false → s.args.row = 1 → x.recovery = some r → r.halted = true → (x.tasks.map Task.uid).Nodup →
      (∀ q ∈ x.tasks, ∀ l, s.onTile c q = some l → (s.tile l).ranOut = true) → ∃ t, exec .rollback s = .next t ∧ (t.ctx c).recovery = none ∧
        (t.ctx c).ckpt = false ∧ (t.ctx c).rollbacks = x.rollbacks + 1 ∧
        (∀ q ∈ x.tasks, ∀ l, s.onTile c q = some l → (t.tile l).owner = none ∧ (t.tile l).live = false) ∧
        (∀ k ∈ x.kernels, k.alive = true → k.kid ∈ r.named ∨ k.fxUsed = true →
          (∀ j ∈ (t.ctx c).kernels, j.kid ≠ k.kid) ∧ ∀ q ∈ (t.ctx c).tasks, q.kid ≠ k.kid) ∧
        (x.boundary = [] → (∀ q ∈ x.tasks, q.uid < x.boundaryUid) → (t.ctx c).log = [])

/-! ### The host, the firmware, the stacks and gyld -/

/-- R406 to R414, R150 to R152, R370, R418: what a host access does: LQTAIL, CQHEAD and FQHEAD take a count that fits their queue; a vector is
raised once for what was written, at most once per microsecond; a page response ends its request, and IMPOSSIBLE refuses the tasks that wait
for the page; a message from the host is held for the mailbox of its strand; CTXCTL sets EN, WEIGHT and JOB; a debug command halts, resumes
or steps its strand; FEAT_ACC takes its first write; PWRLIM its clamped value; the other registers their value, or nothing while the
context is enabled; BAR0 has pages for contexts 0 to 255; device memory is read and written at home. Choices of the model in it: packages join
and leave as inputs (entry 6), an access to BAR0 is a flagged REGISTER_WRITE where it reads (entry 17), and a CTXCTL write refused its EN change
still sets WEIGHT and JOB (entry 18). -/
def Obligations.HostRegisters : Prop :=
  ∀ s : State,
    let a := s.args
    let c := a.c
    let x := s.ctx c
    let n : BitVec 32 := a.v.setWidth 32
    let full := queueSize x.cqcfg ≤ queueFill x.cqtail x.cqhead
    (256 ≤ c → a.flag = false → (∀ i ∈ [Instr.launchQueueDoorbell, .cqheadWrite, .fqheadWrite, .pgrespWrite, .hmsgbWrite, .ctxctlWrite, .dbgcmdHalt,
      .dbgcmdResume, .dbgcmdStep], exec i s = .next (s.reply ⟨[], false, true⟩))) ∧
    (c < 256 → s.ready = true →
      (countOk x.lqcfg n x.lqhead = true → ∃ t, exec .launchQueueDoorbell s = .next t ∧ t.ctx c = { x with lqtail := n } ∧ t.mem = s.mem) ∧
      (countOk x.lqcfg n x.lqhead = false → full → ∃ t, exec .launchQueueDoorbell s = .next t ∧
        t.ctx c = { x with cqHeld := x.cqHeld ++ [⟨7, 0, n.toNat, 0, 0⟩] }) ∧
      (countOk x.cqcfg x.cqtail n = true → ∃ t, exec .cqheadWrite s = .next t ∧ (t.ctx c).cqhead = n) ∧
      (countOk x.cqcfg x.cqtail n = false → exec .cqheadWrite s = .next s) ∧
      (countOk x.fqcfg x.fqtail n = true → ∃ t, exec .fqheadWrite s = .next t ∧ (t.ctx c).fqhead = n) ∧
      (countOk x.fqcfg x.fqtail n = false → exec .fqheadWrite s = .next s) ∧
      (∀ u, u = field a.v 47 0 / 2 ^ 21 * 2 ^ 21 → u ∈ x.requests →
        (bit a.v 63 = true → ∃ t, exec .pgrespWrite s = .next t ∧ u ∉ (t.ctx c).requests ∧ (t.ctx c).pgresp = a.v ∧
          ∀ q ∈ x.tasks, q.state = .accepted → u ∈ q.units (fun _ => true) → q.uid ∈ (t.ctx c).impossible) ∧
        (∀ e, bit a.v 63 = false → a.xlate = some e → ∃ t, exec .pgrespWrite s = .next t ∧ u ∉ (t.ctx c).requests ∧
          (t.ctx c).xlates = (x.setXlate s.imagePhysical e).xlates)) ∧
      (field x.hmsgt 17 16 ≠ 3 → (s.tile (field x.hmsgt 10 0)).owner.any (fun o => o.1 == c) = true → ∃ t, exec .hmsgbWrite s = .next t ∧
        let k := targetStrand (word (field x.hmsgt 17 16))
        ((t.tile (field x.hmsgt 10 0)).strand k).mailHeld = ((s.tile (field x.hmsgt 10 0)).strand k).mailHeld ++ [mailWord 5 0xFFF (field a.v 47 0)] ∧
        t.ctx c = { x with hmsgb := a.v }) ∧
      (field x.hmsgt 17 16 = 3 ∨ (s.tile (field x.hmsgt 10 0)).owner.any (fun o => o.1 == c) = false → full → ∃ t, exec .hmsgbWrite s = .next t ∧
        (t.ctx c).hmsgb = a.v ∧ t.tiles = s.tiles ∧ (t.ctx c).cqHeld = x.cqHeld ++ [⟨6, 0, 0, 0, 0⟩]) ∧
      (a.flag = false → a.xlate = none → ∃ t, exec .ctxctlWrite s = .next t ∧ (t.ctx c).weight = field a.v 15 8 ∧ (t.ctx c).job = field a.v 31 16 ∧
        (t.ctx c).en = (bit a.v 0 || (x.en && (x.kernels.any Kernel.alive || x.tasks.any (fun q => !q.state.over)))) ∧
        (x.job ≠ field a.v 31 16 → (t.ctx c).fxShare = startShares)) ∧
      (∀ l k, s.debugTarget c = some (l, k) →
        let st := (s.tile l).strand k
        (st.run = .running → ∃ t, exec .dbgcmdHalt s = .next t ∧ ((t.tile l).strand k).run = .debugHalt ∧ ((t.tile l).strand k).pc = st.pc ∧
          ((t.tile l).strand k).x = st.x) ∧
        (st.run = .debugHalt → (s.tile l).stop = .none ∨ (s.tile l).stop = .requested →
          ∃ t, exec .dbgcmdResume s = .next t ∧ ((t.tile l).strand k).run = .running ∧ ((t.tile l).strand k).pc = st.pc ∧
          ((t.tile l).strand k).x = st.x ∧ ((t.tile l).strand k).resumeAt = some s.firstCycle ∧ ((t.tile l).strand k).pass = true) ∧
        (st.run = .debugHalt → (s.tile l).stop = .none ∨ (s.tile l).stop = .requested →
          ∃ t, exec .dbgcmdStep s = .next t ∧ ((t.tile l).strand k).run = .running ∧ ((t.tile l).strand k).pc = st.pc ∧
          ((t.tile l).strand k).x = st.x ∧ ((t.tile l).strand k).stepping = true) ∧
        (st.run = .debugHalt → (s.tile l).stop ≠ .none → (s.tile l).stop ≠ .requested → ∀ i ∈ [Instr.dbgcmdResume, .dbgcmdStep],
          ∃ t, exec i s = .next t ∧ ((t.tile l).strand k).run = .halted ∧ ((t.tile l).strand k).token = st.token ∧
            ((t.tile l).strand k).pc = st.pc ∧ ((t.tile l).strand k).x = st.x ∧ ((t.tile l).strand k).pass = true ∧
            (i = .dbgcmdStep → ((t.tile l).strand k).stepping = true)) ∧
        (st.run ≠ .running → exec .dbgcmdHalt s = .next s))) ∧
    (c < 256 → s.ready = false → a.flag = false → exec .launchQueueDoorbell s = .next s ∧ exec .cqheadWrite s = .next s ∧
      exec .fqheadWrite s = .next s ∧ exec .pgrespWrite s = .next s ∧ exec .hmsgbWrite s = .next s ∧ exec .ctxctlWrite s = .next s) ∧
    (a.flag = true → a.n ≠ s.fpid →
      (a.words = [] → exec .ctxctlWrite s = .next { s with peers := s.peers.filter (fun p => !(p.fpid == a.n && p.job == a.c)) }) ∧
      (a.words ≠ [] → ∃ t, exec .ctxctlWrite s = .next t ∧ t = { s with peers := t.peers } ∧
        ∃ p ∈ t.peers, p.fpid = a.n ∧ p.job = a.c ∧ p.links = (List.range 8).filter (fun k => bit (word a.id) k))) ∧
    (a.flag = false → x.cqPending = true → (x.cqRaised = 0 ∨ s.elapsed (x.cqRaised - 1) 1000 = true) → ∃ t, exec .completionVector s = .next t ∧
      mget t.irq (field x.msix 10 0) 0 = mget s.irq (field x.msix 10 0) 0 + 1 ∧
      t.ctx c = { x with cqPending := false, cqRaised := s.time + 1 }) ∧
    (a.flag = true → x.fqPending = true → (x.fqRaised = 0 ∨ s.elapsed (x.fqRaised - 1) 1000 = true) → ∃ t, exec .completionVector s = .next t ∧
      mget t.irq (field x.msix 26 16) 0 = mget s.irq (field x.msix 26 16) 0 + 1 ∧
      t.ctx c = { x with fqPending := false, fqRaised := s.time + 1 }) ∧
    (a.flag = false → x.cqPending = false ∨ (x.cqRaised ≠ 0 ∧ s.elapsed (x.cqRaised - 1) 1000 = false) → exec .completionVector s = .next s) ∧
    (∀ k : Fin 4, a.n = k.val →
      (s.featAcc[k] = none → ∃ t, exec .featAccWrite s = .next t ∧ t.featAccept k = a.v &&& (if k = 0 then 0xFF else 0) ∧
        ∀ j, j ≠ k → t.featAccept j = s.featAccept j) ∧
      ((s.featAcc[k]).isSome = true → exec .featAccWrite s = .next s)) ∧
    exec .pwrlimWrite s = .next { s with pwrlim := max 1000 (min 4200 (a.v.toNat % 2 ^ 16)) } ∧
    (∀ d < 256,
      (a.flag = false → s.ready = true → a.xlate = none → a.addr = 0x100000 + 0x1000 * d + 0x30 → ∃ t, exec .registerWrite s = .next t ∧
        t.ctx d = if (s.ctx d).en then s.ctx d else { s.ctx d with lqbase := a.v }) ∧
      (a.flag = false → s.ready = true → a.xlate = none → a.addr = 0x100000 + 0x1000 * d + 0x98 → ∃ t, exec .registerWrite s = .next t ∧
        t.ctx d = { s.ctx d with wdog := a.v }) ∧
      (a.flag = true → a.addr = 0x100000 + 0x1000 * d + 0x48 → ∃ t, exec .registerWrite s = .next t ∧
        t.replies = s.replies ++ [⟨leBytes 8 ((s.ctx d).lqhead.setWidth 64).toNat, false, false⟩] ∧ t.ctxs = s.ctxs) ∧
      (a.flag = false → s.ready = false → a.addr = 0x100000 + 0x1000 * d + 0x30 → exec .registerWrite s = .next s)) ∧
    (a.flag = true → a.addr = 0x30 → ∃ t, exec .registerWrite s = .next t ∧ t.replies = s.replies ++ [⟨leBytes 8 (word s.pwrlim).toNat, false, false⟩]) ∧
    (a.addr < 0x1000 → 0x98 ≤ a.addr → exec .registerWrite s = .next (s.reply ⟨[], false, true⟩)) ∧
    (a.bytes = none → a.addr + a.n ≤ hbmSize →
      (∀ u bs, s.homeRead (span a.addr a.n) = (u, some bs) → exec .bar2Access s = .next (u.reply ⟨bs, false, false⟩)) ∧
      (∀ u, s.homeRead (span a.addr a.n) = (u, none) → exec .bar2Access s = .next (u.reply ⟨readAt u.mem (span a.addr a.n), true, false⟩)) ∧
      (s.latent = [] → exec .bar2Access s = .next (s.reply
        ⟨readAt s.mem (span a.addr a.n), (span a.addr a.n).any (fun p => s.linePoison (lineOf p)), false⟩))) ∧
    (∀ bs, a.bytes = some bs → a.addr + bs.length ≤ hbmSize → s.memoryOk = true →
      (∀ p ∈ span a.addr bs.length, s.imagePage p = false ∧ s.lineFenced (lineOf p) = false) → ∃ t, exec .bar2Access s = .next t ∧
        readAt t.mem (span a.addr bs.length) = bs ∧ (∀ p, p ∉ span a.addr bs.length → readByte t.mem p = readByte s.mem p) ∧ t.tiles = s.tiles) ∧
    ∀ bs, a.bytes = some bs → hbmSize < a.addr + bs.length → exec .bar2Access s = .next (s.reply ⟨[], false, true⟩)

/-- R415 to R420, R380: power-on reset leaves the reset state but for the fuses, the certificate and the world outside, HBM cleared and host
memory kept; a die that passes its check extends the measurement register of its stage and boots the next one, and one that fails enters
RECOVERY, from which a good image takes it; the last stage loads the configuration; the SPDM requests are answered; on an excess the
governor lowers the clock by one step and then spaces issue, after 1 ms of margin ends the spacings, and for each further 1 ms raises the clock
by one step; a firmware update measures its
image and pauses the die for at most 5 ms; a link that fails goes out of use, with the routes that need it, until it is retrained. Choices
of the model in it: what power-on reset keeps (entry 3); the bytes of the SPDM messages are a free value, and only key and certificate
decide the certificate answer (entry 10); when the governor takes its readings and acts, and that spacings end before the first step up
(entry 11); the keys of the telemetry counts (entry 18); the record's layout, RECOVERY after a failed update, the image that ends it, and the die of a link's
replays (entry 23). -/
def Obligations.Management : Prop :=
  (∀ s : State, ∃ t, exec .powerOnReset s = .next t ∧ t.cycle = 0 ∧ t.pwrlim = 4200 ∧ t.ready = false ∧ t.tiles = [] ∧ t.ctxs = [] ∧
    t.linkTraining = true ∧ t.idKey = none ∧ t.idCert = s.idCert ∧ t.linkDown = [] ∧
    t.peers = s.peers.map (fun p => { p with routed := p.hasRoute [] }) ∧
    (∀ b, readByte t.mem b = if 0x800000000000 ≤ b then readByte s.mem b else 0) ∧
    ∀ d, (t.die d).bootStage = 0 ∧ (t.die d).minVersion = (s.die d).minVersion ∧ (t.die d).keyHash = (s.die d).keyHash) ∧
  (∀ (s : State) (d : Fin 8), s.args.n = d.val →
    let e := s.die d
    let good := s.args.img.sigOk = true ∧ s.args.img.key = e.keyHash ∧ e.minVersion ≤ s.args.img.version
    let measured := fun (t : State) (k : Nat) => ∃ h : k < 5, (t.die d).mreg[k] =
      Config.shake256 (leBytes 64 (e.mreg[k]).toNat ++ leBytes 64 s.args.img.digest.toNat)
    (e.recovery = false → e.bootStage < 4 → good → ∃ t, exec .bootStage s = .next t ∧ (t.die d).bootStage = e.bootStage + 1 ∧
      measured t e.bootStage ∧ (∀ j, j ≠ d → t.die j = s.die j) ∧ t.ready = s.ready ∧ (d = 0 → e.bootStage = 0 → t.idKey.isSome = true)) ∧
    (e.recovery = false → e.bootStage < 5 → ¬ good → ∃ t, exec .bootStage s = .next t ∧ (t.die d).recovery = true ∧ t.recovery = true ∧
      (t.die d).bootStage = e.bootStage) ∧
    (e.recovery = false → e.bootStage = 4 → recordOk s.args.words = false → ∃ t, exec .bootStage s = .next t ∧ (t.die d).recovery = true) ∧
    (e.recovery = false → e.bootStage = 4 → good → recordOk s.args.words = true → s.args.bytes = none → ∃ t, exec .bootStage s = .next t ∧
      (t.die d).bootStage = 5 ∧ measured t 4 ∧ t.configLoaded = true ∧ t.fpid = (recordWord s.args.words 0).toNat % 256 ∧
      (∀ n : Fin 16, t.hbm[n].actth = max 1024 (min 16384 (recordWord s.args.words (2 + n.val)).toNat)) ∧
      ((∀ j, j ≠ d → (s.die j).bootStage = 5 ∧ (s.die j).recovery = false) → t.ready = true ∧ t.linkTraining = false)) ∧
    (e.recovery = true → exec .bootStage s = .next s) ∧
    (e.recovery = true → e.bootStage < 4 → good → ∃ t, exec .recoveryFirmwareImage s = .next t ∧ (t.die d).recovery = false ∧
      (t.die d).bootStage = e.bootStage + 1 ∧ measured t e.bootStage) ∧
    (e.recovery = true → e.bootStage = 4 → good →
      (recordOk s.args.words = true → s.args.bytes = none → ∃ t, exec .recoveryFirmwareImage s = .next t ∧ (t.die d).recovery = false ∧
        (t.die d).bootStage = 5 ∧ measured t 4 ∧ t.configLoaded = true ∧ t.fpid = (recordWord s.args.words 0).toNat % 256) ∧
      (recordOk s.args.words = false → ∃ t, exec .recoveryFirmwareImage s = .next t ∧ (t.die d).recovery = true ∧ (t.die d).bootStage = 4)) ∧
    (e.recovery = true → e.bootStage = 5 → good → ∃ t, exec .recoveryFirmwareImage s = .next t ∧ (t.die d).recovery = false ∧
      (t.die d).bootStage = 5 ∧ measured t 2) ∧
    (e.recovery = false ∨ ¬ good → exec .recoveryFirmwareImage s = .next s) ∧
    (e.recovery = false → e.bootStage = 5 → good → ∃ t, exec .firmwareUpdate s = .next t ∧ measured t 2 ∧ s.time ≤ (t.die d).pausedUntil ∧
      (t.die d).pausedUntil ≤ s.time + 342 * 5000000 ∧ t.tiles = s.tiles ∧ t.ctxs = s.ctxs) ∧
    (e.recovery = false → e.bootStage = 5 → ¬ good → ∃ t, exec .firmwareUpdate s = .next t ∧ (t.die d).recovery = true ∧ t.recovery = true) ∧
    (e.recovery = true ∨ e.bootStage < 5 → exec .firmwareUpdate s = .next s)) ∧
  (∀ s : State, (∀ i q, (i, q) ∈ [(Instr.getVersion, SpdmRequest.getVersion), (.getCapabilities, .getCapabilities),
      (.negotiateAlgorithms, .negotiateAlgorithms), (.getDigests, .getDigests), (.getCertificate, .getCertificate), (.challenge, .challenge)] →
      ∃ t, exec i s = .next t ∧ ∃ bs, t = { s with spdm := s.spdm ++ [(q, bs)], free := t.free }) ∧
    exec .getCertificate s = .next { s with spdm := s.spdm ++ [(.getCertificate, Config.spdmBody 4 s.idKey s.idCert 0)] } ∧
    (s.args.n = 0 → exec .getMeasurements s = .next { s with spdm := s.spdm ++ [(.getMeasurements, [40])] }) ∧
    (∀ (d : Fin 8) (k : Fin 5), s.args.n = 5 * d.val + k.val + 1 →
      exec .getMeasurements s = .next { s with spdm := s.spdm ++ [(.getMeasurements, leBytes 64 ((s.die d).mreg[k]).toNat)] }) ∧
    (∀ bs, s.args.n = 0xFF → bs = (List.finRange 8).flatMap (fun d => (List.finRange 5).flatMap (fun k => leBytes 64 ((s.die d).mreg[k]).toNat)) →
      exec .getMeasurements s = .next { s with spdm := s.spdm ++ [(.getMeasurements, bs)] })) ∧
  ∀ s : State,
    let g := s.governor
    let excess := s.pwrlim < s.args.n ∨ 11 * s.pwrlim < 10 * s.args.id
    let may := g.last = 0 ∨ s.elapsed (g.last - 1) 50000 = true
    let margin := ¬ excess ∧ 100 * s.args.n ≤ 95 * s.pwrlim
    let read := { s with pwrnow := s.args.n, governor := { g with marginSince := if margin then some (g.marginSince.getD s.time) else none } }
    (excess → may → ∃ t, exec .governorStepDown s = .next t ∧ t.pwrnow = s.args.n ∧ t.pwrlim = s.pwrlim ∧ t.governor = { g with
      marginSince := none, last := s.time + 1, step := if g.step < 2 then g.step + 1 else g.step,
      mxSpaced := g.mxSpaced || decide (2 ≤ g.step), vxSpaced := g.vxSpaced || (decide (2 ≤ g.step) && g.mxSpaced) }) ∧
    (excess → ¬ may → exec .governorStepDown s = .next { s with pwrnow := s.args.n, governor := { g with marginSince := none } }) ∧
    (¬ excess → exec .governorStepDown s = .next read) ∧
    (¬ margin ∨ g.marginSince = none → exec .governorStepUp s = .next read) ∧
    (∀ c, margin → g.marginSince = some c → (s.elapsed c 1000000 = false → exec .governorStepUp s = .next read) ∧
      (s.elapsed c 1000000 = true →
        (g.vxSpaced = true → exec .governorStepUp s = .next { read with governor := { g with vxSpaced := false } }) ∧
        (g.vxSpaced = false → g.mxSpaced = true → exec .governorStepUp s = .next { read with governor := { g with mxSpaced := false } }) ∧
        (g.vxSpaced = false → g.mxSpaced = false →
          (g.step = 0 ∨ s.elapsed c 2000000 = false → exec .governorStepUp s = .next read) ∧
          (g.step ≠ 0 → s.elapsed c 2000000 = true → ∃ t, exec .governorStepUp s = .next t ∧ t.pwrnow = s.args.n ∧
            t.governor = { g with step := g.step - 1, marginSince := some (s.time - 342 * 1000000) } ∧
            ∀ d < 8, mget t.telemetry (4 * d) 0 = mget s.telemetry (4 * d) 0 + 1)))) ∧
    (8 ≤ s.args.id → exec .linkRetrain s = .next s) ∧
    (s.args.id < 8 →
      (s.args.flag = true → ∃ t, exec .linkRetrain s = .next t ∧ t.linkDown = s.linkDown.filter (fun k => k != s.args.id) ∧
        t.peers = s.peers.map (fun p => { p with routed := p.hasRoute t.linkDown }) ∧ t.tiles = s.tiles) ∧
      (s.args.flag = false → s.args.id ∈ s.linkDown → exec .linkRetrain s = .next s) ∧
      (s.args.flag = false → s.args.id ∉ s.linkDown → ∃ t, exec .linkRetrain s = .next t ∧ t.linkDown = s.linkDown ++ [s.args.id] ∧
        t.peers = s.peers.map (fun p => { p with routed := p.hasRoute t.linkDown }) ∧ t.tiles = s.tiles ∧
        mget t.telemetry (4 * s.args.id + 3) 0 = mget s.telemetry (4 * s.args.id + 3) 0 + 1))

/-- R340, R344, R345, R347, R349, R351: a window entry, or a whole group of them, changes and its window is zeroed, unless a context maps it; the
banks are refreshed in turn, each once in its interval, and the counts of the rows refreshed are zero; a bank that is held, or of which a Weevil
row is open, owes its refresh and takes it once it is free, and holds up no other; a precharge raises the count of its row, and at ACTTH an alert
sets it and its neighbours to zero, after a refresh that is due, or waits for the row that is open; the scrub reads the next code word when it is due, counts a correction and
poisons the line of an uncorrectable atom; a remap entry stands in both copies. R350, R351: of two copies the good one is used and rewrites the
other; with none, the pseudo-channel is fenced and the contexts that map it are rolled back. R399, R402, R403, R405: gyld answers a load with
the check that failed or with the image registered and its bytes in memory; an image with references stays; a forced unload marks the
image's tasks; copy-on-debug makes a private image that replaces the other until it ends. Choices of the model in it: a change of a whole
window group and the keys of the telemetry counts (entry 18); a private copy has no globals, and the debug interface's writes to a bundle store
(entry 20); spare row k is row 49,152 + k (entry 21); in which order the banks and rows are refreshed and where errors appear (entry 28). -/
def Obligations.StacksAndLoader : Prop :=
  (∀ (s : State) (n : Fin 16), s.args.n = n.val →
    let a := s.args
    let k := s.stack n
    let key := 32 * a.id + a.uid
    let r := k.physicalRow a.id a.row
    let row := rowKey a.id r
    let bank := k.refreshes % 1024
    let pch := 2 * (a.id % 1024 / 32) + a.id / 16 % 2
    (∃ t, exec .stackTemperatureReport s = .next t ∧ t.stack n = { k with hot := a.flag } ∧ ∀ j, j ≠ n → t.stack j = s.stack j) ∧
    let turn := k.refreshes / 1024
    let free := fun (b : Nat) => mget k.held b 0 ≤ s.time ∧ s.rowOpen n.val b = false
    let clear := fun (t : State) (b : Nat) (rows : List Nat) => ∀ i ∈ rows, mget (t.stack n).acts (rowKey b i) 0 = 0
    let near := (List.range physicalRows).filter (fun i => decide (r ≤ i + 2) && decide (i ≤ r + 2))
    let ticked := fun (t : State) => (t.stack n).refreshes = k.refreshes + 1 ∧ (t.stack n).nextRefresh = k.nextRefresh + 342 * k.interval / 1024 ∧
      t.mem = s.mem
    (k.owed = [] → k.backOffs = [] →
      (s.time < k.nextRefresh → ∃ t, exec .bankRefresh s = .next t ∧ t.stack n = k ∧ t.mem = s.mem) ∧
      (k.nextRefresh ≤ s.time → ∃ t, exec .bankRefresh s = .next t ∧ ticked t ∧
        (k.bankFenced bank = true → (t.stack n).acts = k.acts ∧ (t.stack n).owed = []) ∧
        (k.bankFenced bank = false → free bank →
          (t.stack n).owed = [] ∧ mget (t.stack n).held bank 0 = s.time + 342 * 120 ∧ clear t bank (refreshRows turn)) ∧
        (k.bankFenced bank = false → ¬ free bank →
          (t.stack n).owed = [(bank, turn)] ∧ (t.stack n).held = k.held ∧ (t.stack n).acts = k.acts))) ∧
    (∀ b q, k.owed = [(b, q)] → s.time < k.nextRefresh → k.bankFenced b = false → ∃ t, exec .bankRefresh s = .next t ∧ t.mem = s.mem ∧
      (free b → (t.stack n).owed = [] ∧ clear t b (refreshRows q) ∧ (t.stack n).refreshes = k.refreshes ∧
        (k.backOffs = [] → mget (t.stack n).held b 0 = s.time + 342 * 120) ∧
        ∀ i, k.backOffs = [(b, i)] → (t.stack n).backOffs = [] ∧ mget (t.stack n).held b 0 = s.time + 342 * 120 + 342 * 250 ∧
          clear t b (i :: nearRows i)) ∧
      (¬ free b → (t.stack n).owed = [(b, q)] ∧ ∀ i, k.backOffs = [(b, i)] → t.stack n = k)) ∧
    (k.bankFenced a.id = true ∨ s.time < mget k.held a.id 0 ∨ a.id ∈ k.backOffs.map (·.1) → exec .rowHammerAlert s = .next s) ∧
    (k.bankFenced a.id = false → mget k.held a.id 0 ≤ s.time → a.id ∉ k.backOffs.map (·.1) → mget k.acts row 0 + 1 < k.actth →
      ∃ t, exec .rowHammerAlert s = .next t ∧ (t.stack n).acts = mput k.acts row (mget k.acts row 0 + 1) ∧ t.telemetry = s.telemetry) ∧
    (k.bankFenced a.id = false → mget k.held a.id 0 ≤ s.time → k.backOffs = [] → k.owed = [] → k.actth ≤ mget k.acts row 0 + 1 →
      let due := k.nextRefresh ≤ s.time ∧ bank = a.id
      ∃ t, exec .rowHammerAlert s = .next t ∧ (due → ticked t) ∧ (¬ due → (t.stack n).refreshes = k.refreshes) ∧
        (s.rowOpen n.val a.id = false → clear t a.id (r :: near) ∧ (t.stack n).backOffs = [] ∧ (t.stack n).owed = [] ∧
          mget (t.stack n).held a.id 0 = s.time + (if due then 342 * 120 + 342 * 250 else 342 * 250)) ∧
        (s.rowOpen n.val a.id = true → (t.stack n).backOffs = [(a.id, r)] ∧ (t.stack n).acts = k.acts ∧ (t.stack n).held = k.held ∧
          (t.stack n).owed = if due then [(a.id, turn)] else []) ∧
        mget (t.stack n).alerts a.id 0 = mget k.alerts a.id 0 + 1 ∧
        mget t.telemetry (4 * (n.val / 2) + 2) 0 = mget s.telemetry (4 * (n.val / 2) + 2) 0 + 1) ∧
    (a.uid < 32 → a.row < 49152 → a.id < 1024 → bit (mget k.remap key 0) 31 = false → ∃ t, exec .rowRemap s = .next t ∧
      mget (t.stack n).remap key 0 = BitVec.ofNat 32 (2 ^ 31 + a.row) ∧ mget (t.stack n).remap2 key 0 = BitVec.ofNat 32 (2 ^ 31 + a.row) ∧
      t.mem = s.mem ∧ ∀ v, mfind k.acts row = some v → mget (t.stack n).acts (rowKey a.id (49152 + a.uid)) 0 = v) ∧
    (bit (mget k.remap key 0) 31 = true → exec .rowRemap s = .next s) ∧
    (a.err = .uncorrectable → a.flag = false → mget k.remap2 key 0 ≠ 0 → ∃ t, exec .pseudoChannelFence s = .next t ∧
      mget (t.stack n).remap key 0 = mget k.remap2 key 0 ∧ (t.stack n).fenced = k.fenced) ∧
    (a.err ≠ .uncorrectable → a.flag = true → mget k.remap key 0 ≠ 0 → ∃ t, exec .pseudoChannelFence s = .next t ∧
      mget (t.stack n).remap2 key 0 = mget k.remap key 0 ∧ (t.stack n).fenced = k.fenced) ∧
    (a.err ≠ .uncorrectable → a.flag = false → mget k.remap key 0 = mget k.remap2 key 0 → exec .pseudoChannelFence s = .next s) ∧
    ((a.err = .uncorrectable ∧ a.flag = true) ∨ (a.err ≠ .uncorrectable ∧ a.flag = false ∧ mget k.remap key 0 ≠ mget k.remap2 key 0) →
      ∃ t, exec .pseudoChannelFence s = .next t ∧ pch ∈ (t.stack n).fenced ∧
        ∀ c ∈ s.ctxs.map (·.1), ∀ q ∈ (s.ctx c).tasks, ∀ g ∈ q.regions, q.state ≠ .aborted →
          s.rangeIn (s.ctx c) g.base g.extent n.val pch = true → ((t.ctx c).recovery).isSome = true)) ∧
  (∀ s : State,
    let a := s.args
    let w := s.scrubbed % codeWords
    let p := s.bankPlace (w * 32)
    let inW := fun (b : Nat) => a.n * 2 ^ 30 ≤ b ∧ b < (a.n + 1) * 2 ^ 30
    (a.flag = true → a.addr < hbmSize → exec .patrolScrub s =
      .next { s with latent := if a.err = .clean then mdel s.latent (a.addr / 32) else mput s.latent (a.addr / 32) a.err }) ∧
    (a.flag = false → s.scrubDue = false → exec .patrolScrub s = .next s) ∧
    (a.flag = false → s.scrubDue = true →
      (mfind s.latent w = none → exec .patrolScrub s = .next { s with scrubbed := s.scrubbed + 1 }) ∧
      (s.lineFenced (w / 4) = false →
        (mfind s.latent w = some .corrected → ∃ t, exec .patrolScrub s = .next t ∧ t.scrubbed = s.scrubbed + 1 ∧ t.mem = s.mem ∧
          t.poison = s.poison ∧ t.latent = mdel s.latent w ∧ mget (t.stack (Fin.ofNat 16 p.stack)).corrected (2 * p.channel + p.pc) 0 =
            mget (s.stack (Fin.ofNat 16 p.stack)).corrected (2 * p.channel + p.pc) 0 + 1) ∧
        (mfind s.latent w = some .uncorrectable → ∃ t, exec .patrolScrub s = .next t ∧ t.scrubbed = s.scrubbed + 1 ∧ w / 4 ∈ t.poison ∧
          t.latent = mdel s.latent w ∧ t.mem = s.mem))) ∧
    (a.n < 768 → a.flag = false → (∀ q ∈ s.ctxs, q.2.mapsWindow a.n = false) → bit (mget s.wintab a.n 0) 0 = bit a.v 0 → s.memoryOk = true →
      risingFrom 0 s.wintab = true → ∃ t, exec .windowTableChange s = .next t ∧ mget t.wintab a.n 0 = a.v &&& 5 ∧ (∀ b, inW b → readByte t.mem b = 0) ∧
        ∀ b, ¬ inW b → readByte t.mem b = readByte s.mem b) ∧
    (a.n < 768 → a.flag = true → (∀ k ∈ windowsOf a.n true, ∀ q ∈ s.ctxs, q.2.mapsWindow k = false) → risingFrom 0 s.wintab = true →
      ∃ t, exec .windowTableChange s = .next t ∧ ∀ k ∈ windowsOf a.n true, mget t.wintab k 0 = a.v &&& 5) ∧
    (∀ q ∈ s.ctxs, a.flag = false → q.2.mapsWindow a.n = true → exec .windowTableChange s = .next s)) ∧
  ∀ s : State,
    let a := s.args
    let x := s.ctx a.c
    let bs := (a.words.flatMap (fun w => leBytes 8 w.toNat)).take a.id
    (∀ g, x.checkLoad s.featAccept bs a.addr = .error g → exec .gyldLoad s = .next { s with gyld := some (g, 0) }) ∧
    (∀ o vs, x.checkLoad s.featAccept bs a.addr = .ok (o, vs) →
      let done := vs.foldl (fun b p => o.patch b p.1 p.2) bs
      (s.placeOk a.c a.addr bs.length = true → ∃ t, exec .gyldLoad s = .next t ∧ t.gyld = some (.ok, a.addr) ∧
        (t.ctx a.c).images = x.images ++ [o.image x done a.addr] ∧
        ∀ pas, s.memoryOk = true → done.length = bs.length → x.pas a.addr bs.length = some pas → pas.Nodup →
          (∀ b ∈ pas, s.lineFenced (lineOf b) = false) → readAt t.mem pas = done) ∧
      (s.placeOk a.c a.addr bs.length = false → exec .gyldLoad s = .next s)) ∧
    (x.image? a.addr = none → exec .gyldUnload s = .next { s with gyld := some (.none, a.addr) } ∧
      exec .gyldForcedUnload s = .next { s with gyld := some (.none, a.addr) } ∧
      (a.flag = false → exec .copyOnDebug s = .next { s with gyld := some (.none, a.addr) })) ∧
    (a.flag = true → (s.tile a.l).owner.any (fun o => o.1 == a.c) = true → ((s.tile a.l).strand a.k).run = .debugHalt →
      ∃ t, exec .copyOnDebug s = .next t ∧
        ((t.tile a.l).strand a.k).store = mput ((s.tile a.l).strand a.k).store (a.n % 2048) (bundleOfWords a.words)) ∧
    (∀ i, x.image? a.addr = some i →
      (x.refs a.addr ≠ 0 → exec .gyldUnload s = .next { s with gyld := some (.busy, a.addr) }) ∧
      (x.refs a.addr = 0 → ∃ t, exec .gyldUnload s = .next t ∧ t.gyld = some (.ok, a.addr) ∧ t.mem = s.mem ∧
        (t.ctx a.c).images = x.images.filter (fun i => i.base != a.addr)) ∧
      ((∀ q ∈ x.tasksOf a.addr, q.state ≠ .starting ∧ q.state ≠ .running ∧ q.state ≠ .ending) → (∀ i ∈ x.images, a.addr ∉ i.boundTo) →
        ∃ t, exec .gyldForcedUnload s = .next t ∧ t.gyld = some (.ok, a.addr) ∧ (t.ctx a.c).images = x.images.filter (fun i => i.base != a.addr) ∧
          ∀ q ∈ (t.ctx a.c).tasks ++ (t.ctx a.c).boundary, q.code = a.addr → q.marked = true) ∧
      (∀ q ∈ x.tasksOf a.addr, q.state = .running → exec .gyldForcedUnload s = .next { s with gyld := some (.busy, a.addr) }) ∧
      (a.flag = false → x.replaced.find? (fun p => p.1 == a.addr) = none → s.placeOk a.c a.id i.size = true → ∃ t, exec .copyOnDebug s = .next t ∧
        t.gyld = some (.ok, a.id) ∧ (t.ctx a.c).replaced = x.replaced ++ [(a.addr, a.id)] ∧
        (t.ctx a.c).images = x.images ++ [{ i with base := a.id, globals := [], priv := true }]) ∧
      (∀ p, a.flag = false → x.replaced.find? (fun p => p.1 == a.addr) = some p → a.words ≠ [] → ∃ t, exec .copyOnDebug s = .next t ∧
        (t.ctx a.c).images = x.images.map (fun j => if j.base = p.2 then j.setBundle a.k a.n (bundleOfWords a.words) else j))) ∧
    (x.replaced.find? (fun p => p.1 == a.addr) = none → exec .endCopyOnDebug s = .next { s with gyld := some (.none, a.addr) }) ∧
    ∀ p, x.replaced.find? (fun p => p.1 == a.addr) = some p →
      (x.refs p.2 = 0 → ∃ t, exec .endCopyOnDebug s = .next t ∧ t.gyld = some (.ok, p.2) ∧
        (t.ctx a.c).images = x.images.filter (fun i => i.base != p.2) ∧ ∀ q ∈ (t.ctx a.c).replaced, q.1 ≠ a.addr) ∧
      (x.refs p.2 ≠ 0 → ∃ t, exec .endCopyOnDebug s = .next t ∧ t.gyld = some (.busy, p.2) ∧ (t.ctx a.c).images = x.images ∧
        ∀ q ∈ (t.ctx a.c).replaced, q.1 ≠ a.addr)
end

