-- ==== Sys2Proof/Laws/State.lean ====
section
/-! SUPPORT. What each update of the state leaves unchanged, field by field. -/

namespace Sys2Proof.Machine

open Sys2Proof

/-! ### The whole state -/

@[simp] theorem State.setTile_cycle (x : State) (l : Nat) (t : Tile) : (x.setTile l t).cycle = x.cycle := rfl
@[simp] theorem State.setTile_time (x : State) (l : Nat) (t : Tile) : (x.setTile l t).time = x.time := rfl
@[simp] theorem State.setTile_turn (x : State) (l : Nat) (t : Tile) : (x.setTile l t).turn = x.turn := rfl
@[simp] theorem State.setTile_agenda (x : State) (l : Nat) (t : Tile) : (x.setTile l t).agenda = x.agenda := rfl
@[simp] theorem State.setTile_inbox (x : State) (l : Nat) (t : Tile) : (x.setTile l t).inbox = x.inbox := rfl
@[simp] theorem State.setTile_args (x : State) (l : Nat) (t : Tile) : (x.setTile l t).args = x.args := rfl
@[simp] theorem State.setTile_free (x : State) (l : Nat) (t : Tile) : (x.setTile l t).free = x.free := rfl
@[simp] theorem State.setTile_dies (x : State) (l : Nat) (t : Tile) : (x.setTile l t).dies = x.dies := rfl
@[simp] theorem State.setTile_mem (x : State) (l : Nat) (t : Tile) : (x.setTile l t).mem = x.mem := rfl
@[simp] theorem State.setTile_poison (x : State) (l : Nat) (t : Tile) : (x.setTile l t).poison = x.poison := rfl
@[simp] theorem State.setTile_latent (x : State) (l : Nat) (t : Tile) : (x.setTile l t).latent = x.latent := rfl
@[simp] theorem State.setTile_scrubbed (x : State) (l : Nat) (t : Tile) : (x.setTile l t).scrubbed = x.scrubbed := rfl
@[simp] theorem State.setTile_wintab (x : State) (l : Nat) (t : Tile) : (x.setTile l t).wintab = x.wintab := rfl
@[simp] theorem State.setTile_hbm (x : State) (l : Nat) (t : Tile) : (x.setTile l t).hbm = x.hbm := rfl
@[simp] theorem State.setTile_domains (x : State) (l : Nat) (t : Tile) : (x.setTile l t).domains = x.domains := rfl
@[simp] theorem State.setTile_links (x : State) (l : Nat) (t : Tile) : (x.setTile l t).links = x.links := rfl
@[simp] theorem State.setTile_ctxs (x : State) (l : Nat) (t : Tile) : (x.setTile l t).ctxs = x.ctxs := rfl
@[simp] theorem State.setTile_featAcc (x : State) (l : Nat) (t : Tile) : (x.setTile l t).featAcc = x.featAcc := rfl
@[simp] theorem State.setTile_ready (x : State) (l : Nat) (t : Tile) : (x.setTile l t).ready = x.ready := rfl
@[simp] theorem State.setTile_recovery (x : State) (l : Nat) (t : Tile) : (x.setTile l t).recovery = x.recovery := rfl
@[simp] theorem State.setTile_linkTraining (x : State) (l : Nat) (t : Tile) : (x.setTile l t).linkTraining = x.linkTraining := rfl
@[simp] theorem State.setTile_testEnable (x : State) (l : Nat) (t : Tile) : (x.setTile l t).testEnable = x.testEnable := rfl
@[simp] theorem State.setTile_pwrlim (x : State) (l : Nat) (t : Tile) : (x.setTile l t).pwrlim = x.pwrlim := rfl
@[simp] theorem State.setTile_pwrnow (x : State) (l : Nat) (t : Tile) : (x.setTile l t).pwrnow = x.pwrnow := rfl
@[simp] theorem State.setTile_governor (x : State) (l : Nat) (t : Tile) : (x.setTile l t).governor = x.governor := rfl
@[simp] theorem State.setTile_fpid (x : State) (l : Nat) (t : Tile) : (x.setTile l t).fpid = x.fpid := rfl
@[simp] theorem State.setTile_configLoaded (x : State) (l : Nat) (t : Tile) : (x.setTile l t).configLoaded = x.configLoaded := rfl
@[simp] theorem State.setTile_postings (x : State) (l : Nat) (t : Tile) : (x.setTile l t).postings = x.postings := rfl
@[simp] theorem State.setTile_peers (x : State) (l : Nat) (t : Tile) : (x.setTile l t).peers = x.peers := rfl
@[simp] theorem State.setTile_linkDown (x : State) (l : Nat) (t : Tile) : (x.setTile l t).linkDown = x.linkDown := rfl
@[simp] theorem State.setTile_spdm (x : State) (l : Nat) (t : Tile) : (x.setTile l t).spdm = x.spdm := rfl
@[simp] theorem State.setTile_idKey (x : State) (l : Nat) (t : Tile) : (x.setTile l t).idKey = x.idKey := rfl
@[simp] theorem State.setTile_idCert (x : State) (l : Nat) (t : Tile) : (x.setTile l t).idCert = x.idCert := rfl
@[simp] theorem State.setTile_replies (x : State) (l : Nat) (t : Tile) : (x.setTile l t).replies = x.replies := rfl
@[simp] theorem State.setTile_irq (x : State) (l : Nat) (t : Tile) : (x.setTile l t).irq = x.irq := rfl
@[simp] theorem State.setTile_gyld (x : State) (l : Nat) (t : Tile) : (x.setTile l t).gyld = x.gyld := rfl
@[simp] theorem State.setTile_telemetry (x : State) (l : Nat) (t : Tile) : (x.setTile l t).telemetry = x.telemetry := rfl

@[simp] theorem State.modTile_cycle (x : State) (l : Nat) (f : Tile → Tile) : (x.modTile l f).cycle = x.cycle := rfl
@[simp] theorem State.modTile_time (x : State) (l : Nat) (f : Tile → Tile) : (x.modTile l f).time = x.time := rfl
@[simp] theorem State.modTile_turn (x : State) (l : Nat) (f : Tile → Tile) : (x.modTile l f).turn = x.turn := rfl
@[simp] theorem State.modTile_agenda (x : State) (l : Nat) (f : Tile → Tile) : (x.modTile l f).agenda = x.agenda := rfl
@[simp] theorem State.modTile_inbox (x : State) (l : Nat) (f : Tile → Tile) : (x.modTile l f).inbox = x.inbox := rfl
@[simp] theorem State.modTile_args (x : State) (l : Nat) (f : Tile → Tile) : (x.modTile l f).args = x.args := rfl
@[simp] theorem State.modTile_free (x : State) (l : Nat) (f : Tile → Tile) : (x.modTile l f).free = x.free := rfl
@[simp] theorem State.modTile_dies (x : State) (l : Nat) (f : Tile → Tile) : (x.modTile l f).dies = x.dies := rfl
@[simp] theorem State.modTile_mem (x : State) (l : Nat) (f : Tile → Tile) : (x.modTile l f).mem = x.mem := rfl
@[simp] theorem State.modTile_poison (x : State) (l : Nat) (f : Tile → Tile) : (x.modTile l f).poison = x.poison := rfl
@[simp] theorem State.modTile_latent (x : State) (l : Nat) (f : Tile → Tile) : (x.modTile l f).latent = x.latent := rfl
@[simp] theorem State.modTile_scrubbed (x : State) (l : Nat) (f : Tile → Tile) : (x.modTile l f).scrubbed = x.scrubbed := rfl
@[simp] theorem State.modTile_wintab (x : State) (l : Nat) (f : Tile → Tile) : (x.modTile l f).wintab = x.wintab := rfl
@[simp] theorem State.modTile_hbm (x : State) (l : Nat) (f : Tile → Tile) : (x.modTile l f).hbm = x.hbm := rfl
@[simp] theorem State.modTile_domains (x : State) (l : Nat) (f : Tile → Tile) : (x.modTile l f).domains = x.domains := rfl
@[simp] theorem State.modTile_links (x : State) (l : Nat) (f : Tile → Tile) : (x.modTile l f).links = x.links := rfl
@[simp] theorem State.modTile_ctxs (x : State) (l : Nat) (f : Tile → Tile) : (x.modTile l f).ctxs = x.ctxs := rfl
@[simp] theorem State.modTile_featAcc (x : State) (l : Nat) (f : Tile → Tile) : (x.modTile l f).featAcc = x.featAcc := rfl
@[simp] theorem State.modTile_ready (x : State) (l : Nat) (f : Tile → Tile) : (x.modTile l f).ready = x.ready := rfl
@[simp] theorem State.modTile_recovery (x : State) (l : Nat) (f : Tile → Tile) : (x.modTile l f).recovery = x.recovery := rfl
@[simp] theorem State.modTile_linkTraining (x : State) (l : Nat) (f : Tile → Tile) : (x.modTile l f).linkTraining = x.linkTraining := rfl
@[simp] theorem State.modTile_testEnable (x : State) (l : Nat) (f : Tile → Tile) : (x.modTile l f).testEnable = x.testEnable := rfl
@[simp] theorem State.modTile_pwrlim (x : State) (l : Nat) (f : Tile → Tile) : (x.modTile l f).pwrlim = x.pwrlim := rfl
@[simp] theorem State.modTile_pwrnow (x : State) (l : Nat) (f : Tile → Tile) : (x.modTile l f).pwrnow = x.pwrnow := rfl
@[simp] theorem State.modTile_governor (x : State) (l : Nat) (f : Tile → Tile) : (x.modTile l f).governor = x.governor := rfl
@[simp] theorem State.modTile_fpid (x : State) (l : Nat) (f : Tile → Tile) : (x.modTile l f).fpid = x.fpid := rfl
@[simp] theorem State.modTile_configLoaded (x : State) (l : Nat) (f : Tile → Tile) : (x.modTile l f).configLoaded = x.configLoaded := rfl
@[simp] theorem State.modTile_postings (x : State) (l : Nat) (f : Tile → Tile) : (x.modTile l f).postings = x.postings := rfl
@[simp] theorem State.modTile_peers (x : State) (l : Nat) (f : Tile → Tile) : (x.modTile l f).peers = x.peers := rfl
@[simp] theorem State.modTile_linkDown (x : State) (l : Nat) (f : Tile → Tile) : (x.modTile l f).linkDown = x.linkDown := rfl
@[simp] theorem State.modTile_spdm (x : State) (l : Nat) (f : Tile → Tile) : (x.modTile l f).spdm = x.spdm := rfl
@[simp] theorem State.modTile_idKey (x : State) (l : Nat) (f : Tile → Tile) : (x.modTile l f).idKey = x.idKey := rfl
@[simp] theorem State.modTile_idCert (x : State) (l : Nat) (f : Tile → Tile) : (x.modTile l f).idCert = x.idCert := rfl
@[simp] theorem State.modTile_replies (x : State) (l : Nat) (f : Tile → Tile) : (x.modTile l f).replies = x.replies := rfl
@[simp] theorem State.modTile_irq (x : State) (l : Nat) (f : Tile → Tile) : (x.modTile l f).irq = x.irq := rfl
@[simp] theorem State.modTile_gyld (x : State) (l : Nat) (f : Tile → Tile) : (x.modTile l f).gyld = x.gyld := rfl
@[simp] theorem State.modTile_telemetry (x : State) (l : Nat) (f : Tile → Tile) : (x.modTile l f).telemetry = x.telemetry := rfl

@[simp] theorem State.setCtx_cycle (x : State) (c : Nat) (y : Context) : (x.setCtx c y).cycle = x.cycle := rfl
@[simp] theorem State.setCtx_time (x : State) (c : Nat) (y : Context) : (x.setCtx c y).time = x.time := rfl
@[simp] theorem State.setCtx_turn (x : State) (c : Nat) (y : Context) : (x.setCtx c y).turn = x.turn := rfl
@[simp] theorem State.setCtx_agenda (x : State) (c : Nat) (y : Context) : (x.setCtx c y).agenda = x.agenda := rfl
@[simp] theorem State.setCtx_inbox (x : State) (c : Nat) (y : Context) : (x.setCtx c y).inbox = x.inbox := rfl
@[simp] theorem State.setCtx_args (x : State) (c : Nat) (y : Context) : (x.setCtx c y).args = x.args := rfl
@[simp] theorem State.setCtx_free (x : State) (c : Nat) (y : Context) : (x.setCtx c y).free = x.free := rfl
@[simp] theorem State.setCtx_tiles (x : State) (c : Nat) (y : Context) : (x.setCtx c y).tiles = x.tiles := rfl
@[simp] theorem State.setCtx_dies (x : State) (c : Nat) (y : Context) : (x.setCtx c y).dies = x.dies := rfl
@[simp] theorem State.setCtx_mem (x : State) (c : Nat) (y : Context) : (x.setCtx c y).mem = x.mem := rfl
@[simp] theorem State.setCtx_poison (x : State) (c : Nat) (y : Context) : (x.setCtx c y).poison = x.poison := rfl
@[simp] theorem State.setCtx_latent (x : State) (c : Nat) (y : Context) : (x.setCtx c y).latent = x.latent := rfl
@[simp] theorem State.setCtx_scrubbed (x : State) (c : Nat) (y : Context) : (x.setCtx c y).scrubbed = x.scrubbed := rfl
@[simp] theorem State.setCtx_wintab (x : State) (c : Nat) (y : Context) : (x.setCtx c y).wintab = x.wintab := rfl
@[simp] theorem State.setCtx_hbm (x : State) (c : Nat) (y : Context) : (x.setCtx c y).hbm = x.hbm := rfl
@[simp] theorem State.setCtx_domains (x : State) (c : Nat) (y : Context) : (x.setCtx c y).domains = x.domains := rfl
@[simp] theorem State.setCtx_links (x : State) (c : Nat) (y : Context) : (x.setCtx c y).links = x.links := rfl
@[simp] theorem State.setCtx_featAcc (x : State) (c : Nat) (y : Context) : (x.setCtx c y).featAcc = x.featAcc := rfl
@[simp] theorem State.setCtx_ready (x : State) (c : Nat) (y : Context) : (x.setCtx c y).ready = x.ready := rfl
@[simp] theorem State.setCtx_recovery (x : State) (c : Nat) (y : Context) : (x.setCtx c y).recovery = x.recovery := rfl
@[simp] theorem State.setCtx_linkTraining (x : State) (c : Nat) (y : Context) : (x.setCtx c y).linkTraining = x.linkTraining := rfl
@[simp] theorem State.setCtx_testEnable (x : State) (c : Nat) (y : Context) : (x.setCtx c y).testEnable = x.testEnable := rfl
@[simp] theorem State.setCtx_pwrlim (x : State) (c : Nat) (y : Context) : (x.setCtx c y).pwrlim = x.pwrlim := rfl
@[simp] theorem State.setCtx_pwrnow (x : State) (c : Nat) (y : Context) : (x.setCtx c y).pwrnow = x.pwrnow := rfl
@[simp] theorem State.setCtx_governor (x : State) (c : Nat) (y : Context) : (x.setCtx c y).governor = x.governor := rfl
@[simp] theorem State.setCtx_fpid (x : State) (c : Nat) (y : Context) : (x.setCtx c y).fpid = x.fpid := rfl
@[simp] theorem State.setCtx_configLoaded (x : State) (c : Nat) (y : Context) : (x.setCtx c y).configLoaded = x.configLoaded := rfl
@[simp] theorem State.setCtx_postings (x : State) (c : Nat) (y : Context) : (x.setCtx c y).postings = x.postings := rfl
@[simp] theorem State.setCtx_peers (x : State) (c : Nat) (y : Context) : (x.setCtx c y).peers = x.peers := rfl
@[simp] theorem State.setCtx_linkDown (x : State) (c : Nat) (y : Context) : (x.setCtx c y).linkDown = x.linkDown := rfl
@[simp] theorem State.setCtx_spdm (x : State) (c : Nat) (y : Context) : (x.setCtx c y).spdm = x.spdm := rfl
@[simp] theorem State.setCtx_idKey (x : State) (c : Nat) (y : Context) : (x.setCtx c y).idKey = x.idKey := rfl
@[simp] theorem State.setCtx_idCert (x : State) (c : Nat) (y : Context) : (x.setCtx c y).idCert = x.idCert := rfl
@[simp] theorem State.setCtx_replies (x : State) (c : Nat) (y : Context) : (x.setCtx c y).replies = x.replies := rfl
@[simp] theorem State.setCtx_irq (x : State) (c : Nat) (y : Context) : (x.setCtx c y).irq = x.irq := rfl
@[simp] theorem State.setCtx_gyld (x : State) (c : Nat) (y : Context) : (x.setCtx c y).gyld = x.gyld := rfl
@[simp] theorem State.setCtx_telemetry (x : State) (c : Nat) (y : Context) : (x.setCtx c y).telemetry = x.telemetry := rfl

@[simp] theorem State.modCtx_cycle (x : State) (c : Nat) (f : Context → Context) : (x.modCtx c f).cycle = x.cycle := rfl
@[simp] theorem State.modCtx_time (x : State) (c : Nat) (f : Context → Context) : (x.modCtx c f).time = x.time := rfl
@[simp] theorem State.modCtx_turn (x : State) (c : Nat) (f : Context → Context) : (x.modCtx c f).turn = x.turn := rfl
@[simp] theorem State.modCtx_agenda (x : State) (c : Nat) (f : Context → Context) : (x.modCtx c f).agenda = x.agenda := rfl
@[simp] theorem State.modCtx_inbox (x : State) (c : Nat) (f : Context → Context) : (x.modCtx c f).inbox = x.inbox := rfl
@[simp] theorem State.modCtx_args (x : State) (c : Nat) (f : Context → Context) : (x.modCtx c f).args = x.args := rfl
@[simp] theorem State.modCtx_free (x : State) (c : Nat) (f : Context → Context) : (x.modCtx c f).free = x.free := rfl
@[simp] theorem State.modCtx_tiles (x : State) (c : Nat) (f : Context → Context) : (x.modCtx c f).tiles = x.tiles := rfl
@[simp] theorem State.modCtx_dies (x : State) (c : Nat) (f : Context → Context) : (x.modCtx c f).dies = x.dies := rfl
@[simp] theorem State.modCtx_mem (x : State) (c : Nat) (f : Context → Context) : (x.modCtx c f).mem = x.mem := rfl
@[simp] theorem State.modCtx_poison (x : State) (c : Nat) (f : Context → Context) : (x.modCtx c f).poison = x.poison := rfl
@[simp] theorem State.modCtx_latent (x : State) (c : Nat) (f : Context → Context) : (x.modCtx c f).latent = x.latent := rfl
@[simp] theorem State.modCtx_scrubbed (x : State) (c : Nat) (f : Context → Context) : (x.modCtx c f).scrubbed = x.scrubbed := rfl
@[simp] theorem State.modCtx_wintab (x : State) (c : Nat) (f : Context → Context) : (x.modCtx c f).wintab = x.wintab := rfl
@[simp] theorem State.modCtx_hbm (x : State) (c : Nat) (f : Context → Context) : (x.modCtx c f).hbm = x.hbm := rfl
@[simp] theorem State.modCtx_domains (x : State) (c : Nat) (f : Context → Context) : (x.modCtx c f).domains = x.domains := rfl
@[simp] theorem State.modCtx_links (x : State) (c : Nat) (f : Context → Context) : (x.modCtx c f).links = x.links := rfl
@[simp] theorem State.modCtx_featAcc (x : State) (c : Nat) (f : Context → Context) : (x.modCtx c f).featAcc = x.featAcc := rfl
@[simp] theorem State.modCtx_ready (x : State) (c : Nat) (f : Context → Context) : (x.modCtx c f).ready = x.ready := rfl
@[simp] theorem State.modCtx_recovery (x : State) (c : Nat) (f : Context → Context) : (x.modCtx c f).recovery = x.recovery := rfl
@[simp] theorem State.modCtx_linkTraining (x : State) (c : Nat) (f : Context → Context) : (x.modCtx c f).linkTraining = x.linkTraining := rfl
@[simp] theorem State.modCtx_testEnable (x : State) (c : Nat) (f : Context → Context) : (x.modCtx c f).testEnable = x.testEnable := rfl
@[simp] theorem State.modCtx_pwrlim (x : State) (c : Nat) (f : Context → Context) : (x.modCtx c f).pwrlim = x.pwrlim := rfl
@[simp] theorem State.modCtx_pwrnow (x : State) (c : Nat) (f : Context → Context) : (x.modCtx c f).pwrnow = x.pwrnow := rfl
@[simp] theorem State.modCtx_governor (x : State) (c : Nat) (f : Context → Context) : (x.modCtx c f).governor = x.governor := rfl
@[simp] theorem State.modCtx_fpid (x : State) (c : Nat) (f : Context → Context) : (x.modCtx c f).fpid = x.fpid := rfl
@[simp] theorem State.modCtx_configLoaded (x : State) (c : Nat) (f : Context → Context) : (x.modCtx c f).configLoaded = x.configLoaded := rfl
@[simp] theorem State.modCtx_postings (x : State) (c : Nat) (f : Context → Context) : (x.modCtx c f).postings = x.postings := rfl
@[simp] theorem State.modCtx_peers (x : State) (c : Nat) (f : Context → Context) : (x.modCtx c f).peers = x.peers := rfl
@[simp] theorem State.modCtx_linkDown (x : State) (c : Nat) (f : Context → Context) : (x.modCtx c f).linkDown = x.linkDown := rfl
@[simp] theorem State.modCtx_spdm (x : State) (c : Nat) (f : Context → Context) : (x.modCtx c f).spdm = x.spdm := rfl
@[simp] theorem State.modCtx_idKey (x : State) (c : Nat) (f : Context → Context) : (x.modCtx c f).idKey = x.idKey := rfl
@[simp] theorem State.modCtx_idCert (x : State) (c : Nat) (f : Context → Context) : (x.modCtx c f).idCert = x.idCert := rfl
@[simp] theorem State.modCtx_replies (x : State) (c : Nat) (f : Context → Context) : (x.modCtx c f).replies = x.replies := rfl
@[simp] theorem State.modCtx_irq (x : State) (c : Nat) (f : Context → Context) : (x.modCtx c f).irq = x.irq := rfl
@[simp] theorem State.modCtx_gyld (x : State) (c : Nat) (f : Context → Context) : (x.modCtx c f).gyld = x.gyld := rfl
@[simp] theorem State.modCtx_telemetry (x : State) (c : Nat) (f : Context → Context) : (x.modCtx c f).telemetry = x.telemetry := rfl

@[simp] theorem State.modDie_cycle (x : State) (d : Fin 8) (f : Die → Die) : (x.modDie d f).cycle = x.cycle := rfl
@[simp] theorem State.modDie_time (x : State) (d : Fin 8) (f : Die → Die) : (x.modDie d f).time = x.time := rfl
@[simp] theorem State.modDie_turn (x : State) (d : Fin 8) (f : Die → Die) : (x.modDie d f).turn = x.turn := rfl
@[simp] theorem State.modDie_agenda (x : State) (d : Fin 8) (f : Die → Die) : (x.modDie d f).agenda = x.agenda := rfl
@[simp] theorem State.modDie_inbox (x : State) (d : Fin 8) (f : Die → Die) : (x.modDie d f).inbox = x.inbox := rfl
@[simp] theorem State.modDie_args (x : State) (d : Fin 8) (f : Die → Die) : (x.modDie d f).args = x.args := rfl
@[simp] theorem State.modDie_free (x : State) (d : Fin 8) (f : Die → Die) : (x.modDie d f).free = x.free := rfl
@[simp] theorem State.modDie_tiles (x : State) (d : Fin 8) (f : Die → Die) : (x.modDie d f).tiles = x.tiles := rfl
@[simp] theorem State.modDie_mem (x : State) (d : Fin 8) (f : Die → Die) : (x.modDie d f).mem = x.mem := rfl
@[simp] theorem State.modDie_poison (x : State) (d : Fin 8) (f : Die → Die) : (x.modDie d f).poison = x.poison := rfl
@[simp] theorem State.modDie_latent (x : State) (d : Fin 8) (f : Die → Die) : (x.modDie d f).latent = x.latent := rfl
@[simp] theorem State.modDie_scrubbed (x : State) (d : Fin 8) (f : Die → Die) : (x.modDie d f).scrubbed = x.scrubbed := rfl
@[simp] theorem State.modDie_wintab (x : State) (d : Fin 8) (f : Die → Die) : (x.modDie d f).wintab = x.wintab := rfl
@[simp] theorem State.modDie_hbm (x : State) (d : Fin 8) (f : Die → Die) : (x.modDie d f).hbm = x.hbm := rfl
@[simp] theorem State.modDie_domains (x : State) (d : Fin 8) (f : Die → Die) : (x.modDie d f).domains = x.domains := rfl
@[simp] theorem State.modDie_links (x : State) (d : Fin 8) (f : Die → Die) : (x.modDie d f).links = x.links := rfl
@[simp] theorem State.modDie_ctxs (x : State) (d : Fin 8) (f : Die → Die) : (x.modDie d f).ctxs = x.ctxs := rfl
@[simp] theorem State.modDie_featAcc (x : State) (d : Fin 8) (f : Die → Die) : (x.modDie d f).featAcc = x.featAcc := rfl
@[simp] theorem State.modDie_ready (x : State) (d : Fin 8) (f : Die → Die) : (x.modDie d f).ready = x.ready := rfl
@[simp] theorem State.modDie_recovery (x : State) (d : Fin 8) (f : Die → Die) : (x.modDie d f).recovery = x.recovery := rfl
@[simp] theorem State.modDie_linkTraining (x : State) (d : Fin 8) (f : Die → Die) : (x.modDie d f).linkTraining = x.linkTraining := rfl
@[simp] theorem State.modDie_testEnable (x : State) (d : Fin 8) (f : Die → Die) : (x.modDie d f).testEnable = x.testEnable := rfl
@[simp] theorem State.modDie_pwrlim (x : State) (d : Fin 8) (f : Die → Die) : (x.modDie d f).pwrlim = x.pwrlim := rfl
@[simp] theorem State.modDie_pwrnow (x : State) (d : Fin 8) (f : Die → Die) : (x.modDie d f).pwrnow = x.pwrnow := rfl
@[simp] theorem State.modDie_governor (x : State) (d : Fin 8) (f : Die → Die) : (x.modDie d f).governor = x.governor := rfl
@[simp] theorem State.modDie_fpid (x : State) (d : Fin 8) (f : Die → Die) : (x.modDie d f).fpid = x.fpid := rfl
@[simp] theorem State.modDie_configLoaded (x : State) (d : Fin 8) (f : Die → Die) : (x.modDie d f).configLoaded = x.configLoaded := rfl
@[simp] theorem State.modDie_postings (x : State) (d : Fin 8) (f : Die → Die) : (x.modDie d f).postings = x.postings := rfl
@[simp] theorem State.modDie_peers (x : State) (d : Fin 8) (f : Die → Die) : (x.modDie d f).peers = x.peers := rfl
@[simp] theorem State.modDie_linkDown (x : State) (d : Fin 8) (f : Die → Die) : (x.modDie d f).linkDown = x.linkDown := rfl
@[simp] theorem State.modDie_spdm (x : State) (d : Fin 8) (f : Die → Die) : (x.modDie d f).spdm = x.spdm := rfl
@[simp] theorem State.modDie_idKey (x : State) (d : Fin 8) (f : Die → Die) : (x.modDie d f).idKey = x.idKey := rfl
@[simp] theorem State.modDie_idCert (x : State) (d : Fin 8) (f : Die → Die) : (x.modDie d f).idCert = x.idCert := rfl
@[simp] theorem State.modDie_replies (x : State) (d : Fin 8) (f : Die → Die) : (x.modDie d f).replies = x.replies := rfl
@[simp] theorem State.modDie_irq (x : State) (d : Fin 8) (f : Die → Die) : (x.modDie d f).irq = x.irq := rfl
@[simp] theorem State.modDie_gyld (x : State) (d : Fin 8) (f : Die → Die) : (x.modDie d f).gyld = x.gyld := rfl
@[simp] theorem State.modDie_telemetry (x : State) (d : Fin 8) (f : Die → Die) : (x.modDie d f).telemetry = x.telemetry := rfl

@[simp] theorem State.modStack_cycle (x : State) (n : Fin 16) (f : Stack → Stack) : (x.modStack n f).cycle = x.cycle := rfl
@[simp] theorem State.modStack_time (x : State) (n : Fin 16) (f : Stack → Stack) : (x.modStack n f).time = x.time := rfl
@[simp] theorem State.modStack_turn (x : State) (n : Fin 16) (f : Stack → Stack) : (x.modStack n f).turn = x.turn := rfl
@[simp] theorem State.modStack_agenda (x : State) (n : Fin 16) (f : Stack → Stack) : (x.modStack n f).agenda = x.agenda := rfl
@[simp] theorem State.modStack_inbox (x : State) (n : Fin 16) (f : Stack → Stack) : (x.modStack n f).inbox = x.inbox := rfl
@[simp] theorem State.modStack_args (x : State) (n : Fin 16) (f : Stack → Stack) : (x.modStack n f).args = x.args := rfl
@[simp] theorem State.modStack_free (x : State) (n : Fin 16) (f : Stack → Stack) : (x.modStack n f).free = x.free := rfl
@[simp] theorem State.modStack_tiles (x : State) (n : Fin 16) (f : Stack → Stack) : (x.modStack n f).tiles = x.tiles := rfl
@[simp] theorem State.modStack_dies (x : State) (n : Fin 16) (f : Stack → Stack) : (x.modStack n f).dies = x.dies := rfl
@[simp] theorem State.modStack_mem (x : State) (n : Fin 16) (f : Stack → Stack) : (x.modStack n f).mem = x.mem := rfl
@[simp] theorem State.modStack_poison (x : State) (n : Fin 16) (f : Stack → Stack) : (x.modStack n f).poison = x.poison := rfl
@[simp] theorem State.modStack_latent (x : State) (n : Fin 16) (f : Stack → Stack) : (x.modStack n f).latent = x.latent := rfl
@[simp] theorem State.modStack_scrubbed (x : State) (n : Fin 16) (f : Stack → Stack) : (x.modStack n f).scrubbed = x.scrubbed := rfl
@[simp] theorem State.modStack_wintab (x : State) (n : Fin 16) (f : Stack → Stack) : (x.modStack n f).wintab = x.wintab := rfl
@[simp] theorem State.modStack_domains (x : State) (n : Fin 16) (f : Stack → Stack) : (x.modStack n f).domains = x.domains := rfl
@[simp] theorem State.modStack_links (x : State) (n : Fin 16) (f : Stack → Stack) : (x.modStack n f).links = x.links := rfl
@[simp] theorem State.modStack_ctxs (x : State) (n : Fin 16) (f : Stack → Stack) : (x.modStack n f).ctxs = x.ctxs := rfl
@[simp] theorem State.modStack_featAcc (x : State) (n : Fin 16) (f : Stack → Stack) : (x.modStack n f).featAcc = x.featAcc := rfl
@[simp] theorem State.modStack_ready (x : State) (n : Fin 16) (f : Stack → Stack) : (x.modStack n f).ready = x.ready := rfl
@[simp] theorem State.modStack_recovery (x : State) (n : Fin 16) (f : Stack → Stack) : (x.modStack n f).recovery = x.recovery := rfl
@[simp] theorem State.modStack_linkTraining (x : State) (n : Fin 16) (f : Stack → Stack) : (x.modStack n f).linkTraining = x.linkTraining := rfl
@[simp] theorem State.modStack_testEnable (x : State) (n : Fin 16) (f : Stack → Stack) : (x.modStack n f).testEnable = x.testEnable := rfl
@[simp] theorem State.modStack_pwrlim (x : State) (n : Fin 16) (f : Stack → Stack) : (x.modStack n f).pwrlim = x.pwrlim := rfl
@[simp] theorem State.modStack_pwrnow (x : State) (n : Fin 16) (f : Stack → Stack) : (x.modStack n f).pwrnow = x.pwrnow := rfl
@[simp] theorem State.modStack_governor (x : State) (n : Fin 16) (f : Stack → Stack) : (x.modStack n f).governor = x.governor := rfl
@[simp] theorem State.modStack_fpid (x : State) (n : Fin 16) (f : Stack → Stack) : (x.modStack n f).fpid = x.fpid := rfl
@[simp] theorem State.modStack_configLoaded (x : State) (n : Fin 16) (f : Stack → Stack) : (x.modStack n f).configLoaded = x.configLoaded := rfl
@[simp] theorem State.modStack_postings (x : State) (n : Fin 16) (f : Stack → Stack) : (x.modStack n f).postings = x.postings := rfl
@[simp] theorem State.modStack_peers (x : State) (n : Fin 16) (f : Stack → Stack) : (x.modStack n f).peers = x.peers := rfl
@[simp] theorem State.modStack_linkDown (x : State) (n : Fin 16) (f : Stack → Stack) : (x.modStack n f).linkDown = x.linkDown := rfl
@[simp] theorem State.modStack_spdm (x : State) (n : Fin 16) (f : Stack → Stack) : (x.modStack n f).spdm = x.spdm := rfl
@[simp] theorem State.modStack_idKey (x : State) (n : Fin 16) (f : Stack → Stack) : (x.modStack n f).idKey = x.idKey := rfl
@[simp] theorem State.modStack_idCert (x : State) (n : Fin 16) (f : Stack → Stack) : (x.modStack n f).idCert = x.idCert := rfl
@[simp] theorem State.modStack_replies (x : State) (n : Fin 16) (f : Stack → Stack) : (x.modStack n f).replies = x.replies := rfl
@[simp] theorem State.modStack_irq (x : State) (n : Fin 16) (f : Stack → Stack) : (x.modStack n f).irq = x.irq := rfl
@[simp] theorem State.modStack_gyld (x : State) (n : Fin 16) (f : Stack → Stack) : (x.modStack n f).gyld = x.gyld := rfl
@[simp] theorem State.modStack_telemetry (x : State) (n : Fin 16) (f : Stack → Stack) : (x.modStack n f).telemetry = x.telemetry := rfl

/-- A state but for what a read or write at home may change: bytes, errors and their counts (R347, R348). -/
def State.away (s : State) : State :=
  { s with mem := [], poison := [], latent := [], hbm := Vector.replicate 16 .empty, telemetry := [], dies := Vector.replicate 8 .empty }

theorem State.foldl_away {α : Type} (f : State → α → State) (h : ∀ s a, (f s a).away = s.away) (xs : List α) (s : State) :
    (xs.foldl f s).away = s.away := by
  induction xs generalizing s with
  | nil => rfl
  | cons a r ih => rw [List.foldl_cons, ih, h]

theorem State.readWord32_away (s : State) (w : Nat) : (s.readWord32 w).away = s.away := by
  unfold State.readWord32
  cases mfind s.latent w with
  | none => rfl
  | some e =>
    simp only
    split
    · rfl
    · cases e <;> rfl

theorem State.readHome_away (s : State) (pl : Nat) : (s.readHome pl).away = s.away :=
  State.foldl_away _ (fun _ _ => State.readWord32_away ..) _ _

theorem State.writeErrors_away (s : State) (pl : Nat) (offs : List Nat) : (s.writeErrors pl offs).away = s.away := by
  apply State.foldl_away
  intro s i
  simp only
  split
  · rfl
  · apply State.foldl_away
    intro s j
    split
    · rfl
    · exact State.readWord32_away ..

theorem State.homeWrite_away (s : State) (pl : Nat) (ps : List (Nat × Byte)) : (s.homeWrite [] pl ps).away = s.away := by
  unfold State.homeWrite
  split
  · rfl
  · exact State.writeErrors_away ..

/-- A write at home that no log takes changes nothing but bytes, errors and their counts. -/
theorem State.rawWrite_away (s : State) (ps : List (Nat × Byte)) : (s.rawWrite ps).away = s.away :=
  State.foldl_away _ (fun _ _ => State.homeWrite_away ..) _ _

@[simp] theorem State.readHome_cycle (x : State) (pl : Nat) : (x.readHome pl).cycle = x.cycle :=
  have h := congrArg State.cycle (x.readHome_away pl); h
@[simp] theorem State.readHome_time (x : State) (pl : Nat) : (x.readHome pl).time = x.time :=
  have h := congrArg State.time (x.readHome_away pl); h
@[simp] theorem State.readHome_turn (x : State) (pl : Nat) : (x.readHome pl).turn = x.turn :=
  have h := congrArg State.turn (x.readHome_away pl); h
@[simp] theorem State.readHome_agenda (x : State) (pl : Nat) : (x.readHome pl).agenda = x.agenda :=
  have h := congrArg State.agenda (x.readHome_away pl); h
@[simp] theorem State.readHome_inbox (x : State) (pl : Nat) : (x.readHome pl).inbox = x.inbox :=
  have h := congrArg State.inbox (x.readHome_away pl); h
@[simp] theorem State.readHome_args (x : State) (pl : Nat) : (x.readHome pl).args = x.args :=
  have h := congrArg State.args (x.readHome_away pl); h
@[simp] theorem State.readHome_free (x : State) (pl : Nat) : (x.readHome pl).free = x.free :=
  have h := congrArg State.free (x.readHome_away pl); h
@[simp] theorem State.readHome_tiles (x : State) (pl : Nat) : (x.readHome pl).tiles = x.tiles :=
  have h := congrArg State.tiles (x.readHome_away pl); h
@[simp] theorem State.readHome_scrubbed (x : State) (pl : Nat) : (x.readHome pl).scrubbed = x.scrubbed :=
  have h := congrArg State.scrubbed (x.readHome_away pl); h
@[simp] theorem State.readHome_wintab (x : State) (pl : Nat) : (x.readHome pl).wintab = x.wintab :=
  have h := congrArg State.wintab (x.readHome_away pl); h
@[simp] theorem State.readHome_domains (x : State) (pl : Nat) : (x.readHome pl).domains = x.domains :=
  have h := congrArg State.domains (x.readHome_away pl); h
@[simp] theorem State.readHome_links (x : State) (pl : Nat) : (x.readHome pl).links = x.links :=
  have h := congrArg State.links (x.readHome_away pl); h
@[simp] theorem State.readHome_ctxs (x : State) (pl : Nat) : (x.readHome pl).ctxs = x.ctxs :=
  have h := congrArg State.ctxs (x.readHome_away pl); h
@[simp] theorem State.readHome_featAcc (x : State) (pl : Nat) : (x.readHome pl).featAcc = x.featAcc :=
  have h := congrArg State.featAcc (x.readHome_away pl); h
@[simp] theorem State.readHome_ready (x : State) (pl : Nat) : (x.readHome pl).ready = x.ready :=
  have h := congrArg State.ready (x.readHome_away pl); h
@[simp] theorem State.readHome_recovery (x : State) (pl : Nat) : (x.readHome pl).recovery = x.recovery :=
  have h := congrArg State.recovery (x.readHome_away pl); h
@[simp] theorem State.readHome_linkTraining (x : State) (pl : Nat) : (x.readHome pl).linkTraining = x.linkTraining :=
  have h := congrArg State.linkTraining (x.readHome_away pl); h
@[simp] theorem State.readHome_testEnable (x : State) (pl : Nat) : (x.readHome pl).testEnable = x.testEnable :=
  have h := congrArg State.testEnable (x.readHome_away pl); h
@[simp] theorem State.readHome_pwrlim (x : State) (pl : Nat) : (x.readHome pl).pwrlim = x.pwrlim :=
  have h := congrArg State.pwrlim (x.readHome_away pl); h
@[simp] theorem State.readHome_pwrnow (x : State) (pl : Nat) : (x.readHome pl).pwrnow = x.pwrnow :=
  have h := congrArg State.pwrnow (x.readHome_away pl); h
@[simp] theorem State.readHome_governor (x : State) (pl : Nat) : (x.readHome pl).governor = x.governor :=
  have h := congrArg State.governor (x.readHome_away pl); h
@[simp] theorem State.readHome_fpid (x : State) (pl : Nat) : (x.readHome pl).fpid = x.fpid :=
  have h := congrArg State.fpid (x.readHome_away pl); h
@[simp] theorem State.readHome_configLoaded (x : State) (pl : Nat) : (x.readHome pl).configLoaded = x.configLoaded :=
  have h := congrArg State.configLoaded (x.readHome_away pl); h
@[simp] theorem State.readHome_postings (x : State) (pl : Nat) : (x.readHome pl).postings = x.postings :=
  have h := congrArg State.postings (x.readHome_away pl); h
@[simp] theorem State.readHome_peers (x : State) (pl : Nat) : (x.readHome pl).peers = x.peers :=
  have h := congrArg State.peers (x.readHome_away pl); h
@[simp] theorem State.readHome_linkDown (x : State) (pl : Nat) : (x.readHome pl).linkDown = x.linkDown :=
  have h := congrArg State.linkDown (x.readHome_away pl); h
@[simp] theorem State.readHome_spdm (x : State) (pl : Nat) : (x.readHome pl).spdm = x.spdm :=
  have h := congrArg State.spdm (x.readHome_away pl); h
@[simp] theorem State.readHome_idKey (x : State) (pl : Nat) : (x.readHome pl).idKey = x.idKey :=
  have h := congrArg State.idKey (x.readHome_away pl); h
@[simp] theorem State.readHome_idCert (x : State) (pl : Nat) : (x.readHome pl).idCert = x.idCert :=
  have h := congrArg State.idCert (x.readHome_away pl); h
@[simp] theorem State.readHome_replies (x : State) (pl : Nat) : (x.readHome pl).replies = x.replies :=
  have h := congrArg State.replies (x.readHome_away pl); h
@[simp] theorem State.readHome_irq (x : State) (pl : Nat) : (x.readHome pl).irq = x.irq :=
  have h := congrArg State.irq (x.readHome_away pl); h
@[simp] theorem State.readHome_gyld (x : State) (pl : Nat) : (x.readHome pl).gyld = x.gyld :=
  have h := congrArg State.gyld (x.readHome_away pl); h

@[simp] theorem State.rawWrite_cycle (x : State) (ps : List (Nat × Byte)) : (x.rawWrite ps).cycle = x.cycle :=
  have h := congrArg State.cycle (x.rawWrite_away ps); h
@[simp] theorem State.rawWrite_time (x : State) (ps : List (Nat × Byte)) : (x.rawWrite ps).time = x.time :=
  have h := congrArg State.time (x.rawWrite_away ps); h
@[simp] theorem State.rawWrite_turn (x : State) (ps : List (Nat × Byte)) : (x.rawWrite ps).turn = x.turn :=
  have h := congrArg State.turn (x.rawWrite_away ps); h
@[simp] theorem State.rawWrite_agenda (x : State) (ps : List (Nat × Byte)) : (x.rawWrite ps).agenda = x.agenda :=
  have h := congrArg State.agenda (x.rawWrite_away ps); h
@[simp] theorem State.rawWrite_inbox (x : State) (ps : List (Nat × Byte)) : (x.rawWrite ps).inbox = x.inbox :=
  have h := congrArg State.inbox (x.rawWrite_away ps); h
@[simp] theorem State.rawWrite_args (x : State) (ps : List (Nat × Byte)) : (x.rawWrite ps).args = x.args :=
  have h := congrArg State.args (x.rawWrite_away ps); h
@[simp] theorem State.rawWrite_free (x : State) (ps : List (Nat × Byte)) : (x.rawWrite ps).free = x.free :=
  have h := congrArg State.free (x.rawWrite_away ps); h
@[simp] theorem State.rawWrite_tiles (x : State) (ps : List (Nat × Byte)) : (x.rawWrite ps).tiles = x.tiles :=
  have h := congrArg State.tiles (x.rawWrite_away ps); h
@[simp] theorem State.rawWrite_scrubbed (x : State) (ps : List (Nat × Byte)) : (x.rawWrite ps).scrubbed = x.scrubbed :=
  have h := congrArg State.scrubbed (x.rawWrite_away ps); h
@[simp] theorem State.rawWrite_wintab (x : State) (ps : List (Nat × Byte)) : (x.rawWrite ps).wintab = x.wintab :=
  have h := congrArg State.wintab (x.rawWrite_away ps); h
@[simp] theorem State.rawWrite_domains (x : State) (ps : List (Nat × Byte)) : (x.rawWrite ps).domains = x.domains :=
  have h := congrArg State.domains (x.rawWrite_away ps); h
@[simp] theorem State.rawWrite_links (x : State) (ps : List (Nat × Byte)) : (x.rawWrite ps).links = x.links :=
  have h := congrArg State.links (x.rawWrite_away ps); h
@[simp] theorem State.rawWrite_ctxs (x : State) (ps : List (Nat × Byte)) : (x.rawWrite ps).ctxs = x.ctxs :=
  have h := congrArg State.ctxs (x.rawWrite_away ps); h
@[simp] theorem State.rawWrite_featAcc (x : State) (ps : List (Nat × Byte)) : (x.rawWrite ps).featAcc = x.featAcc :=
  have h := congrArg State.featAcc (x.rawWrite_away ps); h
@[simp] theorem State.rawWrite_ready (x : State) (ps : List (Nat × Byte)) : (x.rawWrite ps).ready = x.ready :=
  have h := congrArg State.ready (x.rawWrite_away ps); h
@[simp] theorem State.rawWrite_recovery (x : State) (ps : List (Nat × Byte)) : (x.rawWrite ps).recovery = x.recovery :=
  have h := congrArg State.recovery (x.rawWrite_away ps); h
@[simp] theorem State.rawWrite_linkTraining (x : State) (ps : List (Nat × Byte)) : (x.rawWrite ps).linkTraining = x.linkTraining :=
  have h := congrArg State.linkTraining (x.rawWrite_away ps); h
@[simp] theorem State.rawWrite_testEnable (x : State) (ps : List (Nat × Byte)) : (x.rawWrite ps).testEnable = x.testEnable :=
  have h := congrArg State.testEnable (x.rawWrite_away ps); h
@[simp] theorem State.rawWrite_pwrlim (x : State) (ps : List (Nat × Byte)) : (x.rawWrite ps).pwrlim = x.pwrlim :=
  have h := congrArg State.pwrlim (x.rawWrite_away ps); h
@[simp] theorem State.rawWrite_pwrnow (x : State) (ps : List (Nat × Byte)) : (x.rawWrite ps).pwrnow = x.pwrnow :=
  have h := congrArg State.pwrnow (x.rawWrite_away ps); h
@[simp] theorem State.rawWrite_governor (x : State) (ps : List (Nat × Byte)) : (x.rawWrite ps).governor = x.governor :=
  have h := congrArg State.governor (x.rawWrite_away ps); h
@[simp] theorem State.rawWrite_fpid (x : State) (ps : List (Nat × Byte)) : (x.rawWrite ps).fpid = x.fpid :=
  have h := congrArg State.fpid (x.rawWrite_away ps); h
@[simp] theorem State.rawWrite_configLoaded (x : State) (ps : List (Nat × Byte)) : (x.rawWrite ps).configLoaded = x.configLoaded :=
  have h := congrArg State.configLoaded (x.rawWrite_away ps); h
@[simp] theorem State.rawWrite_postings (x : State) (ps : List (Nat × Byte)) : (x.rawWrite ps).postings = x.postings :=
  have h := congrArg State.postings (x.rawWrite_away ps); h
@[simp] theorem State.rawWrite_peers (x : State) (ps : List (Nat × Byte)) : (x.rawWrite ps).peers = x.peers :=
  have h := congrArg State.peers (x.rawWrite_away ps); h
@[simp] theorem State.rawWrite_linkDown (x : State) (ps : List (Nat × Byte)) : (x.rawWrite ps).linkDown = x.linkDown :=
  have h := congrArg State.linkDown (x.rawWrite_away ps); h
@[simp] theorem State.rawWrite_spdm (x : State) (ps : List (Nat × Byte)) : (x.rawWrite ps).spdm = x.spdm :=
  have h := congrArg State.spdm (x.rawWrite_away ps); h
@[simp] theorem State.rawWrite_idKey (x : State) (ps : List (Nat × Byte)) : (x.rawWrite ps).idKey = x.idKey :=
  have h := congrArg State.idKey (x.rawWrite_away ps); h
@[simp] theorem State.rawWrite_idCert (x : State) (ps : List (Nat × Byte)) : (x.rawWrite ps).idCert = x.idCert :=
  have h := congrArg State.idCert (x.rawWrite_away ps); h
@[simp] theorem State.rawWrite_replies (x : State) (ps : List (Nat × Byte)) : (x.rawWrite ps).replies = x.replies :=
  have h := congrArg State.replies (x.rawWrite_away ps); h
@[simp] theorem State.rawWrite_irq (x : State) (ps : List (Nat × Byte)) : (x.rawWrite ps).irq = x.irq :=
  have h := congrArg State.irq (x.rawWrite_away ps); h
@[simp] theorem State.rawWrite_gyld (x : State) (ps : List (Nat × Byte)) : (x.rawWrite ps).gyld = x.gyld :=
  have h := congrArg State.gyld (x.rawWrite_away ps); h

@[simp] theorem State.bump_cycle (x : State) : (x.bump).cycle = x.cycle := rfl
@[simp] theorem State.bump_time (x : State) : (x.bump).time = x.time := rfl
@[simp] theorem State.bump_turn (x : State) : (x.bump).turn = x.turn := rfl
@[simp] theorem State.bump_agenda (x : State) : (x.bump).agenda = x.agenda := rfl
@[simp] theorem State.bump_inbox (x : State) : (x.bump).inbox = x.inbox := rfl
@[simp] theorem State.bump_args (x : State) : (x.bump).args = x.args := rfl
@[simp] theorem State.bump_tiles (x : State) : (x.bump).tiles = x.tiles := rfl
@[simp] theorem State.bump_dies (x : State) : (x.bump).dies = x.dies := rfl
@[simp] theorem State.bump_mem (x : State) : (x.bump).mem = x.mem := rfl
@[simp] theorem State.bump_poison (x : State) : (x.bump).poison = x.poison := rfl
@[simp] theorem State.bump_latent (x : State) : (x.bump).latent = x.latent := rfl
@[simp] theorem State.bump_scrubbed (x : State) : (x.bump).scrubbed = x.scrubbed := rfl
@[simp] theorem State.bump_wintab (x : State) : (x.bump).wintab = x.wintab := rfl
@[simp] theorem State.bump_hbm (x : State) : (x.bump).hbm = x.hbm := rfl
@[simp] theorem State.bump_domains (x : State) : (x.bump).domains = x.domains := rfl
@[simp] theorem State.bump_links (x : State) : (x.bump).links = x.links := rfl
@[simp] theorem State.bump_ctxs (x : State) : (x.bump).ctxs = x.ctxs := rfl
@[simp] theorem State.bump_featAcc (x : State) : (x.bump).featAcc = x.featAcc := rfl
@[simp] theorem State.bump_ready (x : State) : (x.bump).ready = x.ready := rfl
@[simp] theorem State.bump_recovery (x : State) : (x.bump).recovery = x.recovery := rfl
@[simp] theorem State.bump_linkTraining (x : State) : (x.bump).linkTraining = x.linkTraining := rfl
@[simp] theorem State.bump_testEnable (x : State) : (x.bump).testEnable = x.testEnable := rfl
@[simp] theorem State.bump_pwrlim (x : State) : (x.bump).pwrlim = x.pwrlim := rfl
@[simp] theorem State.bump_pwrnow (x : State) : (x.bump).pwrnow = x.pwrnow := rfl
@[simp] theorem State.bump_governor (x : State) : (x.bump).governor = x.governor := rfl
@[simp] theorem State.bump_fpid (x : State) : (x.bump).fpid = x.fpid := rfl
@[simp] theorem State.bump_configLoaded (x : State) : (x.bump).configLoaded = x.configLoaded := rfl
@[simp] theorem State.bump_postings (x : State) : (x.bump).postings = x.postings := rfl
@[simp] theorem State.bump_peers (x : State) : (x.bump).peers = x.peers := rfl
@[simp] theorem State.bump_linkDown (x : State) : (x.bump).linkDown = x.linkDown := rfl
@[simp] theorem State.bump_spdm (x : State) : (x.bump).spdm = x.spdm := rfl
@[simp] theorem State.bump_idKey (x : State) : (x.bump).idKey = x.idKey := rfl
@[simp] theorem State.bump_idCert (x : State) : (x.bump).idCert = x.idCert := rfl
@[simp] theorem State.bump_replies (x : State) : (x.bump).replies = x.replies := rfl
@[simp] theorem State.bump_irq (x : State) : (x.bump).irq = x.irq := rfl
@[simp] theorem State.bump_gyld (x : State) : (x.bump).gyld = x.gyld := rfl
@[simp] theorem State.bump_telemetry (x : State) : (x.bump).telemetry = x.telemetry := rfl

@[simp] theorem State.modTask_cycle (x : State) (c uid : Nat) (f : Task → Task) : (x.modTask c uid f).cycle = x.cycle := rfl
@[simp] theorem State.modTask_time (x : State) (c uid : Nat) (f : Task → Task) : (x.modTask c uid f).time = x.time := rfl
@[simp] theorem State.modTask_turn (x : State) (c uid : Nat) (f : Task → Task) : (x.modTask c uid f).turn = x.turn := rfl
@[simp] theorem State.modTask_agenda (x : State) (c uid : Nat) (f : Task → Task) : (x.modTask c uid f).agenda = x.agenda := rfl
@[simp] theorem State.modTask_inbox (x : State) (c uid : Nat) (f : Task → Task) : (x.modTask c uid f).inbox = x.inbox := rfl
@[simp] theorem State.modTask_args (x : State) (c uid : Nat) (f : Task → Task) : (x.modTask c uid f).args = x.args := rfl
@[simp] theorem State.modTask_free (x : State) (c uid : Nat) (f : Task → Task) : (x.modTask c uid f).free = x.free := rfl
@[simp] theorem State.modTask_tiles (x : State) (c uid : Nat) (f : Task → Task) : (x.modTask c uid f).tiles = x.tiles := rfl
@[simp] theorem State.modTask_dies (x : State) (c uid : Nat) (f : Task → Task) : (x.modTask c uid f).dies = x.dies := rfl
@[simp] theorem State.modTask_mem (x : State) (c uid : Nat) (f : Task → Task) : (x.modTask c uid f).mem = x.mem := rfl
@[simp] theorem State.modTask_poison (x : State) (c uid : Nat) (f : Task → Task) : (x.modTask c uid f).poison = x.poison := rfl
@[simp] theorem State.modTask_latent (x : State) (c uid : Nat) (f : Task → Task) : (x.modTask c uid f).latent = x.latent := rfl
@[simp] theorem State.modTask_scrubbed (x : State) (c uid : Nat) (f : Task → Task) : (x.modTask c uid f).scrubbed = x.scrubbed := rfl
@[simp] theorem State.modTask_wintab (x : State) (c uid : Nat) (f : Task → Task) : (x.modTask c uid f).wintab = x.wintab := rfl
@[simp] theorem State.modTask_hbm (x : State) (c uid : Nat) (f : Task → Task) : (x.modTask c uid f).hbm = x.hbm := rfl
@[simp] theorem State.modTask_domains (x : State) (c uid : Nat) (f : Task → Task) : (x.modTask c uid f).domains = x.domains := rfl
@[simp] theorem State.modTask_links (x : State) (c uid : Nat) (f : Task → Task) : (x.modTask c uid f).links = x.links := rfl
@[simp] theorem State.modTask_featAcc (x : State) (c uid : Nat) (f : Task → Task) : (x.modTask c uid f).featAcc = x.featAcc := rfl
@[simp] theorem State.modTask_ready (x : State) (c uid : Nat) (f : Task → Task) : (x.modTask c uid f).ready = x.ready := rfl
@[simp] theorem State.modTask_recovery (x : State) (c uid : Nat) (f : Task → Task) : (x.modTask c uid f).recovery = x.recovery := rfl
@[simp] theorem State.modTask_linkTraining (x : State) (c uid : Nat) (f : Task → Task) : (x.modTask c uid f).linkTraining = x.linkTraining := rfl
@[simp] theorem State.modTask_testEnable (x : State) (c uid : Nat) (f : Task → Task) : (x.modTask c uid f).testEnable = x.testEnable := rfl
@[simp] theorem State.modTask_pwrlim (x : State) (c uid : Nat) (f : Task → Task) : (x.modTask c uid f).pwrlim = x.pwrlim := rfl
@[simp] theorem State.modTask_pwrnow (x : State) (c uid : Nat) (f : Task → Task) : (x.modTask c uid f).pwrnow = x.pwrnow := rfl
@[simp] theorem State.modTask_governor (x : State) (c uid : Nat) (f : Task → Task) : (x.modTask c uid f).governor = x.governor := rfl
@[simp] theorem State.modTask_fpid (x : State) (c uid : Nat) (f : Task → Task) : (x.modTask c uid f).fpid = x.fpid := rfl
@[simp] theorem State.modTask_configLoaded (x : State) (c uid : Nat) (f : Task → Task) : (x.modTask c uid f).configLoaded = x.configLoaded := rfl
@[simp] theorem State.modTask_postings (x : State) (c uid : Nat) (f : Task → Task) : (x.modTask c uid f).postings = x.postings := rfl
@[simp] theorem State.modTask_peers (x : State) (c uid : Nat) (f : Task → Task) : (x.modTask c uid f).peers = x.peers := rfl
@[simp] theorem State.modTask_linkDown (x : State) (c uid : Nat) (f : Task → Task) : (x.modTask c uid f).linkDown = x.linkDown := rfl
@[simp] theorem State.modTask_spdm (x : State) (c uid : Nat) (f : Task → Task) : (x.modTask c uid f).spdm = x.spdm := rfl
@[simp] theorem State.modTask_idKey (x : State) (c uid : Nat) (f : Task → Task) : (x.modTask c uid f).idKey = x.idKey := rfl
@[simp] theorem State.modTask_idCert (x : State) (c uid : Nat) (f : Task → Task) : (x.modTask c uid f).idCert = x.idCert := rfl
@[simp] theorem State.modTask_replies (x : State) (c uid : Nat) (f : Task → Task) : (x.modTask c uid f).replies = x.replies := rfl
@[simp] theorem State.modTask_irq (x : State) (c uid : Nat) (f : Task → Task) : (x.modTask c uid f).irq = x.irq := rfl
@[simp] theorem State.modTask_gyld (x : State) (c uid : Nat) (f : Task → Task) : (x.modTask c uid f).gyld = x.gyld := rfl
@[simp] theorem State.modTask_telemetry (x : State) (c uid : Nat) (f : Task → Task) : (x.modTask c uid f).telemetry = x.telemetry := rfl

/-! ### A strand -/

@[simp] theorem Strand.setX_run (x : Strand) (n : Fin 64) (v : Word) : (x.setX n v).run = x.run := rfl
@[simp] theorem Strand.setX_g (x : Strand) (n : Fin 64) (v : Word) : (x.setX n v).g = x.g := rfl
@[simp] theorem Strand.setX_pc (x : Strand) (n : Fin 64) (v : Word) : (x.setX n v).pc = x.pc := rfl
@[simp] theorem Strand.setX_store (x : Strand) (n : Fin 64) (v : Word) : (x.setX n v).store = x.store := rfl
@[simp] theorem Strand.setX_repLeft (x : Strand) (n : Fin 64) (v : Word) : (x.setX n v).repLeft = x.repLeft := rfl
@[simp] theorem Strand.setX_smode (x : Strand) (n : Fin 64) (v : Word) : (x.setX n v).smode = x.smode := rfl
@[simp] theorem Strand.setX_sstat (x : Strand) (n : Fin 64) (v : Word) : (x.setX n v).sstat = x.sstat := rfl
@[simp] theorem Strand.setX_cyc (x : Strand) (n : Fin 64) (v : Word) : (x.setX n v).cyc = x.cyc := rfl
@[simp] theorem Strand.setX_issued (x : Strand) (n : Fin 64) (v : Word) : (x.setX n v).issued = x.issued := rfl
@[simp] theorem Strand.setX_stall (x : Strand) (n : Fin 64) (v : Word) : (x.setX n v).stall = x.stall := rfl
@[simp] theorem Strand.setX_lodc (x : Strand) (n : Fin 64) (v : Word) : (x.setX n v).lodc = x.lodc := rfl
@[simp] theorem Strand.setX_lodcy (x : Strand) (n : Fin 64) (v : Word) : (x.setX n v).lodcy = x.lodcy := rfl
@[simp] theorem Strand.setX_ldcnt (x : Strand) (n : Fin 64) (v : Word) : (x.setX n v).ldcnt = x.ldcnt := rfl
@[simp] theorem Strand.setX_localLd (x : Strand) (n : Fin 64) (v : Word) : (x.setX n v).localLd = x.localLd := rfl
@[simp] theorem Strand.setX_stcnt (x : Strand) (n : Fin 64) (v : Word) : (x.setX n v).stcnt = x.stcnt := rfl
@[simp] theorem Strand.setX_cpcnt (x : Strand) (n : Fin 64) (v : Word) : (x.setX n v).cpcnt = x.cpcnt := rfl
@[simp] theorem Strand.setX_inner (x : Strand) (n : Fin 64) (v : Word) : (x.setX n v).inner = x.inner := rfl
@[simp] theorem Strand.setX_outer (x : Strand) (n : Fin 64) (v : Word) : (x.setX n v).outer = x.outer := rfl
@[simp] theorem Strand.setX_rstack (x : Strand) (n : Fin 64) (v : Word) : (x.setX n v).rstack = x.rstack := rfl
@[simp] theorem Strand.setX_mdc (x : Strand) (n : Fin 64) (v : Word) : (x.setX n v).mdc = x.mdc := rfl
@[simp] theorem Strand.setX_bpa (x : Strand) (n : Fin 64) (v : Word) : (x.setX n v).bpa = x.bpa := rfl
@[simp] theorem Strand.setX_dbgctl (x : Strand) (n : Fin 64) (v : Word) : (x.setX n v).dbgctl = x.dbgctl := rfl
@[simp] theorem Strand.setX_operands (x : Strand) (n : Fin 64) (v : Word) : (x.setX n v).operands = x.operands := rfl
@[simp] theorem Strand.setX_ports (x : Strand) (n : Fin 64) (v : Word) : (x.setX n v).ports = x.ports := rfl
@[simp] theorem Strand.setX_flights (x : Strand) (n : Fin 64) (v : Word) : (x.setX n v).flights = x.flights := rfl
@[simp] theorem Strand.setX_mapped (x : Strand) (n : Fin 64) (v : Word) : (x.setX n v).mapped = x.mapped := rfl
@[simp] theorem Strand.setX_accesses (x : Strand) (n : Fin 64) (v : Word) : (x.setX n v).accesses = x.accesses := rfl
@[simp] theorem Strand.setX_sb (x : Strand) (n : Fin 64) (v : Word) : (x.setX n v).sb = x.sb := rfl
@[simp] theorem Strand.setX_posts (x : Strand) (n : Fin 64) (v : Word) : (x.setX n v).posts = x.posts := rfl
@[simp] theorem Strand.setX_nextId (x : Strand) (n : Fin 64) (v : Word) : (x.setX n v).nextId = x.nextId := rfl
@[simp] theorem Strand.setX_mailbox (x : Strand) (n : Fin 64) (v : Word) : (x.setX n v).mailbox = x.mailbox := rfl
@[simp] theorem Strand.setX_mailHeld (x : Strand) (n : Fin 64) (v : Word) : (x.setX n v).mailHeld = x.mailHeld := rfl
@[simp] theorem Strand.setX_mailPop (x : Strand) (n : Fin 64) (v : Word) : (x.setX n v).mailPop = x.mailPop := rfl
@[simp] theorem Strand.setX_lodWait (x : Strand) (n : Fin 64) (v : Word) : (x.setX n v).lodWait = x.lodWait := rfl
@[simp] theorem Strand.setX_lsBusy (x : Strand) (n : Fin 64) (v : Word) : (x.setX n v).lsBusy = x.lsBusy := rfl
@[simp] theorem Strand.setX_token (x : Strand) (n : Fin 64) (v : Word) : (x.setX n v).token = x.token := rfl
@[simp] theorem Strand.setX_fault (x : Strand) (n : Fin 64) (v : Word) : (x.setX n v).fault = x.fault := rfl
@[simp] theorem Strand.setX_resumeAt (x : Strand) (n : Fin 64) (v : Word) : (x.setX n v).resumeAt = x.resumeAt := rfl
@[simp] theorem Strand.setX_stepping (x : Strand) (n : Fin 64) (v : Word) : (x.setX n v).stepping = x.stepping := rfl
@[simp] theorem Strand.setX_pass (x : Strand) (n : Fin 64) (v : Word) : (x.setX n v).pass = x.pass := rfl
@[simp] theorem Strand.setX_issuedAt (x : Strand) (n : Fin 64) (v : Word) : (x.setX n v).issuedAt = x.issuedAt := rfl
@[simp] theorem Strand.setX_advancedAt (x : Strand) (n : Fin 64) (v : Word) : (x.setX n v).advancedAt = x.advancedAt := rfl

@[simp] theorem Strand.setG_run (x : Strand) (n : Fin 3) (b : Bool) : (x.setG n b).run = x.run := rfl
@[simp] theorem Strand.setG_x (x : Strand) (n : Fin 3) (b : Bool) : (x.setG n b).x = x.x := rfl
@[simp] theorem Strand.setG_pc (x : Strand) (n : Fin 3) (b : Bool) : (x.setG n b).pc = x.pc := rfl
@[simp] theorem Strand.setG_store (x : Strand) (n : Fin 3) (b : Bool) : (x.setG n b).store = x.store := rfl
@[simp] theorem Strand.setG_repLeft (x : Strand) (n : Fin 3) (b : Bool) : (x.setG n b).repLeft = x.repLeft := rfl
@[simp] theorem Strand.setG_smode (x : Strand) (n : Fin 3) (b : Bool) : (x.setG n b).smode = x.smode := rfl
@[simp] theorem Strand.setG_sstat (x : Strand) (n : Fin 3) (b : Bool) : (x.setG n b).sstat = x.sstat := rfl
@[simp] theorem Strand.setG_cyc (x : Strand) (n : Fin 3) (b : Bool) : (x.setG n b).cyc = x.cyc := rfl
@[simp] theorem Strand.setG_issued (x : Strand) (n : Fin 3) (b : Bool) : (x.setG n b).issued = x.issued := rfl
@[simp] theorem Strand.setG_stall (x : Strand) (n : Fin 3) (b : Bool) : (x.setG n b).stall = x.stall := rfl
@[simp] theorem Strand.setG_lodc (x : Strand) (n : Fin 3) (b : Bool) : (x.setG n b).lodc = x.lodc := rfl
@[simp] theorem Strand.setG_lodcy (x : Strand) (n : Fin 3) (b : Bool) : (x.setG n b).lodcy = x.lodcy := rfl
@[simp] theorem Strand.setG_ldcnt (x : Strand) (n : Fin 3) (b : Bool) : (x.setG n b).ldcnt = x.ldcnt := rfl
@[simp] theorem Strand.setG_localLd (x : Strand) (n : Fin 3) (b : Bool) : (x.setG n b).localLd = x.localLd := rfl
@[simp] theorem Strand.setG_stcnt (x : Strand) (n : Fin 3) (b : Bool) : (x.setG n b).stcnt = x.stcnt := rfl
@[simp] theorem Strand.setG_cpcnt (x : Strand) (n : Fin 3) (b : Bool) : (x.setG n b).cpcnt = x.cpcnt := rfl
@[simp] theorem Strand.setG_inner (x : Strand) (n : Fin 3) (b : Bool) : (x.setG n b).inner = x.inner := rfl
@[simp] theorem Strand.setG_outer (x : Strand) (n : Fin 3) (b : Bool) : (x.setG n b).outer = x.outer := rfl
@[simp] theorem Strand.setG_rstack (x : Strand) (n : Fin 3) (b : Bool) : (x.setG n b).rstack = x.rstack := rfl
@[simp] theorem Strand.setG_mdc (x : Strand) (n : Fin 3) (b : Bool) : (x.setG n b).mdc = x.mdc := rfl
@[simp] theorem Strand.setG_bpa (x : Strand) (n : Fin 3) (b : Bool) : (x.setG n b).bpa = x.bpa := rfl
@[simp] theorem Strand.setG_dbgctl (x : Strand) (n : Fin 3) (b : Bool) : (x.setG n b).dbgctl = x.dbgctl := rfl
@[simp] theorem Strand.setG_operands (x : Strand) (n : Fin 3) (b : Bool) : (x.setG n b).operands = x.operands := rfl
@[simp] theorem Strand.setG_ports (x : Strand) (n : Fin 3) (b : Bool) : (x.setG n b).ports = x.ports := rfl
@[simp] theorem Strand.setG_flights (x : Strand) (n : Fin 3) (b : Bool) : (x.setG n b).flights = x.flights := rfl
@[simp] theorem Strand.setG_mapped (x : Strand) (n : Fin 3) (b : Bool) : (x.setG n b).mapped = x.mapped := rfl
@[simp] theorem Strand.setG_accesses (x : Strand) (n : Fin 3) (b : Bool) : (x.setG n b).accesses = x.accesses := rfl
@[simp] theorem Strand.setG_sb (x : Strand) (n : Fin 3) (b : Bool) : (x.setG n b).sb = x.sb := rfl
@[simp] theorem Strand.setG_posts (x : Strand) (n : Fin 3) (b : Bool) : (x.setG n b).posts = x.posts := rfl
@[simp] theorem Strand.setG_nextId (x : Strand) (n : Fin 3) (b : Bool) : (x.setG n b).nextId = x.nextId := rfl
@[simp] theorem Strand.setG_mailbox (x : Strand) (n : Fin 3) (b : Bool) : (x.setG n b).mailbox = x.mailbox := rfl
@[simp] theorem Strand.setG_mailHeld (x : Strand) (n : Fin 3) (b : Bool) : (x.setG n b).mailHeld = x.mailHeld := rfl
@[simp] theorem Strand.setG_mailPop (x : Strand) (n : Fin 3) (b : Bool) : (x.setG n b).mailPop = x.mailPop := rfl
@[simp] theorem Strand.setG_lodWait (x : Strand) (n : Fin 3) (b : Bool) : (x.setG n b).lodWait = x.lodWait := rfl
@[simp] theorem Strand.setG_lsBusy (x : Strand) (n : Fin 3) (b : Bool) : (x.setG n b).lsBusy = x.lsBusy := rfl
@[simp] theorem Strand.setG_token (x : Strand) (n : Fin 3) (b : Bool) : (x.setG n b).token = x.token := rfl
@[simp] theorem Strand.setG_fault (x : Strand) (n : Fin 3) (b : Bool) : (x.setG n b).fault = x.fault := rfl
@[simp] theorem Strand.setG_resumeAt (x : Strand) (n : Fin 3) (b : Bool) : (x.setG n b).resumeAt = x.resumeAt := rfl
@[simp] theorem Strand.setG_stepping (x : Strand) (n : Fin 3) (b : Bool) : (x.setG n b).stepping = x.stepping := rfl
@[simp] theorem Strand.setG_pass (x : Strand) (n : Fin 3) (b : Bool) : (x.setG n b).pass = x.pass := rfl
@[simp] theorem Strand.setG_issuedAt (x : Strand) (n : Fin 3) (b : Bool) : (x.setG n b).issuedAt = x.issuedAt := rfl
@[simp] theorem Strand.setG_advancedAt (x : Strand) (n : Fin 3) (b : Bool) : (x.setG n b).advancedAt = x.advancedAt := rfl

@[simp] theorem Strand.setOpnd_run (x : Strand) (d : Nat) (v : Vec) : (x.setOpnd d v).run = x.run := rfl
@[simp] theorem Strand.setOpnd_x (x : Strand) (d : Nat) (v : Vec) : (x.setOpnd d v).x = x.x := rfl
@[simp] theorem Strand.setOpnd_g (x : Strand) (d : Nat) (v : Vec) : (x.setOpnd d v).g = x.g := rfl
@[simp] theorem Strand.setOpnd_pc (x : Strand) (d : Nat) (v : Vec) : (x.setOpnd d v).pc = x.pc := rfl
@[simp] theorem Strand.setOpnd_store (x : Strand) (d : Nat) (v : Vec) : (x.setOpnd d v).store = x.store := rfl
@[simp] theorem Strand.setOpnd_repLeft (x : Strand) (d : Nat) (v : Vec) : (x.setOpnd d v).repLeft = x.repLeft := rfl
@[simp] theorem Strand.setOpnd_smode (x : Strand) (d : Nat) (v : Vec) : (x.setOpnd d v).smode = x.smode := rfl
@[simp] theorem Strand.setOpnd_sstat (x : Strand) (d : Nat) (v : Vec) : (x.setOpnd d v).sstat = x.sstat := rfl
@[simp] theorem Strand.setOpnd_cyc (x : Strand) (d : Nat) (v : Vec) : (x.setOpnd d v).cyc = x.cyc := rfl
@[simp] theorem Strand.setOpnd_issued (x : Strand) (d : Nat) (v : Vec) : (x.setOpnd d v).issued = x.issued := rfl
@[simp] theorem Strand.setOpnd_stall (x : Strand) (d : Nat) (v : Vec) : (x.setOpnd d v).stall = x.stall := rfl
@[simp] theorem Strand.setOpnd_lodc (x : Strand) (d : Nat) (v : Vec) : (x.setOpnd d v).lodc = x.lodc := rfl
@[simp] theorem Strand.setOpnd_lodcy (x : Strand) (d : Nat) (v : Vec) : (x.setOpnd d v).lodcy = x.lodcy := rfl
@[simp] theorem Strand.setOpnd_ldcnt (x : Strand) (d : Nat) (v : Vec) : (x.setOpnd d v).ldcnt = x.ldcnt := rfl
@[simp] theorem Strand.setOpnd_localLd (x : Strand) (d : Nat) (v : Vec) : (x.setOpnd d v).localLd = x.localLd := rfl
@[simp] theorem Strand.setOpnd_stcnt (x : Strand) (d : Nat) (v : Vec) : (x.setOpnd d v).stcnt = x.stcnt := rfl
@[simp] theorem Strand.setOpnd_cpcnt (x : Strand) (d : Nat) (v : Vec) : (x.setOpnd d v).cpcnt = x.cpcnt := rfl
@[simp] theorem Strand.setOpnd_inner (x : Strand) (d : Nat) (v : Vec) : (x.setOpnd d v).inner = x.inner := rfl
@[simp] theorem Strand.setOpnd_outer (x : Strand) (d : Nat) (v : Vec) : (x.setOpnd d v).outer = x.outer := rfl
@[simp] theorem Strand.setOpnd_rstack (x : Strand) (d : Nat) (v : Vec) : (x.setOpnd d v).rstack = x.rstack := rfl
@[simp] theorem Strand.setOpnd_mdc (x : Strand) (d : Nat) (v : Vec) : (x.setOpnd d v).mdc = x.mdc := rfl
@[simp] theorem Strand.setOpnd_bpa (x : Strand) (d : Nat) (v : Vec) : (x.setOpnd d v).bpa = x.bpa := rfl
@[simp] theorem Strand.setOpnd_dbgctl (x : Strand) (d : Nat) (v : Vec) : (x.setOpnd d v).dbgctl = x.dbgctl := rfl
@[simp] theorem Strand.setOpnd_ports (x : Strand) (d : Nat) (v : Vec) : (x.setOpnd d v).ports = x.ports := rfl
@[simp] theorem Strand.setOpnd_flights (x : Strand) (d : Nat) (v : Vec) : (x.setOpnd d v).flights = x.flights := rfl
@[simp] theorem Strand.setOpnd_mapped (x : Strand) (d : Nat) (v : Vec) : (x.setOpnd d v).mapped = x.mapped := rfl
@[simp] theorem Strand.setOpnd_accesses (x : Strand) (d : Nat) (v : Vec) : (x.setOpnd d v).accesses = x.accesses := rfl
@[simp] theorem Strand.setOpnd_sb (x : Strand) (d : Nat) (v : Vec) : (x.setOpnd d v).sb = x.sb := rfl
@[simp] theorem Strand.setOpnd_posts (x : Strand) (d : Nat) (v : Vec) : (x.setOpnd d v).posts = x.posts := rfl
@[simp] theorem Strand.setOpnd_nextId (x : Strand) (d : Nat) (v : Vec) : (x.setOpnd d v).nextId = x.nextId := rfl
@[simp] theorem Strand.setOpnd_mailbox (x : Strand) (d : Nat) (v : Vec) : (x.setOpnd d v).mailbox = x.mailbox := rfl
@[simp] theorem Strand.setOpnd_mailHeld (x : Strand) (d : Nat) (v : Vec) : (x.setOpnd d v).mailHeld = x.mailHeld := rfl
@[simp] theorem Strand.setOpnd_mailPop (x : Strand) (d : Nat) (v : Vec) : (x.setOpnd d v).mailPop = x.mailPop := rfl
@[simp] theorem Strand.setOpnd_lodWait (x : Strand) (d : Nat) (v : Vec) : (x.setOpnd d v).lodWait = x.lodWait := rfl
@[simp] theorem Strand.setOpnd_lsBusy (x : Strand) (d : Nat) (v : Vec) : (x.setOpnd d v).lsBusy = x.lsBusy := rfl
@[simp] theorem Strand.setOpnd_token (x : Strand) (d : Nat) (v : Vec) : (x.setOpnd d v).token = x.token := rfl
@[simp] theorem Strand.setOpnd_fault (x : Strand) (d : Nat) (v : Vec) : (x.setOpnd d v).fault = x.fault := rfl
@[simp] theorem Strand.setOpnd_resumeAt (x : Strand) (d : Nat) (v : Vec) : (x.setOpnd d v).resumeAt = x.resumeAt := rfl
@[simp] theorem Strand.setOpnd_stepping (x : Strand) (d : Nat) (v : Vec) : (x.setOpnd d v).stepping = x.stepping := rfl
@[simp] theorem Strand.setOpnd_pass (x : Strand) (d : Nat) (v : Vec) : (x.setOpnd d v).pass = x.pass := rfl
@[simp] theorem Strand.setOpnd_issuedAt (x : Strand) (d : Nat) (v : Vec) : (x.setOpnd d v).issuedAt = x.issuedAt := rfl
@[simp] theorem Strand.setOpnd_advancedAt (x : Strand) (d : Nat) (v : Vec) : (x.setOpnd d v).advancedAt = x.advancedAt := rfl

@[simp] theorem Strand.setPort_run (x : Strand) (p : ResPort) (v : PortState) : (x.setPort p v).run = x.run := rfl
@[simp] theorem Strand.setPort_x (x : Strand) (p : ResPort) (v : PortState) : (x.setPort p v).x = x.x := rfl
@[simp] theorem Strand.setPort_g (x : Strand) (p : ResPort) (v : PortState) : (x.setPort p v).g = x.g := rfl
@[simp] theorem Strand.setPort_pc (x : Strand) (p : ResPort) (v : PortState) : (x.setPort p v).pc = x.pc := rfl
@[simp] theorem Strand.setPort_store (x : Strand) (p : ResPort) (v : PortState) : (x.setPort p v).store = x.store := rfl
@[simp] theorem Strand.setPort_repLeft (x : Strand) (p : ResPort) (v : PortState) : (x.setPort p v).repLeft = x.repLeft := rfl
@[simp] theorem Strand.setPort_smode (x : Strand) (p : ResPort) (v : PortState) : (x.setPort p v).smode = x.smode := rfl
@[simp] theorem Strand.setPort_sstat (x : Strand) (p : ResPort) (v : PortState) : (x.setPort p v).sstat = x.sstat := rfl
@[simp] theorem Strand.setPort_cyc (x : Strand) (p : ResPort) (v : PortState) : (x.setPort p v).cyc = x.cyc := rfl
@[simp] theorem Strand.setPort_issued (x : Strand) (p : ResPort) (v : PortState) : (x.setPort p v).issued = x.issued := rfl
@[simp] theorem Strand.setPort_stall (x : Strand) (p : ResPort) (v : PortState) : (x.setPort p v).stall = x.stall := rfl
@[simp] theorem Strand.setPort_lodc (x : Strand) (p : ResPort) (v : PortState) : (x.setPort p v).lodc = x.lodc := rfl
@[simp] theorem Strand.setPort_lodcy (x : Strand) (p : ResPort) (v : PortState) : (x.setPort p v).lodcy = x.lodcy := rfl
@[simp] theorem Strand.setPort_ldcnt (x : Strand) (p : ResPort) (v : PortState) : (x.setPort p v).ldcnt = x.ldcnt := rfl
@[simp] theorem Strand.setPort_localLd (x : Strand) (p : ResPort) (v : PortState) : (x.setPort p v).localLd = x.localLd := rfl
@[simp] theorem Strand.setPort_stcnt (x : Strand) (p : ResPort) (v : PortState) : (x.setPort p v).stcnt = x.stcnt := rfl
@[simp] theorem Strand.setPort_cpcnt (x : Strand) (p : ResPort) (v : PortState) : (x.setPort p v).cpcnt = x.cpcnt := rfl
@[simp] theorem Strand.setPort_inner (x : Strand) (p : ResPort) (v : PortState) : (x.setPort p v).inner = x.inner := rfl
@[simp] theorem Strand.setPort_outer (x : Strand) (p : ResPort) (v : PortState) : (x.setPort p v).outer = x.outer := rfl
@[simp] theorem Strand.setPort_rstack (x : Strand) (p : ResPort) (v : PortState) : (x.setPort p v).rstack = x.rstack := rfl
@[simp] theorem Strand.setPort_mdc (x : Strand) (p : ResPort) (v : PortState) : (x.setPort p v).mdc = x.mdc := rfl
@[simp] theorem Strand.setPort_bpa (x : Strand) (p : ResPort) (v : PortState) : (x.setPort p v).bpa = x.bpa := rfl
@[simp] theorem Strand.setPort_dbgctl (x : Strand) (p : ResPort) (v : PortState) : (x.setPort p v).dbgctl = x.dbgctl := rfl
@[simp] theorem Strand.setPort_operands (x : Strand) (p : ResPort) (v : PortState) : (x.setPort p v).operands = x.operands := rfl
@[simp] theorem Strand.setPort_flights (x : Strand) (p : ResPort) (v : PortState) : (x.setPort p v).flights = x.flights := rfl
@[simp] theorem Strand.setPort_mapped (x : Strand) (p : ResPort) (v : PortState) : (x.setPort p v).mapped = x.mapped := rfl
@[simp] theorem Strand.setPort_accesses (x : Strand) (p : ResPort) (v : PortState) : (x.setPort p v).accesses = x.accesses := rfl
@[simp] theorem Strand.setPort_sb (x : Strand) (p : ResPort) (v : PortState) : (x.setPort p v).sb = x.sb := rfl
@[simp] theorem Strand.setPort_posts (x : Strand) (p : ResPort) (v : PortState) : (x.setPort p v).posts = x.posts := rfl
@[simp] theorem Strand.setPort_nextId (x : Strand) (p : ResPort) (v : PortState) : (x.setPort p v).nextId = x.nextId := rfl
@[simp] theorem Strand.setPort_mailbox (x : Strand) (p : ResPort) (v : PortState) : (x.setPort p v).mailbox = x.mailbox := rfl
@[simp] theorem Strand.setPort_mailHeld (x : Strand) (p : ResPort) (v : PortState) : (x.setPort p v).mailHeld = x.mailHeld := rfl
@[simp] theorem Strand.setPort_mailPop (x : Strand) (p : ResPort) (v : PortState) : (x.setPort p v).mailPop = x.mailPop := rfl
@[simp] theorem Strand.setPort_lodWait (x : Strand) (p : ResPort) (v : PortState) : (x.setPort p v).lodWait = x.lodWait := rfl
@[simp] theorem Strand.setPort_lsBusy (x : Strand) (p : ResPort) (v : PortState) : (x.setPort p v).lsBusy = x.lsBusy := rfl
@[simp] theorem Strand.setPort_token (x : Strand) (p : ResPort) (v : PortState) : (x.setPort p v).token = x.token := rfl
@[simp] theorem Strand.setPort_fault (x : Strand) (p : ResPort) (v : PortState) : (x.setPort p v).fault = x.fault := rfl
@[simp] theorem Strand.setPort_resumeAt (x : Strand) (p : ResPort) (v : PortState) : (x.setPort p v).resumeAt = x.resumeAt := rfl
@[simp] theorem Strand.setPort_stepping (x : Strand) (p : ResPort) (v : PortState) : (x.setPort p v).stepping = x.stepping := rfl
@[simp] theorem Strand.setPort_pass (x : Strand) (p : ResPort) (v : PortState) : (x.setPort p v).pass = x.pass := rfl
@[simp] theorem Strand.setPort_issuedAt (x : Strand) (p : ResPort) (v : PortState) : (x.setPort p v).issuedAt = x.issuedAt := rfl
@[simp] theorem Strand.setPort_advancedAt (x : Strand) (p : ResPort) (v : PortState) : (x.setPort p v).advancedAt = x.advancedAt := rfl

@[simp] theorem Strand.consume_run (x : Strand) (p : ResPort) : (x.consume p).run = x.run := rfl
@[simp] theorem Strand.consume_x (x : Strand) (p : ResPort) : (x.consume p).x = x.x := rfl
@[simp] theorem Strand.consume_g (x : Strand) (p : ResPort) : (x.consume p).g = x.g := rfl
@[simp] theorem Strand.consume_pc (x : Strand) (p : ResPort) : (x.consume p).pc = x.pc := rfl
@[simp] theorem Strand.consume_store (x : Strand) (p : ResPort) : (x.consume p).store = x.store := rfl
@[simp] theorem Strand.consume_repLeft (x : Strand) (p : ResPort) : (x.consume p).repLeft = x.repLeft := rfl
@[simp] theorem Strand.consume_smode (x : Strand) (p : ResPort) : (x.consume p).smode = x.smode := rfl
@[simp] theorem Strand.consume_sstat (x : Strand) (p : ResPort) : (x.consume p).sstat = x.sstat := rfl
@[simp] theorem Strand.consume_cyc (x : Strand) (p : ResPort) : (x.consume p).cyc = x.cyc := rfl
@[simp] theorem Strand.consume_issued (x : Strand) (p : ResPort) : (x.consume p).issued = x.issued := rfl
@[simp] theorem Strand.consume_stall (x : Strand) (p : ResPort) : (x.consume p).stall = x.stall := rfl
@[simp] theorem Strand.consume_lodc (x : Strand) (p : ResPort) : (x.consume p).lodc = x.lodc := rfl
@[simp] theorem Strand.consume_lodcy (x : Strand) (p : ResPort) : (x.consume p).lodcy = x.lodcy := rfl
@[simp] theorem Strand.consume_ldcnt (x : Strand) (p : ResPort) : (x.consume p).ldcnt = x.ldcnt := rfl
@[simp] theorem Strand.consume_localLd (x : Strand) (p : ResPort) : (x.consume p).localLd = x.localLd := rfl
@[simp] theorem Strand.consume_stcnt (x : Strand) (p : ResPort) : (x.consume p).stcnt = x.stcnt := rfl
@[simp] theorem Strand.consume_cpcnt (x : Strand) (p : ResPort) : (x.consume p).cpcnt = x.cpcnt := rfl
@[simp] theorem Strand.consume_inner (x : Strand) (p : ResPort) : (x.consume p).inner = x.inner := rfl
@[simp] theorem Strand.consume_outer (x : Strand) (p : ResPort) : (x.consume p).outer = x.outer := rfl
@[simp] theorem Strand.consume_rstack (x : Strand) (p : ResPort) : (x.consume p).rstack = x.rstack := rfl
@[simp] theorem Strand.consume_mdc (x : Strand) (p : ResPort) : (x.consume p).mdc = x.mdc := rfl
@[simp] theorem Strand.consume_bpa (x : Strand) (p : ResPort) : (x.consume p).bpa = x.bpa := rfl
@[simp] theorem Strand.consume_dbgctl (x : Strand) (p : ResPort) : (x.consume p).dbgctl = x.dbgctl := rfl
@[simp] theorem Strand.consume_operands (x : Strand) (p : ResPort) : (x.consume p).operands = x.operands := rfl
@[simp] theorem Strand.consume_flights (x : Strand) (p : ResPort) : (x.consume p).flights = x.flights := rfl
@[simp] theorem Strand.consume_mapped (x : Strand) (p : ResPort) : (x.consume p).mapped = x.mapped := rfl
@[simp] theorem Strand.consume_accesses (x : Strand) (p : ResPort) : (x.consume p).accesses = x.accesses := rfl
@[simp] theorem Strand.consume_sb (x : Strand) (p : ResPort) : (x.consume p).sb = x.sb := rfl
@[simp] theorem Strand.consume_posts (x : Strand) (p : ResPort) : (x.consume p).posts = x.posts := rfl
@[simp] theorem Strand.consume_nextId (x : Strand) (p : ResPort) : (x.consume p).nextId = x.nextId := rfl
@[simp] theorem Strand.consume_mailbox (x : Strand) (p : ResPort) : (x.consume p).mailbox = x.mailbox := rfl
@[simp] theorem Strand.consume_mailHeld (x : Strand) (p : ResPort) : (x.consume p).mailHeld = x.mailHeld := rfl
@[simp] theorem Strand.consume_mailPop (x : Strand) (p : ResPort) : (x.consume p).mailPop = x.mailPop := rfl
@[simp] theorem Strand.consume_lodWait (x : Strand) (p : ResPort) : (x.consume p).lodWait = x.lodWait := rfl
@[simp] theorem Strand.consume_lsBusy (x : Strand) (p : ResPort) : (x.consume p).lsBusy = x.lsBusy := rfl
@[simp] theorem Strand.consume_token (x : Strand) (p : ResPort) : (x.consume p).token = x.token := rfl
@[simp] theorem Strand.consume_fault (x : Strand) (p : ResPort) : (x.consume p).fault = x.fault := rfl
@[simp] theorem Strand.consume_resumeAt (x : Strand) (p : ResPort) : (x.consume p).resumeAt = x.resumeAt := rfl
@[simp] theorem Strand.consume_stepping (x : Strand) (p : ResPort) : (x.consume p).stepping = x.stepping := rfl
@[simp] theorem Strand.consume_pass (x : Strand) (p : ResPort) : (x.consume p).pass = x.pass := rfl
@[simp] theorem Strand.consume_issuedAt (x : Strand) (p : ResPort) : (x.consume p).issuedAt = x.issuedAt := rfl
@[simp] theorem Strand.consume_advancedAt (x : Strand) (p : ResPort) : (x.consume p).advancedAt = x.advancedAt := rfl

@[simp] theorem Strand.fly_run (x : Strand) (d : Option Nat) (p : ResPort) (r : Result) (b : Bool) : (x.fly d p r b).run = x.run := rfl
@[simp] theorem Strand.fly_x (x : Strand) (d : Option Nat) (p : ResPort) (r : Result) (b : Bool) : (x.fly d p r b).x = x.x := rfl
@[simp] theorem Strand.fly_g (x : Strand) (d : Option Nat) (p : ResPort) (r : Result) (b : Bool) : (x.fly d p r b).g = x.g := rfl
@[simp] theorem Strand.fly_pc (x : Strand) (d : Option Nat) (p : ResPort) (r : Result) (b : Bool) : (x.fly d p r b).pc = x.pc := rfl
@[simp] theorem Strand.fly_store (x : Strand) (d : Option Nat) (p : ResPort) (r : Result) (b : Bool) : (x.fly d p r b).store = x.store := rfl
@[simp] theorem Strand.fly_repLeft (x : Strand) (d : Option Nat) (p : ResPort) (r : Result) (b : Bool) : (x.fly d p r b).repLeft = x.repLeft := rfl
@[simp] theorem Strand.fly_smode (x : Strand) (d : Option Nat) (p : ResPort) (r : Result) (b : Bool) : (x.fly d p r b).smode = x.smode := rfl
@[simp] theorem Strand.fly_sstat (x : Strand) (d : Option Nat) (p : ResPort) (r : Result) (b : Bool) : (x.fly d p r b).sstat = x.sstat := rfl
@[simp] theorem Strand.fly_cyc (x : Strand) (d : Option Nat) (p : ResPort) (r : Result) (b : Bool) : (x.fly d p r b).cyc = x.cyc := rfl
@[simp] theorem Strand.fly_issued (x : Strand) (d : Option Nat) (p : ResPort) (r : Result) (b : Bool) : (x.fly d p r b).issued = x.issued := rfl
@[simp] theorem Strand.fly_stall (x : Strand) (d : Option Nat) (p : ResPort) (r : Result) (b : Bool) : (x.fly d p r b).stall = x.stall := rfl
@[simp] theorem Strand.fly_lodc (x : Strand) (d : Option Nat) (p : ResPort) (r : Result) (b : Bool) : (x.fly d p r b).lodc = x.lodc := rfl
@[simp] theorem Strand.fly_lodcy (x : Strand) (d : Option Nat) (p : ResPort) (r : Result) (b : Bool) : (x.fly d p r b).lodcy = x.lodcy := rfl
@[simp] theorem Strand.fly_ldcnt (x : Strand) (d : Option Nat) (p : ResPort) (r : Result) (b : Bool) : (x.fly d p r b).ldcnt = x.ldcnt := rfl
@[simp] theorem Strand.fly_localLd (x : Strand) (d : Option Nat) (p : ResPort) (r : Result) (b : Bool) : (x.fly d p r b).localLd = x.localLd := rfl
@[simp] theorem Strand.fly_stcnt (x : Strand) (d : Option Nat) (p : ResPort) (r : Result) (b : Bool) : (x.fly d p r b).stcnt = x.stcnt := rfl
@[simp] theorem Strand.fly_cpcnt (x : Strand) (d : Option Nat) (p : ResPort) (r : Result) (b : Bool) : (x.fly d p r b).cpcnt = x.cpcnt := rfl
@[simp] theorem Strand.fly_inner (x : Strand) (d : Option Nat) (p : ResPort) (r : Result) (b : Bool) : (x.fly d p r b).inner = x.inner := rfl
@[simp] theorem Strand.fly_outer (x : Strand) (d : Option Nat) (p : ResPort) (r : Result) (b : Bool) : (x.fly d p r b).outer = x.outer := rfl
@[simp] theorem Strand.fly_rstack (x : Strand) (d : Option Nat) (p : ResPort) (r : Result) (b : Bool) : (x.fly d p r b).rstack = x.rstack := rfl
@[simp] theorem Strand.fly_mdc (x : Strand) (d : Option Nat) (p : ResPort) (r : Result) (b : Bool) : (x.fly d p r b).mdc = x.mdc := rfl
@[simp] theorem Strand.fly_bpa (x : Strand) (d : Option Nat) (p : ResPort) (r : Result) (b : Bool) : (x.fly d p r b).bpa = x.bpa := rfl
@[simp] theorem Strand.fly_dbgctl (x : Strand) (d : Option Nat) (p : ResPort) (r : Result) (b : Bool) : (x.fly d p r b).dbgctl = x.dbgctl := rfl
@[simp] theorem Strand.fly_operands (x : Strand) (d : Option Nat) (p : ResPort) (r : Result) (b : Bool) : (x.fly d p r b).operands = x.operands := rfl
@[simp] theorem Strand.fly_ports (x : Strand) (d : Option Nat) (p : ResPort) (r : Result) (b : Bool) : (x.fly d p r b).ports = x.ports := rfl
@[simp] theorem Strand.fly_mapped (x : Strand) (d : Option Nat) (p : ResPort) (r : Result) (b : Bool) : (x.fly d p r b).mapped = x.mapped := rfl
@[simp] theorem Strand.fly_accesses (x : Strand) (d : Option Nat) (p : ResPort) (r : Result) (b : Bool) : (x.fly d p r b).accesses = x.accesses := rfl
@[simp] theorem Strand.fly_sb (x : Strand) (d : Option Nat) (p : ResPort) (r : Result) (b : Bool) : (x.fly d p r b).sb = x.sb := rfl
@[simp] theorem Strand.fly_posts (x : Strand) (d : Option Nat) (p : ResPort) (r : Result) (b : Bool) : (x.fly d p r b).posts = x.posts := rfl
@[simp] theorem Strand.fly_mailbox (x : Strand) (d : Option Nat) (p : ResPort) (r : Result) (b : Bool) : (x.fly d p r b).mailbox = x.mailbox := rfl
@[simp] theorem Strand.fly_mailHeld (x : Strand) (d : Option Nat) (p : ResPort) (r : Result) (b : Bool) : (x.fly d p r b).mailHeld = x.mailHeld := rfl
@[simp] theorem Strand.fly_mailPop (x : Strand) (d : Option Nat) (p : ResPort) (r : Result) (b : Bool) : (x.fly d p r b).mailPop = x.mailPop := rfl
@[simp] theorem Strand.fly_lodWait (x : Strand) (d : Option Nat) (p : ResPort) (r : Result) (b : Bool) : (x.fly d p r b).lodWait = x.lodWait := rfl
@[simp] theorem Strand.fly_lsBusy (x : Strand) (d : Option Nat) (p : ResPort) (r : Result) (b : Bool) : (x.fly d p r b).lsBusy = x.lsBusy := rfl
@[simp] theorem Strand.fly_token (x : Strand) (d : Option Nat) (p : ResPort) (r : Result) (b : Bool) : (x.fly d p r b).token = x.token := rfl
@[simp] theorem Strand.fly_fault (x : Strand) (d : Option Nat) (p : ResPort) (r : Result) (b : Bool) : (x.fly d p r b).fault = x.fault := rfl
@[simp] theorem Strand.fly_resumeAt (x : Strand) (d : Option Nat) (p : ResPort) (r : Result) (b : Bool) : (x.fly d p r b).resumeAt = x.resumeAt := rfl
@[simp] theorem Strand.fly_stepping (x : Strand) (d : Option Nat) (p : ResPort) (r : Result) (b : Bool) : (x.fly d p r b).stepping = x.stepping := rfl
@[simp] theorem Strand.fly_pass (x : Strand) (d : Option Nat) (p : ResPort) (r : Result) (b : Bool) : (x.fly d p r b).pass = x.pass := rfl
@[simp] theorem Strand.fly_issuedAt (x : Strand) (d : Option Nat) (p : ResPort) (r : Result) (b : Bool) : (x.fly d p r b).issuedAt = x.issuedAt := rfl
@[simp] theorem Strand.fly_advancedAt (x : Strand) (d : Option Nat) (p : ResPort) (r : Result) (b : Bool) : (x.fly d p r b).advancedAt = x.advancedAt := rfl

@[simp] theorem Strand.flyAt_run (x : Strand) (d : Nat) (p : ResPort) (r : Result) : (x.flyAt d p r).run = x.run := rfl
@[simp] theorem Strand.flyAt_x (x : Strand) (d : Nat) (p : ResPort) (r : Result) : (x.flyAt d p r).x = x.x := rfl
@[simp] theorem Strand.flyAt_g (x : Strand) (d : Nat) (p : ResPort) (r : Result) : (x.flyAt d p r).g = x.g := rfl
@[simp] theorem Strand.flyAt_pc (x : Strand) (d : Nat) (p : ResPort) (r : Result) : (x.flyAt d p r).pc = x.pc := rfl
@[simp] theorem Strand.flyAt_store (x : Strand) (d : Nat) (p : ResPort) (r : Result) : (x.flyAt d p r).store = x.store := rfl
@[simp] theorem Strand.flyAt_repLeft (x : Strand) (d : Nat) (p : ResPort) (r : Result) : (x.flyAt d p r).repLeft = x.repLeft := rfl
@[simp] theorem Strand.flyAt_smode (x : Strand) (d : Nat) (p : ResPort) (r : Result) : (x.flyAt d p r).smode = x.smode := rfl
@[simp] theorem Strand.flyAt_sstat (x : Strand) (d : Nat) (p : ResPort) (r : Result) : (x.flyAt d p r).sstat = x.sstat := rfl
@[simp] theorem Strand.flyAt_cyc (x : Strand) (d : Nat) (p : ResPort) (r : Result) : (x.flyAt d p r).cyc = x.cyc := rfl
@[simp] theorem Strand.flyAt_issued (x : Strand) (d : Nat) (p : ResPort) (r : Result) : (x.flyAt d p r).issued = x.issued := rfl
@[simp] theorem Strand.flyAt_stall (x : Strand) (d : Nat) (p : ResPort) (r : Result) : (x.flyAt d p r).stall = x.stall := rfl
@[simp] theorem Strand.flyAt_lodc (x : Strand) (d : Nat) (p : ResPort) (r : Result) : (x.flyAt d p r).lodc = x.lodc := rfl
@[simp] theorem Strand.flyAt_lodcy (x : Strand) (d : Nat) (p : ResPort) (r : Result) : (x.flyAt d p r).lodcy = x.lodcy := rfl
@[simp] theorem Strand.flyAt_ldcnt (x : Strand) (d : Nat) (p : ResPort) (r : Result) : (x.flyAt d p r).ldcnt = x.ldcnt := rfl
@[simp] theorem Strand.flyAt_localLd (x : Strand) (d : Nat) (p : ResPort) (r : Result) : (x.flyAt d p r).localLd = x.localLd := rfl
@[simp] theorem Strand.flyAt_stcnt (x : Strand) (d : Nat) (p : ResPort) (r : Result) : (x.flyAt d p r).stcnt = x.stcnt := rfl
@[simp] theorem Strand.flyAt_cpcnt (x : Strand) (d : Nat) (p : ResPort) (r : Result) : (x.flyAt d p r).cpcnt = x.cpcnt := rfl
@[simp] theorem Strand.flyAt_inner (x : Strand) (d : Nat) (p : ResPort) (r : Result) : (x.flyAt d p r).inner = x.inner := rfl
@[simp] theorem Strand.flyAt_outer (x : Strand) (d : Nat) (p : ResPort) (r : Result) : (x.flyAt d p r).outer = x.outer := rfl
@[simp] theorem Strand.flyAt_rstack (x : Strand) (d : Nat) (p : ResPort) (r : Result) : (x.flyAt d p r).rstack = x.rstack := rfl
@[simp] theorem Strand.flyAt_mdc (x : Strand) (d : Nat) (p : ResPort) (r : Result) : (x.flyAt d p r).mdc = x.mdc := rfl
@[simp] theorem Strand.flyAt_bpa (x : Strand) (d : Nat) (p : ResPort) (r : Result) : (x.flyAt d p r).bpa = x.bpa := rfl
@[simp] theorem Strand.flyAt_dbgctl (x : Strand) (d : Nat) (p : ResPort) (r : Result) : (x.flyAt d p r).dbgctl = x.dbgctl := rfl
@[simp] theorem Strand.flyAt_operands (x : Strand) (d : Nat) (p : ResPort) (r : Result) : (x.flyAt d p r).operands = x.operands := rfl
@[simp] theorem Strand.flyAt_ports (x : Strand) (d : Nat) (p : ResPort) (r : Result) : (x.flyAt d p r).ports = x.ports := rfl
@[simp] theorem Strand.flyAt_mapped (x : Strand) (d : Nat) (p : ResPort) (r : Result) : (x.flyAt d p r).mapped = x.mapped := rfl
@[simp] theorem Strand.flyAt_accesses (x : Strand) (d : Nat) (p : ResPort) (r : Result) : (x.flyAt d p r).accesses = x.accesses := rfl
@[simp] theorem Strand.flyAt_sb (x : Strand) (d : Nat) (p : ResPort) (r : Result) : (x.flyAt d p r).sb = x.sb := rfl
@[simp] theorem Strand.flyAt_posts (x : Strand) (d : Nat) (p : ResPort) (r : Result) : (x.flyAt d p r).posts = x.posts := rfl
@[simp] theorem Strand.flyAt_mailbox (x : Strand) (d : Nat) (p : ResPort) (r : Result) : (x.flyAt d p r).mailbox = x.mailbox := rfl
@[simp] theorem Strand.flyAt_mailHeld (x : Strand) (d : Nat) (p : ResPort) (r : Result) : (x.flyAt d p r).mailHeld = x.mailHeld := rfl
@[simp] theorem Strand.flyAt_mailPop (x : Strand) (d : Nat) (p : ResPort) (r : Result) : (x.flyAt d p r).mailPop = x.mailPop := rfl
@[simp] theorem Strand.flyAt_lodWait (x : Strand) (d : Nat) (p : ResPort) (r : Result) : (x.flyAt d p r).lodWait = x.lodWait := rfl
@[simp] theorem Strand.flyAt_lsBusy (x : Strand) (d : Nat) (p : ResPort) (r : Result) : (x.flyAt d p r).lsBusy = x.lsBusy := rfl
@[simp] theorem Strand.flyAt_token (x : Strand) (d : Nat) (p : ResPort) (r : Result) : (x.flyAt d p r).token = x.token := rfl
@[simp] theorem Strand.flyAt_fault (x : Strand) (d : Nat) (p : ResPort) (r : Result) : (x.flyAt d p r).fault = x.fault := rfl
@[simp] theorem Strand.flyAt_resumeAt (x : Strand) (d : Nat) (p : ResPort) (r : Result) : (x.flyAt d p r).resumeAt = x.resumeAt := rfl
@[simp] theorem Strand.flyAt_stepping (x : Strand) (d : Nat) (p : ResPort) (r : Result) : (x.flyAt d p r).stepping = x.stepping := rfl
@[simp] theorem Strand.flyAt_pass (x : Strand) (d : Nat) (p : ResPort) (r : Result) : (x.flyAt d p r).pass = x.pass := rfl
@[simp] theorem Strand.flyAt_issuedAt (x : Strand) (d : Nat) (p : ResPort) (r : Result) : (x.flyAt d p r).issuedAt = x.issuedAt := rfl
@[simp] theorem Strand.flyAt_advancedAt (x : Strand) (d : Nat) (p : ResPort) (r : Result) : (x.flyAt d p r).advancedAt = x.advancedAt := rfl

@[simp] theorem Strand.complete_run (x : Strand) (i d : Nat) (r : Result) : (x.complete i d r).run = x.run := rfl
@[simp] theorem Strand.complete_x (x : Strand) (i d : Nat) (r : Result) : (x.complete i d r).x = x.x := rfl
@[simp] theorem Strand.complete_g (x : Strand) (i d : Nat) (r : Result) : (x.complete i d r).g = x.g := rfl
@[simp] theorem Strand.complete_pc (x : Strand) (i d : Nat) (r : Result) : (x.complete i d r).pc = x.pc := rfl
@[simp] theorem Strand.complete_store (x : Strand) (i d : Nat) (r : Result) : (x.complete i d r).store = x.store := rfl
@[simp] theorem Strand.complete_repLeft (x : Strand) (i d : Nat) (r : Result) : (x.complete i d r).repLeft = x.repLeft := rfl
@[simp] theorem Strand.complete_smode (x : Strand) (i d : Nat) (r : Result) : (x.complete i d r).smode = x.smode := rfl
@[simp] theorem Strand.complete_sstat (x : Strand) (i d : Nat) (r : Result) : (x.complete i d r).sstat = x.sstat := rfl
@[simp] theorem Strand.complete_cyc (x : Strand) (i d : Nat) (r : Result) : (x.complete i d r).cyc = x.cyc := rfl
@[simp] theorem Strand.complete_issued (x : Strand) (i d : Nat) (r : Result) : (x.complete i d r).issued = x.issued := rfl
@[simp] theorem Strand.complete_stall (x : Strand) (i d : Nat) (r : Result) : (x.complete i d r).stall = x.stall := rfl
@[simp] theorem Strand.complete_lodc (x : Strand) (i d : Nat) (r : Result) : (x.complete i d r).lodc = x.lodc := rfl
@[simp] theorem Strand.complete_lodcy (x : Strand) (i d : Nat) (r : Result) : (x.complete i d r).lodcy = x.lodcy := rfl
@[simp] theorem Strand.complete_ldcnt (x : Strand) (i d : Nat) (r : Result) : (x.complete i d r).ldcnt = x.ldcnt := rfl
@[simp] theorem Strand.complete_localLd (x : Strand) (i d : Nat) (r : Result) : (x.complete i d r).localLd = x.localLd := rfl
@[simp] theorem Strand.complete_stcnt (x : Strand) (i d : Nat) (r : Result) : (x.complete i d r).stcnt = x.stcnt := rfl
@[simp] theorem Strand.complete_cpcnt (x : Strand) (i d : Nat) (r : Result) : (x.complete i d r).cpcnt = x.cpcnt := rfl
@[simp] theorem Strand.complete_inner (x : Strand) (i d : Nat) (r : Result) : (x.complete i d r).inner = x.inner := rfl
@[simp] theorem Strand.complete_outer (x : Strand) (i d : Nat) (r : Result) : (x.complete i d r).outer = x.outer := rfl
@[simp] theorem Strand.complete_rstack (x : Strand) (i d : Nat) (r : Result) : (x.complete i d r).rstack = x.rstack := rfl
@[simp] theorem Strand.complete_mdc (x : Strand) (i d : Nat) (r : Result) : (x.complete i d r).mdc = x.mdc := rfl
@[simp] theorem Strand.complete_bpa (x : Strand) (i d : Nat) (r : Result) : (x.complete i d r).bpa = x.bpa := rfl
@[simp] theorem Strand.complete_dbgctl (x : Strand) (i d : Nat) (r : Result) : (x.complete i d r).dbgctl = x.dbgctl := rfl
@[simp] theorem Strand.complete_operands (x : Strand) (i d : Nat) (r : Result) : (x.complete i d r).operands = x.operands := rfl
@[simp] theorem Strand.complete_ports (x : Strand) (i d : Nat) (r : Result) : (x.complete i d r).ports = x.ports := rfl
@[simp] theorem Strand.complete_mapped (x : Strand) (i d : Nat) (r : Result) : (x.complete i d r).mapped = x.mapped := rfl
@[simp] theorem Strand.complete_accesses (x : Strand) (i d : Nat) (r : Result) : (x.complete i d r).accesses = x.accesses := rfl
@[simp] theorem Strand.complete_sb (x : Strand) (i d : Nat) (r : Result) : (x.complete i d r).sb = x.sb := rfl
@[simp] theorem Strand.complete_posts (x : Strand) (i d : Nat) (r : Result) : (x.complete i d r).posts = x.posts := rfl
@[simp] theorem Strand.complete_nextId (x : Strand) (i d : Nat) (r : Result) : (x.complete i d r).nextId = x.nextId := rfl
@[simp] theorem Strand.complete_mailbox (x : Strand) (i d : Nat) (r : Result) : (x.complete i d r).mailbox = x.mailbox := rfl
@[simp] theorem Strand.complete_mailHeld (x : Strand) (i d : Nat) (r : Result) : (x.complete i d r).mailHeld = x.mailHeld := rfl
@[simp] theorem Strand.complete_mailPop (x : Strand) (i d : Nat) (r : Result) : (x.complete i d r).mailPop = x.mailPop := rfl
@[simp] theorem Strand.complete_lodWait (x : Strand) (i d : Nat) (r : Result) : (x.complete i d r).lodWait = x.lodWait := rfl
@[simp] theorem Strand.complete_lsBusy (x : Strand) (i d : Nat) (r : Result) : (x.complete i d r).lsBusy = x.lsBusy := rfl
@[simp] theorem Strand.complete_token (x : Strand) (i d : Nat) (r : Result) : (x.complete i d r).token = x.token := rfl
@[simp] theorem Strand.complete_fault (x : Strand) (i d : Nat) (r : Result) : (x.complete i d r).fault = x.fault := rfl
@[simp] theorem Strand.complete_resumeAt (x : Strand) (i d : Nat) (r : Result) : (x.complete i d r).resumeAt = x.resumeAt := rfl
@[simp] theorem Strand.complete_stepping (x : Strand) (i d : Nat) (r : Result) : (x.complete i d r).stepping = x.stepping := rfl
@[simp] theorem Strand.complete_pass (x : Strand) (i d : Nat) (r : Result) : (x.complete i d r).pass = x.pass := rfl
@[simp] theorem Strand.complete_issuedAt (x : Strand) (i d : Nat) (r : Result) : (x.complete i d r).issuedAt = x.issuedAt := rfl
@[simp] theorem Strand.complete_advancedAt (x : Strand) (i d : Nat) (r : Result) : (x.complete i d r).advancedAt = x.advancedAt := rfl

@[simp] theorem Strand.dropFlight_run (x : Strand) (i : Nat) : (x.dropFlight i).run = x.run := rfl
@[simp] theorem Strand.dropFlight_x (x : Strand) (i : Nat) : (x.dropFlight i).x = x.x := rfl
@[simp] theorem Strand.dropFlight_g (x : Strand) (i : Nat) : (x.dropFlight i).g = x.g := rfl
@[simp] theorem Strand.dropFlight_pc (x : Strand) (i : Nat) : (x.dropFlight i).pc = x.pc := rfl
@[simp] theorem Strand.dropFlight_store (x : Strand) (i : Nat) : (x.dropFlight i).store = x.store := rfl
@[simp] theorem Strand.dropFlight_repLeft (x : Strand) (i : Nat) : (x.dropFlight i).repLeft = x.repLeft := rfl
@[simp] theorem Strand.dropFlight_smode (x : Strand) (i : Nat) : (x.dropFlight i).smode = x.smode := rfl
@[simp] theorem Strand.dropFlight_sstat (x : Strand) (i : Nat) : (x.dropFlight i).sstat = x.sstat := rfl
@[simp] theorem Strand.dropFlight_cyc (x : Strand) (i : Nat) : (x.dropFlight i).cyc = x.cyc := rfl
@[simp] theorem Strand.dropFlight_issued (x : Strand) (i : Nat) : (x.dropFlight i).issued = x.issued := rfl
@[simp] theorem Strand.dropFlight_stall (x : Strand) (i : Nat) : (x.dropFlight i).stall = x.stall := rfl
@[simp] theorem Strand.dropFlight_lodc (x : Strand) (i : Nat) : (x.dropFlight i).lodc = x.lodc := rfl
@[simp] theorem Strand.dropFlight_lodcy (x : Strand) (i : Nat) : (x.dropFlight i).lodcy = x.lodcy := rfl
@[simp] theorem Strand.dropFlight_ldcnt (x : Strand) (i : Nat) : (x.dropFlight i).ldcnt = x.ldcnt := rfl
@[simp] theorem Strand.dropFlight_localLd (x : Strand) (i : Nat) : (x.dropFlight i).localLd = x.localLd := rfl
@[simp] theorem Strand.dropFlight_stcnt (x : Strand) (i : Nat) : (x.dropFlight i).stcnt = x.stcnt := rfl
@[simp] theorem Strand.dropFlight_cpcnt (x : Strand) (i : Nat) : (x.dropFlight i).cpcnt = x.cpcnt := rfl
@[simp] theorem Strand.dropFlight_inner (x : Strand) (i : Nat) : (x.dropFlight i).inner = x.inner := rfl
@[simp] theorem Strand.dropFlight_outer (x : Strand) (i : Nat) : (x.dropFlight i).outer = x.outer := rfl
@[simp] theorem Strand.dropFlight_rstack (x : Strand) (i : Nat) : (x.dropFlight i).rstack = x.rstack := rfl
@[simp] theorem Strand.dropFlight_mdc (x : Strand) (i : Nat) : (x.dropFlight i).mdc = x.mdc := rfl
@[simp] theorem Strand.dropFlight_bpa (x : Strand) (i : Nat) : (x.dropFlight i).bpa = x.bpa := rfl
@[simp] theorem Strand.dropFlight_dbgctl (x : Strand) (i : Nat) : (x.dropFlight i).dbgctl = x.dbgctl := rfl
@[simp] theorem Strand.dropFlight_operands (x : Strand) (i : Nat) : (x.dropFlight i).operands = x.operands := rfl
@[simp] theorem Strand.dropFlight_ports (x : Strand) (i : Nat) : (x.dropFlight i).ports = x.ports := rfl
@[simp] theorem Strand.dropFlight_mapped (x : Strand) (i : Nat) : (x.dropFlight i).mapped = x.mapped := rfl
@[simp] theorem Strand.dropFlight_accesses (x : Strand) (i : Nat) : (x.dropFlight i).accesses = x.accesses := rfl
@[simp] theorem Strand.dropFlight_sb (x : Strand) (i : Nat) : (x.dropFlight i).sb = x.sb := rfl
@[simp] theorem Strand.dropFlight_posts (x : Strand) (i : Nat) : (x.dropFlight i).posts = x.posts := rfl
@[simp] theorem Strand.dropFlight_nextId (x : Strand) (i : Nat) : (x.dropFlight i).nextId = x.nextId := rfl
@[simp] theorem Strand.dropFlight_mailbox (x : Strand) (i : Nat) : (x.dropFlight i).mailbox = x.mailbox := rfl
@[simp] theorem Strand.dropFlight_mailHeld (x : Strand) (i : Nat) : (x.dropFlight i).mailHeld = x.mailHeld := rfl
@[simp] theorem Strand.dropFlight_mailPop (x : Strand) (i : Nat) : (x.dropFlight i).mailPop = x.mailPop := rfl
@[simp] theorem Strand.dropFlight_lodWait (x : Strand) (i : Nat) : (x.dropFlight i).lodWait = x.lodWait := rfl
@[simp] theorem Strand.dropFlight_lsBusy (x : Strand) (i : Nat) : (x.dropFlight i).lsBusy = x.lsBusy := rfl
@[simp] theorem Strand.dropFlight_token (x : Strand) (i : Nat) : (x.dropFlight i).token = x.token := rfl
@[simp] theorem Strand.dropFlight_fault (x : Strand) (i : Nat) : (x.dropFlight i).fault = x.fault := rfl
@[simp] theorem Strand.dropFlight_resumeAt (x : Strand) (i : Nat) : (x.dropFlight i).resumeAt = x.resumeAt := rfl
@[simp] theorem Strand.dropFlight_stepping (x : Strand) (i : Nat) : (x.dropFlight i).stepping = x.stepping := rfl
@[simp] theorem Strand.dropFlight_pass (x : Strand) (i : Nat) : (x.dropFlight i).pass = x.pass := rfl
@[simp] theorem Strand.dropFlight_issuedAt (x : Strand) (i : Nat) : (x.dropFlight i).issuedAt = x.issuedAt := rfl
@[simp] theorem Strand.dropFlight_advancedAt (x : Strand) (i : Nat) : (x.dropFlight i).advancedAt = x.advancedAt := rfl

@[simp] theorem Strand.addLocal_run (x : Strand) (now due : Nat) : (x.addLocal now due).run = x.run := rfl
@[simp] theorem Strand.addLocal_x (x : Strand) (now due : Nat) : (x.addLocal now due).x = x.x := rfl
@[simp] theorem Strand.addLocal_g (x : Strand) (now due : Nat) : (x.addLocal now due).g = x.g := rfl
@[simp] theorem Strand.addLocal_pc (x : Strand) (now due : Nat) : (x.addLocal now due).pc = x.pc := rfl
@[simp] theorem Strand.addLocal_store (x : Strand) (now due : Nat) : (x.addLocal now due).store = x.store := rfl
@[simp] theorem Strand.addLocal_repLeft (x : Strand) (now due : Nat) : (x.addLocal now due).repLeft = x.repLeft := rfl
@[simp] theorem Strand.addLocal_smode (x : Strand) (now due : Nat) : (x.addLocal now due).smode = x.smode := rfl
@[simp] theorem Strand.addLocal_sstat (x : Strand) (now due : Nat) : (x.addLocal now due).sstat = x.sstat := rfl
@[simp] theorem Strand.addLocal_cyc (x : Strand) (now due : Nat) : (x.addLocal now due).cyc = x.cyc := rfl
@[simp] theorem Strand.addLocal_issued (x : Strand) (now due : Nat) : (x.addLocal now due).issued = x.issued := rfl
@[simp] theorem Strand.addLocal_stall (x : Strand) (now due : Nat) : (x.addLocal now due).stall = x.stall := rfl
@[simp] theorem Strand.addLocal_lodc (x : Strand) (now due : Nat) : (x.addLocal now due).lodc = x.lodc := rfl
@[simp] theorem Strand.addLocal_lodcy (x : Strand) (now due : Nat) : (x.addLocal now due).lodcy = x.lodcy := rfl
@[simp] theorem Strand.addLocal_ldcnt (x : Strand) (now due : Nat) : (x.addLocal now due).ldcnt = x.ldcnt := rfl
@[simp] theorem Strand.addLocal_stcnt (x : Strand) (now due : Nat) : (x.addLocal now due).stcnt = x.stcnt := rfl
@[simp] theorem Strand.addLocal_cpcnt (x : Strand) (now due : Nat) : (x.addLocal now due).cpcnt = x.cpcnt := rfl
@[simp] theorem Strand.addLocal_inner (x : Strand) (now due : Nat) : (x.addLocal now due).inner = x.inner := rfl
@[simp] theorem Strand.addLocal_outer (x : Strand) (now due : Nat) : (x.addLocal now due).outer = x.outer := rfl
@[simp] theorem Strand.addLocal_rstack (x : Strand) (now due : Nat) : (x.addLocal now due).rstack = x.rstack := rfl
@[simp] theorem Strand.addLocal_mdc (x : Strand) (now due : Nat) : (x.addLocal now due).mdc = x.mdc := rfl
@[simp] theorem Strand.addLocal_bpa (x : Strand) (now due : Nat) : (x.addLocal now due).bpa = x.bpa := rfl
@[simp] theorem Strand.addLocal_dbgctl (x : Strand) (now due : Nat) : (x.addLocal now due).dbgctl = x.dbgctl := rfl
@[simp] theorem Strand.addLocal_operands (x : Strand) (now due : Nat) : (x.addLocal now due).operands = x.operands := rfl
@[simp] theorem Strand.addLocal_ports (x : Strand) (now due : Nat) : (x.addLocal now due).ports = x.ports := rfl
@[simp] theorem Strand.addLocal_flights (x : Strand) (now due : Nat) : (x.addLocal now due).flights = x.flights := rfl
@[simp] theorem Strand.addLocal_mapped (x : Strand) (now due : Nat) : (x.addLocal now due).mapped = x.mapped := rfl
@[simp] theorem Strand.addLocal_accesses (x : Strand) (now due : Nat) : (x.addLocal now due).accesses = x.accesses := rfl
@[simp] theorem Strand.addLocal_sb (x : Strand) (now due : Nat) : (x.addLocal now due).sb = x.sb := rfl
@[simp] theorem Strand.addLocal_posts (x : Strand) (now due : Nat) : (x.addLocal now due).posts = x.posts := rfl
@[simp] theorem Strand.addLocal_nextId (x : Strand) (now due : Nat) : (x.addLocal now due).nextId = x.nextId := rfl
@[simp] theorem Strand.addLocal_mailbox (x : Strand) (now due : Nat) : (x.addLocal now due).mailbox = x.mailbox := rfl
@[simp] theorem Strand.addLocal_mailHeld (x : Strand) (now due : Nat) : (x.addLocal now due).mailHeld = x.mailHeld := rfl
@[simp] theorem Strand.addLocal_mailPop (x : Strand) (now due : Nat) : (x.addLocal now due).mailPop = x.mailPop := rfl
@[simp] theorem Strand.addLocal_lodWait (x : Strand) (now due : Nat) : (x.addLocal now due).lodWait = x.lodWait := rfl
@[simp] theorem Strand.addLocal_lsBusy (x : Strand) (now due : Nat) : (x.addLocal now due).lsBusy = x.lsBusy := rfl
@[simp] theorem Strand.addLocal_token (x : Strand) (now due : Nat) : (x.addLocal now due).token = x.token := rfl
@[simp] theorem Strand.addLocal_fault (x : Strand) (now due : Nat) : (x.addLocal now due).fault = x.fault := rfl
@[simp] theorem Strand.addLocal_resumeAt (x : Strand) (now due : Nat) : (x.addLocal now due).resumeAt = x.resumeAt := rfl
@[simp] theorem Strand.addLocal_stepping (x : Strand) (now due : Nat) : (x.addLocal now due).stepping = x.stepping := rfl
@[simp] theorem Strand.addLocal_pass (x : Strand) (now due : Nat) : (x.addLocal now due).pass = x.pass := rfl
@[simp] theorem Strand.addLocal_issuedAt (x : Strand) (now due : Nat) : (x.addLocal now due).issuedAt = x.issuedAt := rfl
@[simp] theorem Strand.addLocal_advancedAt (x : Strand) (now due : Nat) : (x.addLocal now due).advancedAt = x.advancedAt := rfl

@[simp] theorem Strand.addLd_run (x : Strand) : (x.addLd).run = x.run := rfl
@[simp] theorem Strand.addLd_x (x : Strand) : (x.addLd).x = x.x := rfl
@[simp] theorem Strand.addLd_g (x : Strand) : (x.addLd).g = x.g := rfl
@[simp] theorem Strand.addLd_pc (x : Strand) : (x.addLd).pc = x.pc := rfl
@[simp] theorem Strand.addLd_store (x : Strand) : (x.addLd).store = x.store := rfl
@[simp] theorem Strand.addLd_repLeft (x : Strand) : (x.addLd).repLeft = x.repLeft := rfl
@[simp] theorem Strand.addLd_smode (x : Strand) : (x.addLd).smode = x.smode := rfl
@[simp] theorem Strand.addLd_sstat (x : Strand) : (x.addLd).sstat = x.sstat := rfl
@[simp] theorem Strand.addLd_cyc (x : Strand) : (x.addLd).cyc = x.cyc := rfl
@[simp] theorem Strand.addLd_issued (x : Strand) : (x.addLd).issued = x.issued := rfl
@[simp] theorem Strand.addLd_stall (x : Strand) : (x.addLd).stall = x.stall := rfl
@[simp] theorem Strand.addLd_lodc (x : Strand) : (x.addLd).lodc = x.lodc := rfl
@[simp] theorem Strand.addLd_lodcy (x : Strand) : (x.addLd).lodcy = x.lodcy := rfl
@[simp] theorem Strand.addLd_localLd (x : Strand) : (x.addLd).localLd = x.localLd := rfl
@[simp] theorem Strand.addLd_stcnt (x : Strand) : (x.addLd).stcnt = x.stcnt := rfl
@[simp] theorem Strand.addLd_cpcnt (x : Strand) : (x.addLd).cpcnt = x.cpcnt := rfl
@[simp] theorem Strand.addLd_inner (x : Strand) : (x.addLd).inner = x.inner := rfl
@[simp] theorem Strand.addLd_outer (x : Strand) : (x.addLd).outer = x.outer := rfl
@[simp] theorem Strand.addLd_rstack (x : Strand) : (x.addLd).rstack = x.rstack := rfl
@[simp] theorem Strand.addLd_mdc (x : Strand) : (x.addLd).mdc = x.mdc := rfl
@[simp] theorem Strand.addLd_bpa (x : Strand) : (x.addLd).bpa = x.bpa := rfl
@[simp] theorem Strand.addLd_dbgctl (x : Strand) : (x.addLd).dbgctl = x.dbgctl := rfl
@[simp] theorem Strand.addLd_operands (x : Strand) : (x.addLd).operands = x.operands := rfl
@[simp] theorem Strand.addLd_ports (x : Strand) : (x.addLd).ports = x.ports := rfl
@[simp] theorem Strand.addLd_flights (x : Strand) : (x.addLd).flights = x.flights := rfl
@[simp] theorem Strand.addLd_mapped (x : Strand) : (x.addLd).mapped = x.mapped := rfl
@[simp] theorem Strand.addLd_accesses (x : Strand) : (x.addLd).accesses = x.accesses := rfl
@[simp] theorem Strand.addLd_sb (x : Strand) : (x.addLd).sb = x.sb := rfl
@[simp] theorem Strand.addLd_posts (x : Strand) : (x.addLd).posts = x.posts := rfl
@[simp] theorem Strand.addLd_nextId (x : Strand) : (x.addLd).nextId = x.nextId := rfl
@[simp] theorem Strand.addLd_mailbox (x : Strand) : (x.addLd).mailbox = x.mailbox := rfl
@[simp] theorem Strand.addLd_mailHeld (x : Strand) : (x.addLd).mailHeld = x.mailHeld := rfl
@[simp] theorem Strand.addLd_mailPop (x : Strand) : (x.addLd).mailPop = x.mailPop := rfl
@[simp] theorem Strand.addLd_lodWait (x : Strand) : (x.addLd).lodWait = x.lodWait := rfl
@[simp] theorem Strand.addLd_lsBusy (x : Strand) : (x.addLd).lsBusy = x.lsBusy := rfl
@[simp] theorem Strand.addLd_token (x : Strand) : (x.addLd).token = x.token := rfl
@[simp] theorem Strand.addLd_fault (x : Strand) : (x.addLd).fault = x.fault := rfl
@[simp] theorem Strand.addLd_resumeAt (x : Strand) : (x.addLd).resumeAt = x.resumeAt := rfl
@[simp] theorem Strand.addLd_stepping (x : Strand) : (x.addLd).stepping = x.stepping := rfl
@[simp] theorem Strand.addLd_pass (x : Strand) : (x.addLd).pass = x.pass := rfl
@[simp] theorem Strand.addLd_issuedAt (x : Strand) : (x.addLd).issuedAt = x.issuedAt := rfl
@[simp] theorem Strand.addLd_advancedAt (x : Strand) : (x.addLd).advancedAt = x.advancedAt := rfl

@[simp] theorem Strand.subLd_run (x : Strand) : (x.subLd).run = x.run := rfl
@[simp] theorem Strand.subLd_x (x : Strand) : (x.subLd).x = x.x := rfl
@[simp] theorem Strand.subLd_g (x : Strand) : (x.subLd).g = x.g := rfl
@[simp] theorem Strand.subLd_pc (x : Strand) : (x.subLd).pc = x.pc := rfl
@[simp] theorem Strand.subLd_store (x : Strand) : (x.subLd).store = x.store := rfl
@[simp] theorem Strand.subLd_repLeft (x : Strand) : (x.subLd).repLeft = x.repLeft := rfl
@[simp] theorem Strand.subLd_smode (x : Strand) : (x.subLd).smode = x.smode := rfl
@[simp] theorem Strand.subLd_sstat (x : Strand) : (x.subLd).sstat = x.sstat := rfl
@[simp] theorem Strand.subLd_cyc (x : Strand) : (x.subLd).cyc = x.cyc := rfl
@[simp] theorem Strand.subLd_issued (x : Strand) : (x.subLd).issued = x.issued := rfl
@[simp] theorem Strand.subLd_stall (x : Strand) : (x.subLd).stall = x.stall := rfl
@[simp] theorem Strand.subLd_lodc (x : Strand) : (x.subLd).lodc = x.lodc := rfl
@[simp] theorem Strand.subLd_lodcy (x : Strand) : (x.subLd).lodcy = x.lodcy := rfl
@[simp] theorem Strand.subLd_localLd (x : Strand) : (x.subLd).localLd = x.localLd := rfl
@[simp] theorem Strand.subLd_stcnt (x : Strand) : (x.subLd).stcnt = x.stcnt := rfl
@[simp] theorem Strand.subLd_cpcnt (x : Strand) : (x.subLd).cpcnt = x.cpcnt := rfl
@[simp] theorem Strand.subLd_inner (x : Strand) : (x.subLd).inner = x.inner := rfl
@[simp] theorem Strand.subLd_outer (x : Strand) : (x.subLd).outer = x.outer := rfl
@[simp] theorem Strand.subLd_rstack (x : Strand) : (x.subLd).rstack = x.rstack := rfl
@[simp] theorem Strand.subLd_mdc (x : Strand) : (x.subLd).mdc = x.mdc := rfl
@[simp] theorem Strand.subLd_bpa (x : Strand) : (x.subLd).bpa = x.bpa := rfl
@[simp] theorem Strand.subLd_dbgctl (x : Strand) : (x.subLd).dbgctl = x.dbgctl := rfl
@[simp] theorem Strand.subLd_operands (x : Strand) : (x.subLd).operands = x.operands := rfl
@[simp] theorem Strand.subLd_ports (x : Strand) : (x.subLd).ports = x.ports := rfl
@[simp] theorem Strand.subLd_flights (x : Strand) : (x.subLd).flights = x.flights := rfl
@[simp] theorem Strand.subLd_mapped (x : Strand) : (x.subLd).mapped = x.mapped := rfl
@[simp] theorem Strand.subLd_accesses (x : Strand) : (x.subLd).accesses = x.accesses := rfl
@[simp] theorem Strand.subLd_sb (x : Strand) : (x.subLd).sb = x.sb := rfl
@[simp] theorem Strand.subLd_posts (x : Strand) : (x.subLd).posts = x.posts := rfl
@[simp] theorem Strand.subLd_nextId (x : Strand) : (x.subLd).nextId = x.nextId := rfl
@[simp] theorem Strand.subLd_mailbox (x : Strand) : (x.subLd).mailbox = x.mailbox := rfl
@[simp] theorem Strand.subLd_mailHeld (x : Strand) : (x.subLd).mailHeld = x.mailHeld := rfl
@[simp] theorem Strand.subLd_mailPop (x : Strand) : (x.subLd).mailPop = x.mailPop := rfl
@[simp] theorem Strand.subLd_lodWait (x : Strand) : (x.subLd).lodWait = x.lodWait := rfl
@[simp] theorem Strand.subLd_lsBusy (x : Strand) : (x.subLd).lsBusy = x.lsBusy := rfl
@[simp] theorem Strand.subLd_token (x : Strand) : (x.subLd).token = x.token := rfl
@[simp] theorem Strand.subLd_fault (x : Strand) : (x.subLd).fault = x.fault := rfl
@[simp] theorem Strand.subLd_resumeAt (x : Strand) : (x.subLd).resumeAt = x.resumeAt := rfl
@[simp] theorem Strand.subLd_stepping (x : Strand) : (x.subLd).stepping = x.stepping := rfl
@[simp] theorem Strand.subLd_pass (x : Strand) : (x.subLd).pass = x.pass := rfl
@[simp] theorem Strand.subLd_issuedAt (x : Strand) : (x.subLd).issuedAt = x.issuedAt := rfl
@[simp] theorem Strand.subLd_advancedAt (x : Strand) : (x.subLd).advancedAt = x.advancedAt := rfl

@[simp] theorem Strand.addSt_run (x : Strand) : (x.addSt).run = x.run := rfl
@[simp] theorem Strand.addSt_x (x : Strand) : (x.addSt).x = x.x := rfl
@[simp] theorem Strand.addSt_g (x : Strand) : (x.addSt).g = x.g := rfl
@[simp] theorem Strand.addSt_pc (x : Strand) : (x.addSt).pc = x.pc := rfl
@[simp] theorem Strand.addSt_store (x : Strand) : (x.addSt).store = x.store := rfl
@[simp] theorem Strand.addSt_repLeft (x : Strand) : (x.addSt).repLeft = x.repLeft := rfl
@[simp] theorem Strand.addSt_smode (x : Strand) : (x.addSt).smode = x.smode := rfl
@[simp] theorem Strand.addSt_sstat (x : Strand) : (x.addSt).sstat = x.sstat := rfl
@[simp] theorem Strand.addSt_cyc (x : Strand) : (x.addSt).cyc = x.cyc := rfl
@[simp] theorem Strand.addSt_issued (x : Strand) : (x.addSt).issued = x.issued := rfl
@[simp] theorem Strand.addSt_stall (x : Strand) : (x.addSt).stall = x.stall := rfl
@[simp] theorem Strand.addSt_lodc (x : Strand) : (x.addSt).lodc = x.lodc := rfl
@[simp] theorem Strand.addSt_lodcy (x : Strand) : (x.addSt).lodcy = x.lodcy := rfl
@[simp] theorem Strand.addSt_ldcnt (x : Strand) : (x.addSt).ldcnt = x.ldcnt := rfl
@[simp] theorem Strand.addSt_localLd (x : Strand) : (x.addSt).localLd = x.localLd := rfl
@[simp] theorem Strand.addSt_cpcnt (x : Strand) : (x.addSt).cpcnt = x.cpcnt := rfl
@[simp] theorem Strand.addSt_inner (x : Strand) : (x.addSt).inner = x.inner := rfl
@[simp] theorem Strand.addSt_outer (x : Strand) : (x.addSt).outer = x.outer := rfl
@[simp] theorem Strand.addSt_rstack (x : Strand) : (x.addSt).rstack = x.rstack := rfl
@[simp] theorem Strand.addSt_mdc (x : Strand) : (x.addSt).mdc = x.mdc := rfl
@[simp] theorem Strand.addSt_bpa (x : Strand) : (x.addSt).bpa = x.bpa := rfl
@[simp] theorem Strand.addSt_dbgctl (x : Strand) : (x.addSt).dbgctl = x.dbgctl := rfl
@[simp] theorem Strand.addSt_operands (x : Strand) : (x.addSt).operands = x.operands := rfl
@[simp] theorem Strand.addSt_ports (x : Strand) : (x.addSt).ports = x.ports := rfl
@[simp] theorem Strand.addSt_flights (x : Strand) : (x.addSt).flights = x.flights := rfl
@[simp] theorem Strand.addSt_mapped (x : Strand) : (x.addSt).mapped = x.mapped := rfl
@[simp] theorem Strand.addSt_accesses (x : Strand) : (x.addSt).accesses = x.accesses := rfl
@[simp] theorem Strand.addSt_sb (x : Strand) : (x.addSt).sb = x.sb := rfl
@[simp] theorem Strand.addSt_posts (x : Strand) : (x.addSt).posts = x.posts := rfl
@[simp] theorem Strand.addSt_nextId (x : Strand) : (x.addSt).nextId = x.nextId := rfl
@[simp] theorem Strand.addSt_mailbox (x : Strand) : (x.addSt).mailbox = x.mailbox := rfl
@[simp] theorem Strand.addSt_mailHeld (x : Strand) : (x.addSt).mailHeld = x.mailHeld := rfl
@[simp] theorem Strand.addSt_mailPop (x : Strand) : (x.addSt).mailPop = x.mailPop := rfl
@[simp] theorem Strand.addSt_lodWait (x : Strand) : (x.addSt).lodWait = x.lodWait := rfl
@[simp] theorem Strand.addSt_lsBusy (x : Strand) : (x.addSt).lsBusy = x.lsBusy := rfl
@[simp] theorem Strand.addSt_token (x : Strand) : (x.addSt).token = x.token := rfl
@[simp] theorem Strand.addSt_fault (x : Strand) : (x.addSt).fault = x.fault := rfl
@[simp] theorem Strand.addSt_resumeAt (x : Strand) : (x.addSt).resumeAt = x.resumeAt := rfl
@[simp] theorem Strand.addSt_stepping (x : Strand) : (x.addSt).stepping = x.stepping := rfl
@[simp] theorem Strand.addSt_pass (x : Strand) : (x.addSt).pass = x.pass := rfl
@[simp] theorem Strand.addSt_issuedAt (x : Strand) : (x.addSt).issuedAt = x.issuedAt := rfl
@[simp] theorem Strand.addSt_advancedAt (x : Strand) : (x.addSt).advancedAt = x.advancedAt := rfl

@[simp] theorem Strand.subSt_run (x : Strand) : (x.subSt).run = x.run := rfl
@[simp] theorem Strand.subSt_x (x : Strand) : (x.subSt).x = x.x := rfl
@[simp] theorem Strand.subSt_g (x : Strand) : (x.subSt).g = x.g := rfl
@[simp] theorem Strand.subSt_pc (x : Strand) : (x.subSt).pc = x.pc := rfl
@[simp] theorem Strand.subSt_store (x : Strand) : (x.subSt).store = x.store := rfl
@[simp] theorem Strand.subSt_repLeft (x : Strand) : (x.subSt).repLeft = x.repLeft := rfl
@[simp] theorem Strand.subSt_smode (x : Strand) : (x.subSt).smode = x.smode := rfl
@[simp] theorem Strand.subSt_sstat (x : Strand) : (x.subSt).sstat = x.sstat := rfl
@[simp] theorem Strand.subSt_cyc (x : Strand) : (x.subSt).cyc = x.cyc := rfl
@[simp] theorem Strand.subSt_issued (x : Strand) : (x.subSt).issued = x.issued := rfl
@[simp] theorem Strand.subSt_stall (x : Strand) : (x.subSt).stall = x.stall := rfl
@[simp] theorem Strand.subSt_lodc (x : Strand) : (x.subSt).lodc = x.lodc := rfl
@[simp] theorem Strand.subSt_lodcy (x : Strand) : (x.subSt).lodcy = x.lodcy := rfl
@[simp] theorem Strand.subSt_ldcnt (x : Strand) : (x.subSt).ldcnt = x.ldcnt := rfl
@[simp] theorem Strand.subSt_localLd (x : Strand) : (x.subSt).localLd = x.localLd := rfl
@[simp] theorem Strand.subSt_cpcnt (x : Strand) : (x.subSt).cpcnt = x.cpcnt := rfl
@[simp] theorem Strand.subSt_inner (x : Strand) : (x.subSt).inner = x.inner := rfl
@[simp] theorem Strand.subSt_outer (x : Strand) : (x.subSt).outer = x.outer := rfl
@[simp] theorem Strand.subSt_rstack (x : Strand) : (x.subSt).rstack = x.rstack := rfl
@[simp] theorem Strand.subSt_mdc (x : Strand) : (x.subSt).mdc = x.mdc := rfl
@[simp] theorem Strand.subSt_bpa (x : Strand) : (x.subSt).bpa = x.bpa := rfl
@[simp] theorem Strand.subSt_dbgctl (x : Strand) : (x.subSt).dbgctl = x.dbgctl := rfl
@[simp] theorem Strand.subSt_operands (x : Strand) : (x.subSt).operands = x.operands := rfl
@[simp] theorem Strand.subSt_ports (x : Strand) : (x.subSt).ports = x.ports := rfl
@[simp] theorem Strand.subSt_flights (x : Strand) : (x.subSt).flights = x.flights := rfl
@[simp] theorem Strand.subSt_mapped (x : Strand) : (x.subSt).mapped = x.mapped := rfl
@[simp] theorem Strand.subSt_accesses (x : Strand) : (x.subSt).accesses = x.accesses := rfl
@[simp] theorem Strand.subSt_sb (x : Strand) : (x.subSt).sb = x.sb := rfl
@[simp] theorem Strand.subSt_posts (x : Strand) : (x.subSt).posts = x.posts := rfl
@[simp] theorem Strand.subSt_nextId (x : Strand) : (x.subSt).nextId = x.nextId := rfl
@[simp] theorem Strand.subSt_mailbox (x : Strand) : (x.subSt).mailbox = x.mailbox := rfl
@[simp] theorem Strand.subSt_mailHeld (x : Strand) : (x.subSt).mailHeld = x.mailHeld := rfl
@[simp] theorem Strand.subSt_mailPop (x : Strand) : (x.subSt).mailPop = x.mailPop := rfl
@[simp] theorem Strand.subSt_lodWait (x : Strand) : (x.subSt).lodWait = x.lodWait := rfl
@[simp] theorem Strand.subSt_lsBusy (x : Strand) : (x.subSt).lsBusy = x.lsBusy := rfl
@[simp] theorem Strand.subSt_token (x : Strand) : (x.subSt).token = x.token := rfl
@[simp] theorem Strand.subSt_fault (x : Strand) : (x.subSt).fault = x.fault := rfl
@[simp] theorem Strand.subSt_resumeAt (x : Strand) : (x.subSt).resumeAt = x.resumeAt := rfl
@[simp] theorem Strand.subSt_stepping (x : Strand) : (x.subSt).stepping = x.stepping := rfl
@[simp] theorem Strand.subSt_pass (x : Strand) : (x.subSt).pass = x.pass := rfl
@[simp] theorem Strand.subSt_issuedAt (x : Strand) : (x.subSt).issuedAt = x.issuedAt := rfl
@[simp] theorem Strand.subSt_advancedAt (x : Strand) : (x.subSt).advancedAt = x.advancedAt := rfl

/-! ### A tile -/

@[simp] theorem Tile.setStrand_live (x : Tile) (k : StrandId) (y : Strand) : (x.setStrand k y).live = x.live := by cases k <;> rfl
@[simp] theorem Tile.setStrand_since (x : Tile) (k : StrandId) (y : Strand) : (x.setStrand k y).since = x.since := by cases k <;> rfl
@[simp] theorem Tile.setStrand_owner (x : Tile) (k : StrandId) (y : Strand) : (x.setStrand k y).owner = x.owner := by cases k <;> rfl
@[simp] theorem Tile.setStrand_lastCtx (x : Tile) (k : StrandId) (y : Strand) : (x.setStrand k y).lastCtx = x.lastCtx := by cases k <;> rfl
@[simp] theorem Tile.setStrand_fenced (x : Tile) (k : StrandId) (y : Strand) : (x.setStrand k y).fenced = x.fenced := by cases k <;> rfl
@[simp] theorem Tile.setStrand_phys (x : Tile) (k : StrandId) (y : Strand) : (x.setStrand k y).phys = x.phys := by cases k <;> rfl
@[simp] theorem Tile.setStrand_spm (x : Tile) (k : StrandId) (y : Strand) : (x.setStrand k y).spm = x.spm := by cases k <;> rfl
@[simp] theorem Tile.setStrand_metaStore (x : Tile) (k : StrandId) (y : Strand) : (x.setStrand k y).metaStore = x.metaStore := by cases k <;> rfl
@[simp] theorem Tile.setStrand_sems (x : Tile) (k : StrandId) (y : Strand) : (x.setStrand k y).sems = x.sems := by cases k <;> rfl
@[simp] theorem Tile.setStrand_semPosts (x : Tile) (k : StrandId) (y : Strand) : (x.setStrand k y).semPosts = x.semPosts := by cases k <;> rfl
@[simp] theorem Tile.setStrand_semTakes (x : Tile) (k : StrandId) (y : Strand) : (x.setStrand k y).semTakes = x.semTakes := by cases k <;> rfl
@[simp] theorem Tile.setStrand_rings (x : Tile) (k : StrandId) (y : Strand) : (x.setStrand k y).rings = x.rings := by cases k <;> rfl
@[simp] theorem Tile.setStrand_ringRel (x : Tile) (k : StrandId) (y : Strand) : (x.setStrand k y).ringRel = x.ringRel := by cases k <;> rfl
@[simp] theorem Tile.setStrand_ringAcq (x : Tile) (k : StrandId) (y : Strand) : (x.setStrand k y).ringAcq = x.ringAcq := by cases k <;> rfl
@[simp] theorem Tile.setStrand_ringCfg (x : Tile) (k : StrandId) (y : Strand) : (x.setStrand k y).ringCfg = x.ringCfg := by cases k <;> rfl
@[simp] theorem Tile.setStrand_windows (x : Tile) (k : StrandId) (y : Strand) : (x.setStrand k y).windows = x.windows := by cases k <;> rfl
@[simp] theorem Tile.setStrand_regions (x : Tile) (k : StrandId) (y : Strand) : (x.setStrand k y).regions = x.regions := by cases k <;> rfl
@[simp] theorem Tile.setStrand_queues (x : Tile) (k : StrandId) (y : Strand) : (x.setStrand k y).queues = x.queues := by cases k <;> rfl
@[simp] theorem Tile.setStrand_streams (x : Tile) (k : StrandId) (y : Strand) : (x.setStrand k y).streams = x.streams := by cases k <;> rfl
@[simp] theorem Tile.setStrand_vu (x : Tile) (k : StrandId) (y : Strand) : (x.setStrand k y).vu = x.vu := by cases k <;> rfl
@[simp] theorem Tile.setStrand_mx (x : Tile) (k : StrandId) (y : Strand) : (x.setStrand k y).mx = x.mx := by cases k <;> rfl
@[simp] theorem Tile.setStrand_cpi (x : Tile) (k : StrandId) (y : Strand) : (x.setStrand k y).cpi = x.cpi := by cases k <;> rfl
@[simp] theorem Tile.setStrand_cpo (x : Tile) (k : StrandId) (y : Strand) : (x.setStrand k y).cpo = x.cpo := by cases k <;> rfl
@[simp] theorem Tile.setStrand_copyOrder (x : Tile) (k : StrandId) (y : Strand) : (x.setStrand k y).copyOrder = x.copyOrder := by cases k <;> rfl
@[simp] theorem Tile.setStrand_nx (x : Tile) (k : StrandId) (y : Strand) : (x.setStrand k y).nx = x.nx := by cases k <;> rfl
@[simp] theorem Tile.setStrand_wq (x : Tile) (k : StrandId) (y : Strand) : (x.setStrand k y).wq = x.wq := by cases k <;> rfl
@[simp] theorem Tile.setStrand_fx (x : Tile) (k : StrandId) (y : Strand) : (x.setStrand k y).fx = x.fx := by cases k <;> rfl
@[simp] theorem Tile.setStrand_tkFlights (x : Tile) (k : StrandId) (y : Strand) : (x.setStrand k y).tkFlights = x.tkFlights := by cases k <;> rfl
@[simp] theorem Tile.setStrand_stop (x : Tile) (k : StrandId) (y : Strand) : (x.setStrand k y).stop = x.stop := by cases k <;> rfl
@[simp] theorem Tile.setStrand_abort (x : Tile) (k : StrandId) (y : Strand) : (x.setStrand k y).abort = x.abort := by cases k <;> rfl
@[simp] theorem Tile.setStrand_probes (x : Tile) (k : StrandId) (y : Strand) : (x.setStrand k y).probes = x.probes := by cases k <;> rfl
@[simp] theorem Tile.setStrand_probedAt (x : Tile) (k : StrandId) (y : Strand) : (x.setStrand k y).probedAt = x.probedAt := by cases k <;> rfl

@[simp] theorem Tile.modStrand_live (x : Tile) (k : StrandId) (f : Strand → Strand) : (x.modStrand k f).live = x.live := by cases k <;> rfl
@[simp] theorem Tile.modStrand_since (x : Tile) (k : StrandId) (f : Strand → Strand) : (x.modStrand k f).since = x.since := by cases k <;> rfl
@[simp] theorem Tile.modStrand_owner (x : Tile) (k : StrandId) (f : Strand → Strand) : (x.modStrand k f).owner = x.owner := by cases k <;> rfl
@[simp] theorem Tile.modStrand_lastCtx (x : Tile) (k : StrandId) (f : Strand → Strand) : (x.modStrand k f).lastCtx = x.lastCtx := by cases k <;> rfl
@[simp] theorem Tile.modStrand_fenced (x : Tile) (k : StrandId) (f : Strand → Strand) : (x.modStrand k f).fenced = x.fenced := by cases k <;> rfl
@[simp] theorem Tile.modStrand_phys (x : Tile) (k : StrandId) (f : Strand → Strand) : (x.modStrand k f).phys = x.phys := by cases k <;> rfl
@[simp] theorem Tile.modStrand_spm (x : Tile) (k : StrandId) (f : Strand → Strand) : (x.modStrand k f).spm = x.spm := by cases k <;> rfl
@[simp] theorem Tile.modStrand_metaStore (x : Tile) (k : StrandId) (f : Strand → Strand) : (x.modStrand k f).metaStore = x.metaStore := by cases k <;> rfl
@[simp] theorem Tile.modStrand_sems (x : Tile) (k : StrandId) (f : Strand → Strand) : (x.modStrand k f).sems = x.sems := by cases k <;> rfl
@[simp] theorem Tile.modStrand_semPosts (x : Tile) (k : StrandId) (f : Strand → Strand) : (x.modStrand k f).semPosts = x.semPosts := by cases k <;> rfl
@[simp] theorem Tile.modStrand_semTakes (x : Tile) (k : StrandId) (f : Strand → Strand) : (x.modStrand k f).semTakes = x.semTakes := by cases k <;> rfl
@[simp] theorem Tile.modStrand_rings (x : Tile) (k : StrandId) (f : Strand → Strand) : (x.modStrand k f).rings = x.rings := by cases k <;> rfl
@[simp] theorem Tile.modStrand_ringRel (x : Tile) (k : StrandId) (f : Strand → Strand) : (x.modStrand k f).ringRel = x.ringRel := by cases k <;> rfl
@[simp] theorem Tile.modStrand_ringAcq (x : Tile) (k : StrandId) (f : Strand → Strand) : (x.modStrand k f).ringAcq = x.ringAcq := by cases k <;> rfl
@[simp] theorem Tile.modStrand_ringCfg (x : Tile) (k : StrandId) (f : Strand → Strand) : (x.modStrand k f).ringCfg = x.ringCfg := by cases k <;> rfl
@[simp] theorem Tile.modStrand_windows (x : Tile) (k : StrandId) (f : Strand → Strand) : (x.modStrand k f).windows = x.windows := by cases k <;> rfl
@[simp] theorem Tile.modStrand_regions (x : Tile) (k : StrandId) (f : Strand → Strand) : (x.modStrand k f).regions = x.regions := by cases k <;> rfl
@[simp] theorem Tile.modStrand_queues (x : Tile) (k : StrandId) (f : Strand → Strand) : (x.modStrand k f).queues = x.queues := by cases k <;> rfl
@[simp] theorem Tile.modStrand_streams (x : Tile) (k : StrandId) (f : Strand → Strand) : (x.modStrand k f).streams = x.streams := by cases k <;> rfl
@[simp] theorem Tile.modStrand_vu (x : Tile) (k : StrandId) (f : Strand → Strand) : (x.modStrand k f).vu = x.vu := by cases k <;> rfl
@[simp] theorem Tile.modStrand_mx (x : Tile) (k : StrandId) (f : Strand → Strand) : (x.modStrand k f).mx = x.mx := by cases k <;> rfl
@[simp] theorem Tile.modStrand_cpi (x : Tile) (k : StrandId) (f : Strand → Strand) : (x.modStrand k f).cpi = x.cpi := by cases k <;> rfl
@[simp] theorem Tile.modStrand_cpo (x : Tile) (k : StrandId) (f : Strand → Strand) : (x.modStrand k f).cpo = x.cpo := by cases k <;> rfl
@[simp] theorem Tile.modStrand_copyOrder (x : Tile) (k : StrandId) (f : Strand → Strand) : (x.modStrand k f).copyOrder = x.copyOrder := by cases k <;> rfl
@[simp] theorem Tile.modStrand_nx (x : Tile) (k : StrandId) (f : Strand → Strand) : (x.modStrand k f).nx = x.nx := by cases k <;> rfl
@[simp] theorem Tile.modStrand_wq (x : Tile) (k : StrandId) (f : Strand → Strand) : (x.modStrand k f).wq = x.wq := by cases k <;> rfl
@[simp] theorem Tile.modStrand_fx (x : Tile) (k : StrandId) (f : Strand → Strand) : (x.modStrand k f).fx = x.fx := by cases k <;> rfl
@[simp] theorem Tile.modStrand_tkFlights (x : Tile) (k : StrandId) (f : Strand → Strand) : (x.modStrand k f).tkFlights = x.tkFlights := by cases k <;> rfl
@[simp] theorem Tile.modStrand_stop (x : Tile) (k : StrandId) (f : Strand → Strand) : (x.modStrand k f).stop = x.stop := by cases k <;> rfl
@[simp] theorem Tile.modStrand_abort (x : Tile) (k : StrandId) (f : Strand → Strand) : (x.modStrand k f).abort = x.abort := by cases k <;> rfl
@[simp] theorem Tile.modStrand_probes (x : Tile) (k : StrandId) (f : Strand → Strand) : (x.modStrand k f).probes = x.probes := by cases k <;> rfl
@[simp] theorem Tile.modStrand_probedAt (x : Tile) (k : StrandId) (f : Strand → Strand) : (x.modStrand k f).probedAt = x.probedAt := by cases k <;> rfl

end Sys2Proof.Machine
end

