-- ==== Sys2Proof/Laws/Maps.lean ====
section
/-! SUPPORT. Reading what was written: the sparse maps, the tiles, the strands and the contexts. -/

namespace Sys2Proof.Machine

/-! ### Sparse maps -/

theorem mget_mput_same {α : Type} (m : SMap α) (k : Nat) (v d : α) : mget (mput m k v) k d = v := by
  induction m with
  | nil => simp [mput, mget]
  | cons p r ih =>
    obtain ⟨a, w⟩ := p
    simp only [mput]
    split
    · simp [mget]
    · split
      · simp [mget]
      · simp [mget, *]

theorem mget_mput_other {α : Type} (m : SMap α) {k j : Nat} (v d : α) (h : j ≠ k) : mget (mput m k v) j d = mget m j d := by
  induction m with
  | nil => simp [mput, mget, h.symm]
  | cons p r ih =>
    obtain ⟨a, w⟩ := p
    simp only [mput]
    split
    · simp [mget, h.symm]
    · split
      · next _ e => subst e; simp [mget, h.symm]
      · simp [mget, ih]

theorem mget_mput {α : Type} (m : SMap α) (k j : Nat) (v d : α) : mget (mput m k v) j d = if j = k then v else mget m j d := by
  split
  · next h => rw [h, mget_mput_same]
  · next h => exact mget_mput_other m v d h

/-! ### Tiles, strands and contexts -/

@[simp] theorem State.tile_setTile_same (s : State) (l : Nat) (t : Tile) : (s.setTile l t).tile l = t := mget_mput_same ..

theorem State.tile_setTile_other (s : State) {l m : Nat} (t : Tile) (h : m ≠ l) : (s.setTile l t).tile m = s.tile m :=
  mget_mput_other _ _ _ h

@[simp] theorem State.tile_modTile_same (s : State) (l : Nat) (f : Tile → Tile) : (s.modTile l f).tile l = f (s.tile l) :=
  mget_mput_same ..

theorem State.tile_modTile_other (s : State) {l m : Nat} (f : Tile → Tile) (h : m ≠ l) : (s.modTile l f).tile m = s.tile m :=
  mget_mput_other _ _ _ h

@[simp] theorem State.ctx_modCtx_same (s : State) (c : Nat) (f : Context → Context) : (s.modCtx c f).ctx c = f (s.ctx c) :=
  mget_mput_same ..

theorem State.ctx_modCtx_other (s : State) {c d : Nat} (f : Context → Context) (h : d ≠ c) : (s.modCtx c f).ctx d = s.ctx d :=
  mget_mput_other _ _ _ h

@[simp] theorem State.ctx_modTile (s : State) (l c : Nat) (f : Tile → Tile) : (s.modTile l f).ctx c = s.ctx c := rfl

@[simp] theorem State.tile_modCtx (s : State) (l c : Nat) (f : Context → Context) : (s.modCtx c f).tile l = s.tile l := rfl

@[simp] theorem State.tile_modDie (s : State) (d : Fin 8) (f : Die → Die) (l : Nat) : (s.modDie d f).tile l = s.tile l := rfl

@[simp] theorem State.tile_rawWrite (s : State) (ps : List (Nat × Byte)) (l : Nat) : (s.rawWrite ps).tile l = s.tile l :=
  congrArg (fun t => mget t l Tile.empty) (State.rawWrite_tiles s ps)

@[simp] theorem Tile.strand_setStrand_same (t : Tile) (k : StrandId) (x : Strand) : (t.setStrand k x).strand k = x := by
  cases k <;> rfl

theorem Tile.strand_setStrand_other (t : Tile) {j k : StrandId} (x : Strand) (h : j ≠ k) : (t.setStrand k x).strand j = t.strand j := by
  cases j <;> cases k <;> first | rfl | exact absurd rfl h

@[simp] theorem Tile.strand_modStrand_same (t : Tile) (k : StrandId) (f : Strand → Strand) : (t.modStrand k f).strand k = f (t.strand k) :=
  Tile.strand_setStrand_same ..

theorem Tile.strand_modStrand_other (t : Tile) {j k : StrandId} (f : Strand → Strand) (h : j ≠ k) : (t.modStrand k f).strand j = t.strand j :=
  Tile.strand_setStrand_other _ _ h

/-! ### Registers and ports -/

theorem Strand.x_setX_same (st : Strand) (n : Fin 64) (v : Word) : (st.setX n v).x[n] = v := by
  simp [Strand.setX]

theorem Strand.x_setX_other (st : Strand) {n m : Fin 64} (v : Word) (h : m ≠ n) : (st.setX n v).x[m] = st.x[m] := by
  have h' : n.val ≠ m.val := fun e => h (Fin.ext e.symm)
  simp [Strand.setX, Vector.getElem_set_ne _ _ h']

theorem Strand.g_setG_same (st : Strand) (n : Fin 3) (b : Bool) : (st.setG n b).g[n] = b := by
  simp [Strand.setG]

theorem Strand.port_setPort_same (st : Strand) (p : ResPort) (v : PortState) : (st.setPort p v).port p = v := mget_mput_same ..

theorem ResPort.idx_injective {p q : ResPort} (h : p.idx = q.idx) : p = q := by
  cases p <;> cases q <;> first | rfl | (exact absurd h (by decide))

theorem Strand.port_setPort_other (st : Strand) {p q : ResPort} (v : PortState) (h : q ≠ p) : (st.setPort p v).port q = st.port q :=
  mget_mput_other _ _ _ (fun e => h (ResPort.idx_injective e))

/-- What flying an operation adds: one flight at the end of the list. -/
theorem Strand.fly_flights (st : Strand) (d : Option Nat) (p : ResPort) (r : Result) (b : Bool) :
    (st.fly d p r b).flights = st.flights ++ [⟨st.nextId, d, p, r, b⟩] := rfl

theorem Strand.flyAt_flights (st : Strand) (d : Nat) (p : ResPort) (r : Result) :
    (st.flyAt d p r).flights = st.flights ++ [⟨st.nextId, some d, p, r, st.lockedPort p⟩] := rfl

/-! ### Faults: taking one is the only way a strand takes an exception -/

/-- A strand that already has a fault keeps it (R142). -/
theorem Strand.takeFault_some (st : Strand) (f g : FaultInfo) (h : st.fault = some g) : st.takeFault f = st := by
  simp [Strand.takeFault, h]

/-- A strand without a fault records it and does not run on; its program counter stands (R140, R142). -/
theorem Strand.takeFault_none (st : Strand) (f : FaultInfo) (h : st.fault = none) :
    (st.takeFault f).fault = some f ∧ (st.takeFault f).pc = st.pc ∧ (st.takeFault f).x = st.x ∧ (st.takeFault f).run ≠ .running := by
  have hp : (st.halt .halted).pc = st.pc ∧ (st.halt .halted).x = st.x ∧ (st.halt .halted).run = .halted := by
    unfold Strand.halt
    split
    · split <;> exact ⟨rfl, rfl, rfl⟩
    · exact ⟨rfl, rfl, rfl⟩
  unfold Strand.takeFault
  rw [h]
  by_cases he : st.run = .ended
  · simp [he]
  · by_cases hr : st.run = .running
    · have hne : ¬ RunState.running = RunState.ended := by decide
      simp [hr, hp]
    · simp [he, hr]

end Sys2Proof.Machine
end

