-- ==== Sys2Proof/Laws/Issue.lean ====
section
/-! SUPPORT. What the issue of a bundle of one move does: the effect of its trigger, and beside it only the sequence, the counters, the
ports read and a copy that its source launches. -/

namespace Sys2Proof.Machine

/-! ### The part of a tile that an issue changes through its triggers alone -/

@[simp] theorem Tile.engine_modStrand (t : Tile) (k : StrandId) (f : Strand → Strand) (h : ∀ st : Strand, (f st).engine = st.engine) :
    (t.modStrand k f).engine = t.engine := by
  cases k <;> simp [Tile.modStrand, Tile.setStrand, Tile.strand, Tile.engine, h]

theorem Tile.engine_strand (t : Tile) (k : StrandId) : t.engine.strand k = (t.strand k).engine := by
  cases k <;> rfl

theorem engine_strand_eq {a b : Tile} (h : a.engine = b.engine) (k : StrandId) : (a.strand k).engine = (b.strand k).engine := by
  rw [← Tile.engine_strand, ← Tile.engine_strand, h]

/-! ### What the parts of an issue leave alone -/

theorem Strand.engine_setPort (st : Strand) (p : ResPort) (v : PortState) : (st.setPort p v).engine = st.engine := rfl

theorem Strand.engine_consume (st : Strand) (p : ResPort) : (st.consume p).engine = st.engine := rfl

theorem Strand.engine_setOpnd (st : Strand) (d : Nat) (v : Vec) : (st.setOpnd d v).engine = st.engine := rfl

theorem Strand.engine_foldl {α : Type} (xs : List α) (f : Strand → α → Strand) (h : ∀ st a, (f st a).engine = st.engine) (st : Strand) :
    (xs.foldl f st).engine = st.engine := by
  induction xs generalizing st with
  | nil => rfl
  | cons a r ih => rw [List.foldl_cons, ih, h]

theorem Strand.engine_seqNext (st : Strand) (pc n : Nat) : (st.seqNext pc n).1.engine = st.engine := by
  induction n generalizing st with
  | zero => rfl
  | succ n ih =>
    unfold Strand.seqNext
    split
    · rfl
    · split
      · split
        · rfl
        · rw [ih]; rfl
      · rfl

theorem Strand.engine_nextIndex (st : Strand) (t : Tile) (pc : Nat) (o : Option (BrOp × Word)) : (st.nextIndex t pc o).1.engine = st.engine := by
  unfold Strand.nextIndex
  split <;> first
    | rfl
    | exact Strand.engine_seqNext ..
    | (simp only; split <;> rfl)

theorem Strand.engine_lodEvent (st : Strand) : st.lodEvent.engine = st.engine := by
  unfold Strand.lodEvent
  split <;> rfl

theorem Strand.engine_advance (st : Strand) (t : Tile) (now rep : Nat) (ends : Bool) (o : Option (BrOp × Word)) :
    (st.advance t now rep ends o).engine = st.engine := by
  have hr : (if ends then (st, st.pc) else st.nextIndex t st.pc o).1.engine = st.engine := by
    cases ends
    · exact Strand.engine_nextIndex ..
    · rfl
  unfold Strand.advance
  generalize (if ends then (st, st.pc) else st.nextIndex t st.pc o) = r at hr ⊢
  simp only
  have h2 : ∀ x : Strand, x.engine = st.engine → (if x.lodWait then { x.lodEvent with lodWait := false } else x).engine = st.engine := by
    intro x hx
    split
    · rw [← hx, ← Strand.engine_lodEvent x]; rfl
    · exact hx
  have h3 := h2 { r.1 with
    pc := r.2, issued := st.issued + 1, issuedAt := now + 1, advancedAt := now + 1, repLeft := r.1.repLeft + rep, pass := false,
    dbgctl := st.dbgctl &&& ~~~(16 : Word), token := st.token.map (fun n => if 65 ≤ n then n else n - 1) } (by rw [← hr]; rfl)
  split
  · rw [← h3]; rfl
  · exact h3

/-! ### The state around a tile -/

theorem State.trace_tile (s : State) (l : Nat) (k : StrandId) (a b c m : Nat) : (s.trace l k a b c).tile m = s.tile m := by
  unfold State.trace
  simp only
  split
  · rfl
  · split
    · rfl
    · exact State.tile_rawWrite ..

theorem launchCopy_engine (l : Nat) (c : Channel) (s : State) : ((launchCopy l c s).tile l).engine = (s.tile l).engine := by
  unfold launchCopy
  simp only [State.tile_modTile_same]
  have hb : s.bump.tile l = s.tile l := rfl
  rw [hb]
  cases c <;> rfl

theorem launchCopy_tile_other (l : Nat) (c : Channel) (s : State) {m : Nat} (h : m ≠ l) : (launchCopy l c s).tile m = s.tile m := by
  unfold launchCopy
  exact State.tile_modTile_other _ _ h

theorem launches_engine (l : Nat) (xs : List (Channel × Nat)) (s : State) :
    (((xs.foldl (fun s p => launchCopy l p.1 s) s)).tile l).engine = (s.tile l).engine := by
  induction xs generalizing s with
  | nil => rfl
  | cons a r ih => rw [List.foldl_cons, ih, launchCopy_engine]

theorem launches_tile_other (l : Nat) (xs : List (Channel × Nat)) (s : State) {m : Nat} (h : m ≠ l) :
    ((xs.foldl (fun s p => launchCopy l p.1 s) s)).tile m = s.tile m := by
  induction xs generalizing s with
  | nil => rfl
  | cons a r ih => rw [List.foldl_cons, ih, launchCopy_tile_other l _ _ h]

/-! ### The bundle of one move -/

theorem headerPops_plain : headerPops plainHeader = [] := by decide

theorem ofD_trig (t : Trig) : Dst.ofD t.d = some (.trig t) := by
  cases t with
  | sys o => cases o <;> rfl
  | br o => cases o <;> rfl
  | sem o => cases o <;> rfl
  | mb o => cases o <;> rfl
  | ix u o => cases u <;> cases o <;> rfl
  | ls o => cases o <;> rfl
  | st k o => revert k; cases o <;> decide
  | vx o => cases o <;> rfl
  | sf o => cases o <;> rfl
  | cv o => cases o <;> rfl
  | mx o => cases o <;> rfl
  | acc o => cases o <;> rfl
  | cp c o => cases c <;> cases o <;> rfl
  | nx o => cases o <;> rfl
  | tk o => cases o <;> rfl
  | wq o => cases o <;> rfl
  | fx o => cases o <;> rfl

/-- A bundle that issues is performed. -/
theorem issueDecoded_issues {s : State} {l : Nat} {k : StrandId} {b : Bundle} (h : s.issues l k b) :
    issueDecoded (.ok b) s = s.performBundle l k b := by
  obtain ⟨h1, h2, h3, h4, h5⟩ := h
  simp [issueDecoded, State.current, h1, h2, h3, h4, h5]

theorem issueMove_issues {s : State} {l : Nat} {k : StrandId} {m : Mv} {d : Nat} (h : s.issues l k (moveBundle m d)) :
    issueMove m.g m.s d s = s.performBundle l k (moveBundle m d) := issueDecoded_issues h

theorem issueTrig_issues {s : State} {l : Nat} {k : StrandId} {m : Mv} {t : Trig} (h : s.issues l k (moveBundle m t.d)) :
    issueTrig t m s = s.performBundle l k (moveBundle m t.d) := issueDecoded_issues h

theorem issueHeader_issues {s : State} {l : Nat} {k : StrandId} {h : Header} (hi : s.issues l k (headerBundle h)) :
    issueHeader h s = s.performBundle l k (headerBundle h) := issueDecoded_issues hi

theorem performed_move {s : State} {l : Nat} {k : StrandId} {m : Mv} {d : Nat} (hg : s.guardHolds l k m) :
    s.performed l k (moveBundle m d) = [(⟨0, m.g, some m.s, d, Dst.ofD d⟩, s.source l k m.s)] := by
  have hg' : ((s.tile l).strand k).guard m.g = true := hg
  simp [State.performed, moveBundle, hg']

theorem performed_not {s : State} {l : Nat} {k : StrandId} {m : Mv} {d : Nat} (hg : ¬ s.guardHolds l k m) :
    s.performed l k (moveBundle m d) = [] := by
  have hg' : ((s.tile l).strand k).guard m.g = false := by
    simpa [State.guardHolds] using hg
  simp [State.performed, moveBundle, hg']

theorem firings_move {s : State} {l : Nat} {k : StrandId} {m : Mv} {t : Trig} (hg : s.guardHolds l k m) :
    firings (s.performed l k (moveBundle m t.d)) = [⟨0, t, s.moved l k m⟩] := by
  simp [performed_move hg, firings, ofD_trig, State.moved]

/-- The state in which a lone trigger starts: what an acquire forces is performed. -/
def State.beforeTrig (s : State) (l : Nat) (k : StrandId) (m : Mv) (t : Trig) : State :=
  let p : Move × Nat × Vec := (⟨0, m.g, some m.s, t.d, some (.trig t)⟩, s.source l k m.s)
  let s1 := if acquires (moveBundle m t.d) [⟨0, t, s.moved l k m⟩] then s.forceBefore l k ((s.tile l).strand k).nextId else s
  let s2 := s1.withOperands l k [p]
  s2.modTile l (fun t => t.stateMove k s2.cycle p)

/-- The state in which a lone trigger has started. -/
def State.afterTrig (s : State) (l : Nat) (k : StrandId) (m : Mv) (t : Trig) : State :=
  trigStart t ((s.tile l).strand k).nextId ⟨l, k, 0, s.moved l k m⟩ (s.beforeTrig l k m t)

/-- The triggers whose bundle has no effect beside their start and the sequence. -/
def plainTrig : Trig → Bool
  | .sys .csrr | .sys .csrw | .sys .trap | .mb .pop => false
  | _ => true

theorem withOperands_trig_tile (s : State) (l : Nat) (k : StrandId) (m : Mv) (t : Trig) (v : Nat × Vec) :
    ((s.withOperands l k [(⟨0, m.g, some m.s, t.d, some (.trig t)⟩, v)])).tile l = s.tile l := by
  simp only [State.withOperands, State.tile_modTile_same, Strand.writeOperands, List.foldl_cons, List.foldl_nil]
  cases k <;> rfl

theorem consume_engine (s : State) (l : Nat) (k : StrandId) (m : Mv) (d : Nat) (hsel : Bool) :
    ((s.consume l k (moveBundle m d) false hsel).tile l).engine = (s.tile l).engine := by
  have h0 : headerPops (moveBundle m d).hdr = [] := headerPops_plain
  unfold State.consume
  simp only [h0, Bool.false_and, Bool.false_eq_true, if_false, List.foldl_nil, State.tile_modTile_same]
  apply Tile.engine_modStrand
  intro st
  apply Strand.engine_foldl
  intro st p
  split <;> rfl

theorem consume_tile_other (s : State) (l : Nat) (k : StrandId) (m : Mv) (d : Nat) (hsel : Bool) {j : Nat} (h : j ≠ l) :
    (s.consume l k (moveBundle m d) false hsel).tile j = s.tile j := by
  have h0 : headerPops (moveBundle m d).hdr = [] := headerPops_plain
  unfold State.consume
  simp only [h0, Bool.false_and, Bool.false_eq_true, if_false, List.foldl_nil]
  exact State.tile_modTile_other _ _ h

theorem writeOperands_engine (ps : List (Move × Nat × Vec)) (late : Bool) (st : Strand) : (st.writeOperands ps late).engine = st.engine := by
  unfold Strand.writeOperands
  apply Strand.engine_foldl
  intro st p
  split
  · split <;> rfl
  · rfl

/-- A trigger that is no acquire starts in the state as it is. -/
theorem beforeTrig_tile {s : State} {l : Nat} {k : StrandId} {m : Mv} {t : Trig}
    (ha : acquires (moveBundle m t.d) [⟨0, t, s.moved l k m⟩] = false) : (s.beforeTrig l k m t).tile l = s.tile l := by
  unfold State.beforeTrig
  simp only [ha, Bool.false_eq_true, if_false, State.tile_modTile_same]
  exact withOperands_trig_tile ..

theorem startOrder_plain {t : Trig} (ht : plainTrig t = true) (v : Vec) : startOrder [⟨0, t, v⟩] = [⟨0, t, v⟩] := by
  cases t with
  | sys o => cases o <;> first | rfl | exact absurd ht (by decide)
  | _ => rfl

theorem csrWrites_plain {t : Trig} (ht : plainTrig t = true) (v : Vec) : csrWrites [⟨0, t, v⟩] = [] := by
  cases t with
  | sys o => cases o <;> first | rfl | exact absurd ht (by decide)
  | _ => rfl

theorem trapCode_plain {t : Trig} (ht : plainTrig t = true) (v : Vec) : trapCode [⟨0, t, v⟩] = none := by
  cases t with
  | sys o => cases o <;> first | rfl | exact absurd ht (by decide)
  | _ => rfl

theorem mbPop_plain {t : Trig} (ht : plainTrig t = true) (v : Vec) :
    popsMail [⟨0, t, v⟩] = false := by
  cases t with
  | mb o => cases o <;> first | rfl | exact absurd ht (by decide)
  | _ => rfl

theorem csrReads_plain {t : Trig} (ht : plainTrig t = true) (v : Vec) : csrReads [⟨0, t, v⟩] = [] := by
  cases t with
  | sys o => cases o <;> first | rfl | exact absurd ht (by decide)
  | _ => rfl

/-- What the issue of a lone trigger does after its start: the reads, the launch, the sequence and the trace. -/
def State.settleTrig (s x : State) (l : Nat) (k : StrandId) (m : Mv) (t : Trig) : State :=
  let fs : List Firing := [⟨0, t, s.moved l k m⟩]
  let ps : List (Move × Nat × Vec) := [(⟨0, m.g, some m.s, t.d, some (.trig t)⟩, s.source l k m.s)]
  let st0 := (s.tile l).strand k
  let o := brFiring fs
  let s1 := s.withOperands l k ps
  let kind := if endsStrand fs then 0 else ((s1.tile l).strand k).leaveKind (s1.tile l) o
  let x := x.consume l k (moveBundle m t.d) false (selectsHead fs)
  let x := (bundleLaunches (moveBundle m t.d)).foldl (fun x p => launchCopy l p.1 x) x
  let x := x.modTile l (fun t => t.modStrand k (fun st => st.writeOperands ps true))
  let x := x.modTile l (fun t => t.modStrand k (fun st => st.advance (x.tile l) x.cycle 0 (endsStrand fs) o))
  if kind = 0 then x else x.trace l k kind st0.pc ((x.tile l).strand k).pc

/-- The issue of a lone trigger is its start, and then what every issue does (R17). -/
theorem performBundle_trig {s : State} {l : Nat} {k : StrandId} {m : Mv} {t : Trig} (hg : s.guardHolds l k m) (ht : plainTrig t = true) :
    s.performBundle l k (moveBundle m t.d) = s.settleTrig (s.afterTrig l k m t) l k m t := by
  have hp := performed_move (d := t.d) hg
  rw [ofD_trig] at hp
  have hf : firings [((⟨0, m.g, some m.s, t.d, some (.trig t)⟩ : Move), s.source l k m.s)] = [⟨0, t, s.moved l k m⟩] := rfl
  have hrep : (moveBundle m t.d).hdr.rep = 0 := rfl
  unfold State.performBundle
  rw [hp]
  simp only [hf, startOrder_plain ht, csrReads_plain ht, csrWrites_plain ht, trapCode_plain ht, List.foldl_nil, List.foldl_cons, hrep]
  rw [mbPop_plain ht]
  rfl

/-- What a lone trigger changes in its tile's engines is what its start changes (R17). -/
theorem performBundle_engine {s : State} {l : Nat} {k : StrandId} {m : Mv} {t : Trig} (hg : s.guardHolds l k m) (ht : plainTrig t = true) :
    ((s.performBundle l k (moveBundle m t.d)).tile l).engine = ((s.afterTrig l k m t).tile l).engine := by
  rw [performBundle_trig hg ht]
  have htr : ∀ (x : State) (p : Prop) [Decidable p] (a b c : Nat), ((if p then x else x.trace l k a b c).tile l) = x.tile l := by
    intro x p _ a b c
    split
    · rfl
    · exact State.trace_tile ..
  unfold State.settleTrig
  simp only
  rw [htr, State.tile_modTile_same, Tile.engine_modStrand _ _ _ (fun st => Strand.engine_advance ..), State.tile_modTile_same,
    Tile.engine_modStrand _ _ _ (fun st => writeOperands_engine ..), launches_engine, consume_engine]

end Sys2Proof.Machine
end

