-- ==== Sys2Proof/Laws/Frame.lean ====
section
/-! SUPPORT. The frame of a lone trigger: what its start and what every issue leave unchanged. -/

namespace Sys2Proof.Machine

/-- Every row that carries a trigger issues the bundle of that trigger (R40, R47). -/
theorem exec_ofTrig (t : Trig) (m : Mv) (s : State) : exec (Instr.ofTrig t m) s = .next (issueTrig t m s) := by
  cases t with
  | sys o => cases o <;> rfl
  | br o => cases o <;> rfl
  | sem o => cases o <;> rfl
  | mb o => cases o <;> rfl
  | ix u o => cases o <;> rfl
  | ls o => cases o <;> rfl
  | st k o => cases o <;> rfl
  | vx o => cases o <;> rfl
  | sf o => cases o <;> rfl
  | cv o => cases o <;> rfl
  | mx o => cases o <;> rfl
  | acc o => cases o <;> rfl
  | cp c o => cases o <;> rfl
  | nx o => cases o <;> rfl
  | tk o => cases o <;> rfl
  | wq o => cases o <;> rfl
  | fx o => cases o <;> rfl

/-- A firing trigger answers a next state, whose engines are those that its start leaves. -/
theorem fires_answers {s : State} {l : Nat} {k : StrandId} {m : Mv} {t : Trig} (h : s.fires l k m t) (ht : plainTrig t = true) :
    ∃ x, exec (Instr.ofTrig t m) s = .next x ∧ x = s.settleTrig (s.afterTrig l k m t) l k m t ∧
      (x.tile l).engine = ((s.afterTrig l k m t).tile l).engine :=
  ⟨_, exec_ofTrig t m s, by rw [issueTrig_issues h.1, performBundle_trig h.2 ht], by rw [issueTrig_issues h.1, performBundle_engine h.2 ht]⟩

/-- The part of a state that a lone trigger may not touch, where it starts in its tile alone. -/
structure Keeps (s x : State) (l : Nat) (k : StrandId) : Prop where
  others : ∀ j, j ≠ l → x.tile j = s.tile j
  owner : (x.tile l).owner = (s.tile l).owner
  trace : ((x.tile l).strand k).trace = ((s.tile l).strand k).trace
  rest : x = { s with tiles := x.tiles, free := x.free }

theorem Keeps.refl (s : State) (l : Nat) (k : StrandId) : Keeps s s l k := ⟨fun _ _ => rfl, rfl, rfl, rfl⟩

theorem Keeps.trans {a b c : State} {l : Nat} {k : StrandId} (h1 : Keeps a b l k) (h2 : Keeps b c l k) : Keeps a c l k :=
  ⟨fun j hj => (h2.others j hj).trans (h1.others j hj), h2.owner.trans h1.owner, h2.trace.trans h1.trace, by
    have := h2.rest; rw [h1.rest] at this; exact this⟩

/-- A change of the tile that keeps its owner and the trace bit. -/
theorem Keeps.modTile (s : State) (l : Nat) (k : StrandId) (f : Tile → Tile) (h1 : (f (s.tile l)).owner = (s.tile l).owner)
    (h2 : ((f (s.tile l)).strand k).trace = ((s.tile l).strand k).trace) : Keeps s (s.modTile l f) l k :=
  ⟨fun j hj => State.tile_modTile_other _ _ hj, by rw [State.tile_modTile_same, h1], by rw [State.tile_modTile_same, h2], rfl⟩

theorem Keeps.bump (s : State) (l : Nat) (k : StrandId) : Keeps s s.bump l k := ⟨fun _ _ => rfl, rfl, rfl, rfl⟩

theorem Keeps.foldl {α : Type} {l : Nat} {k : StrandId} (xs : List α) (f : State → α → State) (h : ∀ s a, Keeps s (f s a) l k) (s : State) :
    Keeps s (xs.foldl f s) l k := by
  induction xs generalizing s with
  | nil => exact .refl s l k
  | cons a r ih => exact (h s a).trans (ih _)

theorem Keeps.ctxOf {s x : State} {l : Nat} {k : StrandId} (h : Keeps s x l k) : x.ctxOf l = s.ctxOf l := by
  unfold State.ctxOf; rw [h.owner]

theorem Keeps.ctx {s x : State} {l : Nat} {k : StrandId} (h : Keeps s x l k) (c : Nat) : x.ctx c = s.ctx c := by
  rw [h.rest]; rfl

theorem Keeps.mem {s x : State} {l : Nat} {k : StrandId} (h : Keeps s x l k) : x.mem = s.mem := by rw [h.rest]

/-- A strand of a tile is changed without its trace bit. -/
theorem Keeps.modStrand (s : State) (l : Nat) (k j : StrandId) (f : Strand → Strand) (h : ∀ st : Strand, (f st).trace = st.trace) :
    Keeps s (s.modTile l (fun t => t.modStrand j f)) l k := by
  apply Keeps.modTile
  · cases j <;> rfl
  · cases j <;> cases k <;> simp [Tile.modStrand, Tile.setStrand, Tile.strand, h]

end Sys2Proof.Machine
end

