-- ==== Sys2Proof/Laws/Memory.lean ====
section
/-! SUPPORT. Memory keeps its canonical form under every operation that writes it, and a write changes its own bytes alone. -/

namespace Sys2Proof.Machine

/-! ### Rising keys -/

theorem risingFrom_mono {α : Type} {m : SMap α} {a b : Nat} (h : risingFrom b m = true) (hab : a ≤ b) : risingFrom a m = true := by
  cases m with
  | nil => rfl
  | cons p r =>
    obtain ⟨k, v⟩ := p
    simp only [risingFrom, Bool.and_eq_true, decide_eq_true_eq] at h ⊢
    exact ⟨by omega, h.2⟩

theorem risingFrom_mput {α : Type} {m : SMap α} {a k : Nat} (v : α) (h : risingFrom a m = true) (hk : a ≤ k) :
    risingFrom a (mput m k v) = true := by
  induction m generalizing a with
  | nil => simp [mput, risingFrom, hk]
  | cons p r ih =>
    obtain ⟨b, w⟩ := p
    simp only [risingFrom, Bool.and_eq_true, decide_eq_true_eq] at h
    simp only [mput]
    split
    · simp only [risingFrom, Bool.and_eq_true, decide_eq_true_eq]
      exact ⟨hk, by omega, h.2⟩
    · split
      · next e => subst e; simp only [risingFrom, Bool.and_eq_true, decide_eq_true_eq]; exact h
      · simp only [risingFrom, Bool.and_eq_true, decide_eq_true_eq]
        exact ⟨h.1, ih h.2 (by omega)⟩

theorem risingFrom_mdel {α : Type} {m : SMap α} {a : Nat} (k : Nat) (h : risingFrom a m = true) : risingFrom a (mdel m k) = true := by
  induction m generalizing a with
  | nil => rfl
  | cons p r ih =>
    obtain ⟨b, w⟩ := p
    simp only [risingFrom, Bool.and_eq_true, decide_eq_true_eq] at h
    simp only [mdel]
    split
    · exact risingFrom_mono (ih h.2) (by omega)
    · simp only [risingFrom, Bool.and_eq_true, decide_eq_true_eq]
      exact ⟨h.1, ih h.2⟩

theorem mem_mput {α : Type} {m : SMap α} {k : Nat} {v : α} {p : Nat × α} (h : p ∈ mput m k v) : p = (k, v) ∨ p ∈ m := by
  induction m with
  | nil => simpa [mput] using h
  | cons q r ih =>
    obtain ⟨b, w⟩ := q
    simp only [mput] at h
    split at h
    · simpa using h
    · split at h
      · simp only [List.mem_cons] at h ⊢; tauto
      · simp only [List.mem_cons] at h ⊢
        rcases h with h | h
        · exact .inr (.inl h)
        · rcases ih h with h | h
          · exact .inl h
          · exact .inr (.inr h)

theorem mem_mdel {α : Type} {m : SMap α} {k : Nat} {p : Nat × α} (h : p ∈ mdel m k) : p ∈ m := by
  induction m with
  | nil => exact h
  | cons q r ih =>
    obtain ⟨b, w⟩ := q
    simp only [mdel] at h
    split at h
    · exact List.mem_cons_of_mem _ (ih h)
    · rcases List.mem_cons.1 h with h | h
      · exact h ▸ List.mem_cons_self ..
      · exact List.mem_cons_of_mem _ (ih h)

/-! ### The canonical form -/

theorem Memory.wf_iff (m : Memory) : Memory.wf m = true ↔ risingFrom 0 m = true ∧ ∀ p ∈ m, p.2 ≠ 0 := by
  simp [Memory.wf]

theorem wf_nil : Memory.wf [] = true := rfl

/-- Writing a byte keeps the canonical form. -/
theorem writeByte_wf {m : Memory} (h : Memory.wf m = true) (a : Nat) (b : Byte) : Memory.wf (writeByte m a b) = true := by
  rw [Memory.wf_iff] at h ⊢
  unfold writeByte mputD
  split
  · exact ⟨risingFrom_mdel a h.1, fun p hp => h.2 p (mem_mdel hp)⟩
  · next hb =>
    refine ⟨risingFrom_mput b h.1 (Nat.zero_le _), fun p hp => ?_⟩
    rcases mem_mput hp with rfl | hp
    · exact hb
    · exact h.2 p hp

/-- Writing bytes one after the other keeps the canonical form. -/
theorem writeAt_wf {m : Memory} (h : Memory.wf m = true) (ps : List (Nat × Byte)) : Memory.wf (writeAt m ps) = true := by
  unfold writeAt
  induction ps generalizing m with
  | nil => exact h
  | cons p r ih => exact ih (writeByte_wf h p.1 p.2)

theorem risingFrom_filter {α : Type} {m : SMap α} {a : Nat} (f : Nat × α → Bool) (h : risingFrom a m = true) :
    risingFrom a (m.filter f) = true := by
  induction m generalizing a with
  | nil => rfl
  | cons p r ih =>
    obtain ⟨b, w⟩ := p
    simp only [risingFrom, Bool.and_eq_true, decide_eq_true_eq] at h
    rw [List.filter_cons]
    split
    · simp only [risingFrom, Bool.and_eq_true, decide_eq_true_eq]; exact ⟨h.1, ih h.2⟩
    · exact risingFrom_mono (ih h.2) (by omega)

/-- Two rising parts that meet at an address make a rising whole. -/
theorem risingFrom_append {α : Type} {m n : SMap α} {a c : Nat} (hm : risingFrom a m = true) (hmc : ∀ p ∈ m, p.1 < c)
    (hn : risingFrom c n = true) (hac : a ≤ c) : risingFrom a (m ++ n) = true := by
  induction m generalizing a with
  | nil => exact risingFrom_mono hn hac
  | cons p r ih =>
    obtain ⟨b, w⟩ := p
    simp only [risingFrom, Bool.and_eq_true, decide_eq_true_eq, List.cons_append] at hm ⊢
    have hb := hmc (b, w) (List.mem_cons_self ..)
    exact ⟨hm.1, ih hm.2 (fun p hp => hmc p (List.mem_cons_of_mem _ hp)) hb⟩

theorem risingFrom_ge {α : Type} {m : SMap α} {a c : Nat} (h : risingFrom a m = true) (hc : ∀ p ∈ m, c ≤ p.1) : risingFrom c m = true := by
  cases m with
  | nil => rfl
  | cons p r =>
    obtain ⟨b, w⟩ := p
    simp only [risingFrom, Bool.and_eq_true, decide_eq_true_eq] at h ⊢
    exact ⟨hc (b, w) (List.mem_cons_self ..), h.2⟩

theorem listBytes_wf (a : Nat) (bs : List Byte) :
    risingFrom a (listBytes a bs) = true ∧ ∀ p ∈ listBytes a bs, p.2 ≠ 0 ∧ a ≤ p.1 ∧ p.1 < a + bs.length := by
  induction bs generalizing a with
  | nil => simp [listBytes, risingFrom]
  | cons b r ih =>
    obtain ⟨h1, h2⟩ := ih (a + 1)
    simp only [listBytes, List.length_cons]
    split
    · exact ⟨risingFrom_mono h1 (by omega), fun p hp => ⟨(h2 p hp).1, by have := (h2 p hp).2; omega, by have := (h2 p hp).2; omega⟩⟩
    · next hb =>
      refine ⟨by simp [risingFrom, h1], fun p hp => ?_⟩
      rcases List.mem_cons.1 hp with rfl | hp
      · exact ⟨hb, by omega, by simp⟩
      · exact ⟨(h2 p hp).1, by have := (h2 p hp).2; omega, by have := (h2 p hp).2; omega⟩

/-- What stands below an address, a block of its own, and what stands from the block's end on, in canonical form. -/
theorem splice_wf {m n : Memory} {a c : Nat} (hm : Memory.wf m = true) (hac : a ≤ c)
    (hn : risingFrom a n = true ∧ ∀ p ∈ n, p.2 ≠ 0 ∧ p.1 < c) : Memory.wf (below m a ++ n ++ onward m c) = true := by
  rw [Memory.wf_iff] at hm ⊢
  refine ⟨?_, fun p hp => ?_⟩
  · have hb : risingFrom 0 (below m a) = true := risingFrom_filter _ hm.1
    have ho : risingFrom c (onward m c) = true :=
      risingFrom_ge (risingFrom_filter _ hm.1) (fun p hp => by simpa [onward] using (List.mem_filter.1 hp).2)
    rw [List.append_assoc]
    refine risingFrom_append hb (fun p hp => by simpa [below] using (List.mem_filter.1 hp).2) ?_ (Nat.zero_le a)
    exact risingFrom_append hn.1 (fun p hp => (hn.2 p hp).2) ho hac
  · simp only [List.mem_append] at hp
    rcases hp with (hp | hp) | hp
    · exact hm.2 p (List.mem_filter.1 hp).1
    · exact (hn.2 p hp).1
    · exact hm.2 p (List.mem_filter.1 hp).1

/-- Writing a byte string keeps the canonical form. -/
theorem writeRange_wf {m : Memory} (h : Memory.wf m = true) (a : Nat) (bs : List Byte) : Memory.wf (writeRange m a bs) = true :=
  splice_wf h (by omega) ⟨(listBytes_wf a bs).1, fun p hp => ⟨((listBytes_wf a bs).2 p hp).1, ((listBytes_wf a bs).2 p hp).2.2⟩⟩

theorem writeAt_keys {m : Memory} {ps : List (Nat × Byte)} {f : Nat → Prop} (hm : ∀ p ∈ m, f p.1) (hp : ∀ p ∈ ps, f p.1) :
    ∀ p ∈ writeAt m ps, f p.1 := by
  unfold writeAt
  induction ps generalizing m with
  | nil => exact hm
  | cons q r ih =>
    refine ih (fun p h => ?_) (fun p h => hp p (List.mem_cons_of_mem _ h))
    simp only [writeByte, mputD] at h
    split at h
    · exact hm p (mem_mdel h)
    · rcases mem_mput h with rfl | h
      · exact hp q (List.mem_cons_self ..)
      · exact hm p h

/-- Writing bytes of a block that is not empty keeps the canonical form. -/
theorem writeBlock_wf {m : Memory} (h : Memory.wf m = true) (a : Nat) {n : Nat} (hn : 0 < n) (ps : List (Nat × Byte)) :
    Memory.wf (writeBlock m a n ps) = true := by
  refine splice_wf h (by omega) ?_
  have hw : Memory.wf (within m a n) = true := by
    rw [Memory.wf_iff] at h ⊢
    exact ⟨risingFrom_filter _ h.1, fun p hp => h.2 p (List.mem_filter.1 hp).1⟩
  have hk := writeAt_keys (m := within m a n) (ps := ps.map (fun p => (a + p.1 % n, p.2))) (f := fun x => a ≤ x ∧ x < a + n)
    (fun p hp => by simpa [within] using (List.mem_filter.1 hp).2)
    (fun p hp => by
      obtain ⟨q, _, rfl⟩ := List.mem_map.1 hp
      have := Nat.mod_lt q.1 hn
      simp only
      omega)
  have hf := (Memory.wf_iff _).1 (writeAt_wf hw (ps.map (fun p => (a + p.1 % n, p.2))))
  exact ⟨risingFrom_ge hf.1 (fun p hp => (hk p hp).1), fun p hp => ⟨hf.2 p hp, (hk p hp).2⟩⟩

/-! ### What a write changes -/

theorem mget_mdel {α : Type} (m : SMap α) (k j : Nat) (d : α) : mget (mdel m k) j d = if j = k then d else mget m j d := by
  induction m with
  | nil => simp [mdel, mget]
  | cons p r ih =>
    obtain ⟨b, w⟩ := p
    by_cases e : b = k
    · rw [mdel, if_pos e, ih]
      split
      · rfl
      · next e2 => rw [mget, if_neg (e ▸ Ne.symm e2)]
    · rw [mdel, if_neg e, mget, mget, ih]
      split
      · next e1 => rw [if_neg (e1 ▸ e)]
      · rfl

/-- Reading a byte after one write: the written byte at its address, the old byte elsewhere. -/
theorem readByte_writeByte (m : Memory) (a j : Nat) (b : Byte) : readByte (writeByte m a b) j = if j = a then b else readByte m j := by
  unfold readByte writeByte mputD
  split
  · next e => subst e; exact mget_mdel m a j 0
  · exact mget_mput m a j b 0

/-- Writing bytes leaves every other address alone. -/
theorem readByte_writeAt_other {m : Memory} (h : Memory.wf m = true) (ps : List (Nat × Byte)) (j : Nat) (hj : ∀ p ∈ ps, p.1 ≠ j) :
    readByte (writeAt m ps) j = readByte m j := by
  unfold writeAt
  induction ps generalizing m with
  | nil => rfl
  | cons q r ih =>
    rw [List.foldl_cons, ih (writeByte_wf h _ _) (fun p hp => hj p (List.mem_cons_of_mem _ hp)), readByte_writeByte]
    exact if_neg (Ne.symm (hj q (List.mem_cons_self ..)))

/-- Memory at reset is in canonical form. -/
theorem reset_memoryOk : State.reset.memoryOk = true := rfl

/-! ### Blocks -/

theorem mget_filter_key {α : Type} (m : SMap α) (f : Nat → Bool) (k : Nat) (d : α) :
    mget (m.filter (fun p => f p.1)) k d = if f k then mget m k d else d := by
  induction m with
  | nil => simp [mget]
  | cons p r ih =>
    obtain ⟨b, w⟩ := p
    rw [List.filter_cons]
    by_cases hb : f b = true
    · simp only [hb, if_true, mget, ih]
      split
      · next e => subst e; simp [hb]
      · rfl
    · simp only [hb, Bool.false_eq_true, if_false, ih, mget]
      by_cases e : b = k
      · subst e; simp [hb]
      · simp [e]

theorem mget_absent {α : Type} {m : SMap α} {k : Nat} (d : α) (h : ∀ p ∈ m, p.1 ≠ k) : mget m k d = d := by
  induction m with
  | nil => rfl
  | cons p r ih =>
    simp only [mget, if_neg (h p (List.mem_cons_self ..))]
    exact ih (fun p hp => h p (List.mem_cons_of_mem _ hp))

theorem mget_append_left {α : Type} {m n : SMap α} {k : Nat} (d : α) (h : ∀ p ∈ m, p.1 ≠ k) : mget (m ++ n) k d = mget n k d := by
  induction m with
  | nil => rfl
  | cons p r ih =>
    simp only [List.cons_append, mget, if_neg (h p (List.mem_cons_self ..))]
    exact ih (fun p hp => h p (List.mem_cons_of_mem _ hp))

theorem mget_append_right {α : Type} {m n : SMap α} {k : Nat} (d : α) (h : ∀ p ∈ n, p.1 ≠ k) : mget (m ++ n) k d = mget m k d := by
  induction m with
  | nil => exact mget_absent d h
  | cons p r ih => simp only [List.cons_append, mget, ih]

/-- Writing bytes of a block leaves every other byte alone. -/
theorem readByte_writeBlock_other {m : Memory} (h : Memory.wf m = true) (a : Nat) {n : Nat} (hn : 0 < n) (ps : List (Nat × Byte)) (j : Nat)
    (hj : ∀ p ∈ ps, a + p.1 % n ≠ j) : readByte (writeBlock m a n ps) j = readByte m j := by
  have hw : Memory.wf (within m a n) = true := by
    rw [Memory.wf_iff] at h ⊢
    exact ⟨risingFrom_filter _ h.1, fun p hp => h.2 p (List.mem_filter.1 hp).1⟩
  have hk := writeAt_keys (m := within m a n) (ps := ps.map (fun p => (a + p.1 % n, p.2))) (f := fun x => a ≤ x ∧ x < a + n)
    (fun p hp => by simpa [within] using (List.mem_filter.1 hp).2)
    (fun p hp => by
      obtain ⟨q, _, rfl⟩ := List.mem_map.1 hp
      have := Nat.mod_lt q.1 hn
      simp only
      omega)
  have hmid : readByte (writeAt (within m a n) (ps.map (fun p => (a + p.1 % n, p.2)))) j = readByte (within m a n) j :=
    readByte_writeAt_other hw _ j (fun p hp => by obtain ⟨q, hq, rfl⟩ := List.mem_map.1 hp; exact hj q hq)
  have hbelow : ∀ p ∈ below m a, p.1 < a := fun p hp => by simpa [below] using (List.mem_filter.1 hp).2
  have honward : ∀ p ∈ onward m (a + n), a + n ≤ p.1 := fun p hp => by simpa [onward] using (List.mem_filter.1 hp).2
  unfold readByte at hmid ⊢
  unfold writeBlock
  by_cases h1 : j < a
  · rw [List.append_assoc, mget_append_right 0 (fun p hp => ?_)]
    · rw [below, mget_filter_key m (fun x => decide (x < a))]; simp [h1]
    · rcases List.mem_append.1 hp with hp | hp
      · have := (hk p hp).1; omega
      · have := honward p hp; omega
  · by_cases h2 : j < a + n
    · rw [mget_append_right 0 (fun p hp => by have := honward p hp; omega), mget_append_left 0 (fun p hp => by have := hbelow p hp; omega), hmid,
        within, mget_filter_key m (fun x => decide (a ≤ x) && decide (x < a + n))]
      have : a ≤ j := by omega
      simp [this, h2]
    · rw [mget_append_left 0 (fun p hp => ?_)]
      · rw [onward, mget_filter_key m (fun x => decide (a + n ≤ x))]
        have : a + n ≤ j := by omega
        simp [this]
      · rcases List.mem_append.1 hp with hp | hp
        · have := hbelow p hp; omega
        · have := (hk p hp).2; omega

/-! ### Home -/

@[simp] theorem State.readWord32_mem (s : State) (w : Nat) : (s.readWord32 w).mem = s.mem := by
  unfold State.readWord32
  cases mfind s.latent w with
  | none => rfl
  | some e =>
    simp only
    split
    · rfl
    · cases e <;> rfl

theorem State.foldl_mem {α : Type} (f : State → α → State) (h : ∀ s a, (f s a).mem = s.mem) (xs : List α) (s : State) :
    (xs.foldl f s).mem = s.mem := by
  induction xs generalizing s with
  | nil => rfl
  | cons a r ih => rw [List.foldl_cons, ih, h]

@[simp] theorem State.readHome_mem (s : State) (pl : Nat) : (s.readHome pl).mem = s.mem :=
  State.foldl_mem _ (fun _ _ => State.readWord32_mem ..) _ _

@[simp] theorem State.writeErrors_mem (s : State) (pl : Nat) (offs : List Nat) : (s.writeErrors pl offs).mem = s.mem := by
  apply State.foldl_mem
  intro s i
  simp only
  split
  · rfl
  · apply State.foldl_mem
    intro s j
    split
    · rfl
    · exact State.readWord32_mem ..

@[simp] theorem State.logLine_mem (s : State) (c pl : Nat) : (s.logLine c pl).mem = s.mem := by
  unfold State.logLine
  split
  · rfl
  · exact State.readHome_mem ..

/-- What a write of bytes of a line at home does to memory: nothing in a fenced pseudo-channel, and otherwise it writes them (R351). -/
theorem State.homeWrite_mem (s : State) (cs : List Nat) (pl : Nat) (ps : List (Nat × Byte)) :
    (s.homeWrite cs pl ps).mem = if s.lineFenced pl then s.mem else writeBlock s.mem (pl * 128) 128 ps := by
  unfold State.homeWrite
  split
  · rfl
  · simp only [State.writeErrors_mem]
    rw [State.foldl_mem _ (fun s c => State.logLine_mem s c pl)]

theorem homeWrite_mem_wf {s : State} (h : Memory.wf s.mem = true) (cs : List Nat) (pl : Nat) (ps : List (Nat × Byte)) :
    Memory.wf (s.homeWrite cs pl ps).mem = true := by
  rw [State.homeWrite_mem]
  split
  · exact h
  · exact writeBlock_wf h _ (by omega) ps

/-- Writing at home, through logs or not, keeps memory in canonical form. -/
theorem homeBytes_mem_wf {s : State} (h : Memory.wf s.mem = true) (cs : List Nat) (ps : List (Nat × Byte)) :
    Memory.wf (s.homeBytes cs ps).mem = true := by
  unfold State.homeBytes
  generalize ((ps.map (fun p => lineOf p.1)).dedup) = ls
  induction ls generalizing s with
  | nil => exact h
  | cons pl r ih => exact ih (homeWrite_mem_wf h cs pl _)

theorem rawWrite_mem_wf {s : State} (h : Memory.wf s.mem = true) (ps : List (Nat × Byte)) : Memory.wf (s.rawWrite ps).mem = true :=
  homeBytes_mem_wf h [] _

/-- Writing at home changes no byte but those it names. -/
theorem readByte_homeBytes_other {s : State} (h : Memory.wf s.mem = true) (cs : List Nat) (ps : List (Nat × Byte)) (j : Nat)
    (hj : ∀ p ∈ ps, p.1 ≠ j) : readByte (s.homeBytes cs ps).mem j = readByte s.mem j := by
  unfold State.homeBytes
  generalize ((ps.map (fun p => lineOf p.1)).dedup) = ls
  induction ls generalizing s with
  | nil => rfl
  | cons pl r ih =>
    rw [List.foldl_cons, ih (homeWrite_mem_wf h cs pl _), State.homeWrite_mem]
    split
    · rfl
    · refine readByte_writeBlock_other h _ (by omega) _ j (fun p hp => ?_)
      obtain ⟨q, hq, rfl⟩ := List.mem_map.1 hp
      have hq' := List.mem_filter.1 hq
      have := hj q hq'.1
      have hl : lineOf q.1 = pl := by simpa using hq'.2
      unfold lineOf at hl
      simp only
      omega

end Sys2Proof.Machine
end

