-- ==== Sys2Proof/Tests/Slice0.lean ====
section
/-! SUPPORT. Tests of the model: terms that the well-formedness check refuses, words written out from the encoding, states that meet the
hypotheses of the statements together, and single steps whose results the rules give. -/

namespace Sys2Proof.Tests

open Sys2Proof.Machine

set_option Elab.async false

/-! ### Well-formedness -/

/-- R37: REP 0 is the empty bundle. -/
theorem test_refuses_idleOfNone : (Instr.repIdle 0).illFormed = some .idleOfNone := by decide +kernel

/-- R268: a go port read to a scalar register is a launch. -/
theorem test_refuses_goIsLaunch : (Instr.moveToX ⟨.always, .go .cpi⟩ 3).illFormed = some .goIsLaunch := by decide +kernel

/-- R35: the word of one move is that move's. -/
theorem test_refuses_wordIsOne : (Instr.bundleIssue (BitVec.ofNat 256 (0x085 * 2 ^ 64))).illFormed = some .wordIsOne := by decide +kernel

/-! ### Decoding: words written out from R35 to R47 -/

/-- The word of one move in slot 0: G in bits 87:85, S in bits 84:75, D in bits 74:64. -/
def moveWord (g s d : Nat) : BitVec 256 := BitVec.ofNat 256 ((g * 2 ^ 21 + s * 2 ^ 11 + d) * 2 ^ 64)

/-- The guard and source of x5 under no condition. -/
def m5 : Mv := ⟨.always, .x 5⟩

theorem test_decode_state_moves :
    decodeInstr (moveWord 0 5 0x0BF) = .moveToX m5 63 ∧ decodeInstr (moveWord 0 5 0x0C2) = .moveToG m5 2 ∧
    decodeInstr (moveWord 0 5 0x39F) = .moveToV m5 31 ∧ decodeInstr (moveWord 0 5 0x787) = .moveToQ m5 7 := by decide +kernel

theorem test_decode_headers :
    decodeInstr (BitVec.ofNat 256 (2 ^ 47)) = .headerPop 15 ∧ decodeInstr (BitVec.ofNat 256 (2 ^ 30)) = .headerSemWait 0 ∧
    decodeInstr (BitVec.ofNat 256 (2 ^ 31 + 63 * 2 ^ 24)) = .headerSemPost 63 ∧
    decodeInstr (BitVec.ofNat 256 (15 * 2 ^ 56)) = .repIdle 15 := by decide +kernel

theorem test_decode_sequence :
    decodeInstr (moveWord 0 5 0x009) = .sysCsrw m5 ∧ decodeInstr (moveWord 0 5 0x02B) = .brLoop m5 ∧
    decodeInstr (moveWord 0 5 0x04C) = .semTakek m5 ∧ decodeInstr (moveWord 0 5 0x069) = .mbPop m5 := by decide +kernel

theorem test_decode_scalar :
    decodeInstr (moveWord 0 5 0x108) = .ixAdd .ix0 m5 ∧ decodeInstr (moveWord 0 5 0x189) = .ixSub .ix1 m5 ∧
    decodeInstr (moveWord 0 5 0x208) = .lsLd8 m5 ∧ decodeInstr (moveWord 0 5 0x2E9) = .stClose 3 m5 := by decide +kernel

theorem test_decode_vector :
    decodeInstr (moveWord 0 5 0x308) = .vxAdd m5 ∧ decodeInstr (moveWord 0 5 0x3A9) = .sfLog2 m5 ∧
    decodeInstr (moveWord 0 5 0x409) = .cvQnt m5 ∧ decodeInstr (moveWord 0 5 0x48A) = .mxF16 m5 ∧
    decodeInstr (moveWord 0 5 0x508) = .accClr m5 := by decide +kernel

theorem test_decode_devices :
    decodeInstr (moveWord 0 5 0x5B0) = .cpQuery .cpi m5 ∧ decodeInstr (moveWord 0 5 0x5F1) = .cpCancel .cpo m5 ∧
    decodeInstr (moveWord 0 5 0x648) = .nxRld m5 ∧ decodeInstr (moveWord 0 5 0x69C) = .fxShare m5 ∧
    decodeInstr (moveWord 0 5 0x708) = .wqCommit m5 ∧ decodeInstr (moveWord 0 5 0x74A) = .tkEst m5 := by decide +kernel

/-- R37: a reserved header bit makes the word no bundle; it stays the word it is. -/
theorem test_decode_reserved : decodeInstr (BitVec.ofNat 256 (2 ^ 60)) = .bundleIssue (BitVec.ofNat 256 (2 ^ 60)) := by decide +kernel

/-! ### Small states -/


/-- A record that every access of a test may use. -/
def region : Region := ⟨0, 65536, 2, 0, false, false, true, false, false, 0, 2, false, false, false, false, [], 0⟩

/-- A running task of a gang of one, on tile 0, with a schedule of one send to itself. -/
def task : Task :=
  { uid := 0, kid := 1, state := .running, taskid := 0, ts := 0, prio := 0, spec := false, code := 0, entryF := 0, entryC := 0, entryD := 0,
    regtab := 0, nwin := 4, windows := [], regions := [region], args := [], gang := true, gangUid := 0, gangId := 0, gidx := 0, gw := 1, gh := 1,
    origin := 0, domain := 0, sched := [⟨0, 9, 0, 0, false, 0, 0⟩], ltn := some 0, slot := some 0, hasImage := false, aborts := 0, readSet := [],
    fromQueue := none, marked := false, committed := false, started := 0, noticed := none, readyAt := 0, parked := false, heldMail := [],
    agentMail := [], heldOut := [], mtab := [], barrier := none, lodWaits := [], stPorts := [], endLines := [], conflict := false, steps := [], sentIdx := [] }

/-- The context of the tests: one kernel, one task. -/
def kernelCtx : Context := { Context.empty with en := true, tasks := [task], kernels := [⟨1, true, false, 0, false, 0, false⟩], nextUid := 1, xlates := [⟨0, 2 ^ 21, 0⟩] }

/-- Operand ports that let the triggers of every socket start. -/
def ports : SMap Vec :=
  [(0x020, 3), (0x204, 0x40040), (0x280 + 2, 2 ^ 33), (0x280 + 5, 0x113), (0x2a0 + 2, 2 ^ 33), (0x2a0 + 5, 0x113), (0x2c0 + 2, 2 ^ 33),
   (0x2c0 + 5, 0x113), (0x2e0 + 2, 2 ^ 33), (0x2e0 + 5, 0x113), (0x303, 12), (0x3a3, 12), (0x402, 12 + 16 * 32), (0x481, 2 ^ 19), (0x483, 2 ^ 19), (0x582, 1), (0x584, 2 ^ 16 + 3),
   (0x590, 2 ^ 33 + 8), (0x5a0, 8), (0x5c2, 1), (0x5c4, 2 ^ 16 + 3), (0x5d0, 2 ^ 33 + 8), (0x5e0, 8), (0x640, 2 ^ 12 + 2 ^ 16), (0x644, 128),
   (0x685, 0), (0x687, 256), (0x688, 2 * 2 ^ 44 + 3 * 2 ^ 22 + 5), (0x741, 8)].map (fun (p : Nat × Nat) => (p.1, BitVec.ofNat 1024 p.2))

/-- A running strand of the tests. -/
def runner : Strand :=
  { Strand.empty with run := .running, operands := ports, x := Strand.empty.x.set 1 0x1000101, mailbox := [(0, 7)] }

/-- Strand k of tile 0 has the turn in cycle 4. -/
def site (k : StrandId) : State :=
  let t := { Tile.empty with
      live := true, owner := some (0, 0), windows := [⟨0, 8192⟩, ⟨131072, 8192⟩, ⟨262144, 8192⟩, ⟨393216, 8192⟩], regions := [region],
      rings := Tile.empty.rings.set 0 ⟨true, 0x40040, 1, 1, 0, 0, 1, 1⟩, sems := Vector.replicate 64 5, feed := runner, compute := runner, drain := runner }
  { State.reset with
    turn := .strand 0 k, cycle := 4, ctxs := [(0, kernelCtx)],
    domains := [(0, ⟨0, 0, [0], some 0, some 1, [], 0⟩)],
    tiles := [(0, { t with nx := { t.nx with q12 := [(0, 1, 2)] } }), (1, t)] }


/-- What `State.issues` asks, as one value. -/
def issuesOk (s : State) (l : Nat) (k : StrandId) (b : Bundle) : Bool :=
  decide (s.turn = .strand l k) && s.mayIssue l k && !((s.tile l).strand k).atBreakpoint && decide (s.decideBundle l k b = .issue) &&
  !s.lsHeld l k b

theorem issues_of_ok {s : State} {l : Nat} {k : StrandId} {b : Bundle} (h : issuesOk s l k b = true) : s.issues l k b := by
  simp only [issuesOk, Bool.and_eq_true, decide_eq_true_eq, Bool.not_eq_true'] at h
  exact ⟨h.1.1.1.1, h.1.1.1.2, h.1.1.2, h.1.2, h.2⟩

theorem fires_of_ok {s : State} {l : Nat} {k : StrandId} {m : Mv} {u : Trig}
    (h : (issuesOk s l k (moveBundle m u.d) && ((s.tile l).strand k).guard m.g) = true) : s.fires l k m u := by
  rw [Bool.and_eq_true] at h
  exact ⟨issues_of_ok h.1, h.2⟩

/-- The move of the immediate 0 under no guard. -/
def m0 : Mv := ⟨.always, .imm 0⟩

/-! ### The triggers fire: states that meet the hypotheses of the statements about instructions -/

theorem test_fires_sys : ∀ o : SysOp, o ≠ .brk → (site .feed).fires 0 .feed m0 (.sys o) := by
  intro o h
  cases o <;> first | exact absurd rfl h | exact fires_of_ok (by decide +kernel)

theorem test_fires_br : ∀ o ∈ [BrOp.jmp, .call, .mdset, .mdrd, .mdjmp], (site .drain).fires 0 .drain m0 (.br o) := by
  intro o h
  fin_cases h <;> exact fires_of_ok (by decide +kernel)

theorem test_fires_sem : ∀ o : SemOp, (site .compute).fires 0 .compute m0 (.sem o) := by
  intro o
  cases o <;> exact fires_of_ok (by decide +kernel)

theorem test_fires_mb : ∀ o : MbOp, (site .drain).fires 0 .drain m0 (.mb o) := by
  intro o
  cases o <;> exact fires_of_ok (by decide +kernel)

theorem test_fires_ix : ∀ (u : IxUnit) (o : IxOp), (site .compute).fires 0 .compute m0 (.ix u o) := by
  intro u o
  cases u <;> cases o <;> exact fires_of_ok (by decide +kernel)

/-- A state with another value in an operand port of strand k of tile 0. -/
def put (s : State) (k : StrandId) (d v : Nat) : State :=
  s.modTile 0 (fun t => t.modStrand k (fun st => { st with operands := mput st.operands d (BitVec.ofNat 1024 v) }))

/-- A strand of tile 0 changed. -/
def mod (s : State) (k : StrandId) (f : Strand → Strand) : State := s.modTile 0 (fun t => t.modStrand k f)

/-- R130, R132: a loop to the bundle after next, its exit, and a return. -/
theorem test_fires_loops :
    (site .feed).fires 0 .feed ⟨.always, .imm 1⟩ (.br .loop) ∧
    (mod (site .feed) .feed (fun st => { st with pc := 2047 })).fires 0 .feed m0 (.br .jmp) ∧
    (mod (site .feed) .feed (fun st => { st with inner := some ⟨0, 5, 2⟩ })).fires 0 .feed m0 (.br .lexit) ∧
    (mod (site .feed) .feed (fun st => { st with rstack := [7] })).fires 0 .feed m0 (.br .ret) :=
  ⟨fires_of_ok (by decide +kernel), fires_of_ok (by decide +kernel), fires_of_ok (by decide +kernel), fires_of_ok (by decide +kernel)⟩

/-- The accesses of ls to a window of the tile; the operand 0 is the offset. -/
theorem test_fires_ls_local : ∀ o : LsOp, o ≠ .rcfg → (site .feed).fires 0 .feed m0 (.ls o) := by
  intro o h
  cases o <;> first | exact absurd rfl h | exact fires_of_ok (by decide +kernel)

/-- An aacc names its element type in sel.T (R165). -/
theorem test_fires_aacc : ∀ n < 4, (put (site .drain) .drain 0x200 (16 * n)).fires 0 .drain m0 (.ls .aacc) := by
  intro n h
  interval_cases n <;> exact fires_of_ok (by decide +kernel)

/-- R169: ring 1 has no descriptor yet. -/
theorem test_fires_rcfg : (site .feed).fires 0 .feed ⟨.always, .imm 1⟩ (.ls .rcfg) := fires_of_ok (by decide +kernel)

/-- The accesses of ls through handle 0, and their selector is no window. -/
theorem test_fires_ls_far : ∀ o : LsOp, (∃ n b, lsKind o = .load n b) ∨ (∃ n, lsKind o = .store n) ∨ (∃ a, lsKind o = .atomic a) ∨
    (∃ w, lsKind o = .gather w) ∨ (∃ w, lsKind o = .scatter w) →
    (put (site .compute) .compute 0x200 0x800).fires 0 .compute m0 (.ls o) ∧
      selSpace ((put (site .compute) .compute 0x200 0x800).port64 0 .compute 0x200) ≠ 0 := by
  intro o h
  refine ⟨?_, by decide +kernel⟩
  cases o <;> first | exact fires_of_ok (by decide +kernel) | simp [lsKind] at h

theorem test_fires_st : ∀ o : StOp, (site .feed).fires 0 .feed m0 (.st 0 o) ∧ (site .feed).fires 0 .feed m0 (.st 1 o) ∧
    (site .drain).fires 0 .drain m0 (.st 2 o) ∧ (site .drain).fires 0 .drain m0 (.st 3 o) := by
  intro o
  cases o <;> exact ⟨fires_of_ok (by decide +kernel), fires_of_ok (by decide +kernel), fires_of_ok (by decide +kernel),
    fires_of_ok (by decide +kernel)⟩

/-- The vx triggers on lanes of FP32, and those of integers only on lanes of i32 (R185). -/
theorem test_fires_vx : ∀ o : VxOp, (if o = .rnd ∨ o = .hist ∨ o = .rank then put (site .compute) .compute 0x303 4 else site .compute).fires 0
    .compute m0 (.vx o) := by
  intro o
  cases o <;> exact fires_of_ok (by decide +kernel)

theorem test_fires_sf : ∀ o : SfOp, (site .compute).fires 0 .compute m0 (.sf o) := by
  intro o
  cases o <;> exact fires_of_ok (by decide +kernel)

/-- cvt from FP32 to BF16, qnt from FP32 to MX8, dqt back (R216, R217). -/
theorem test_fires_cv : ∀ o : CvOp, (match o with
    | .cvt => put (site .compute) .compute 0x402 (12 + 10 * 32)
    | .dqt => put (site .compute) .compute 0x402 (16 + 12 * 32)
    | _ => site .compute).fires 0 .compute m0 (.cv o) := by
  intro o
  cases o <;> exact fires_of_ok (by decide +kernel)

/-- R238: an operation on held operands: HA and HB, with latches that serve it. -/
theorem test_fires_mx : ∀ o : MxOp,
    let x : Latch := { Latch.invalid with lv := true, lrows := 32, lrb := 384, lsc := (mxShapeOf o 0x30).nb }
    ((site .compute).modTile 0 (fun t => { t with mx := { t.mx with a := x, b := x } })).fires 0 .compute ⟨.always, .imm 0x30⟩ (.mx o) := by
  intro o
  cases o <;> exact fires_of_ok (by decide +kernel)

theorem test_fires_acc : ∀ o : AccOp, (site .compute).fires 0 .compute m0 (.acc o) := by
  intro o
  cases o <;> exact fires_of_ok (by decide +kernel)

theorem test_fires_cp : ∀ o : CpOp, (site .feed).fires 0 .feed m0 (.cp .cpi o) ∧ (site .drain).fires 0 .drain m0 (.cp .cpo o) := by
  intro o
  cases o <;> exact ⟨fires_of_ok (by decide +kernel), fires_of_ok (by decide +kernel)⟩

/-- The nx accesses to a window of tile 1, and the others. -/
theorem test_fires_nx : ∀ o : NxOp, (match o with
    | .sub | .unsub | .rhdr | .gcfg => (site .feed).fires 0 .feed m0 (.nx o)
    | .hrel | .hacq => (put (site .drain) .drain 0x640 0x2000).fires 0 .drain m0 (.nx o)
    | _ => (site .drain).fires 0 .drain m0 (.nx o)) := by
  intro o
  cases o <;> exact fires_of_ok (by decide +kernel)

theorem test_fires_tk : ∀ o : TkOp, (site .drain).fires 0 .drain m0 (.tk o) := by
  intro o
  cases o <;> exact fires_of_ok (by decide +kernel)

theorem test_fires_wq : ∀ o : WqOp, (site .feed).fires 0 .feed m0 (.wq o) := by
  intro o
  cases o <;> exact fires_of_ok (by decide +kernel)

theorem test_fires_fx : ∀ o : FxOp, (site .drain).fires 0 .drain (if o = .share then ⟨.always, .x 1⟩ else m0) (.fx o) := by
  intro o
  cases o <;> exact fires_of_ok (by decide +kernel)

/-- The copy launches, and the moves of R49 and R50 at the last register of each kind. -/
theorem test_issues_moves :
    (site .feed).issues 0 .feed (moveBundle ⟨.always, .go .cpi⟩ (Dst.x 63).d) ∧ (site .drain).issues 0 .drain (moveBundle ⟨.always, .go .cpo⟩ (Dst.x 0).d) ∧
    (site .feed).issues 0 .feed (moveBundle m0 (Dst.x 63).d) ∧ (site .feed).issues 0 .feed (moveBundle m0 (Dst.g 2).d) ∧
    (site .compute).issues 0 .compute (moveBundle m0 (Dst.v 31).d) ∧ (site .feed).issues 0 .feed (moveBundle m0 (Dst.tail 0).d) ∧
    (site .drain).issues 0 .drain (moveBundle m0 (Dst.tail 7).d) ∧ (site .feed).guardHolds 0 .feed m0 :=
  ⟨issues_of_ok (by decide +kernel), issues_of_ok (by decide +kernel), issues_of_ok (by decide +kernel), issues_of_ok (by decide +kernel),
    issues_of_ok (by decide +kernel), issues_of_ok (by decide +kernel), issues_of_ok (by decide +kernel), by unfold State.guardHolds; decide +kernel⟩

/-- A guard that does not hold: g1 is false at the start (R42). -/
theorem test_issues_false_guard : let m : Mv := ⟨.g1, .imm 0⟩
    ¬ (site .compute).guardHolds 0 .compute m ∧ (site .compute).issues 0 .compute (moveBundle m (Trig.ix .ix0 .add).d) ∧
    (site .compute).issues 0 .compute (moveBundle m (Dst.x 0).d) ∧ (site .compute).issues 0 .compute (moveBundle m (Dst.g 0).d) ∧
    (site .compute).issues 0 .compute (moveBundle m (Dst.v 0).d) ∧ (site .compute).issues 0 .compute (moveBundle m (Dst.tail 6).d) :=
  ⟨by unfold State.guardHolds; decide +kernel, issues_of_ok (by decide +kernel), issues_of_ok (by decide +kernel),
    issues_of_ok (by decide +kernel), issues_of_ok (by decide +kernel), issues_of_ok (by decide +kernel)⟩

/-! ### States that meet the hypotheses of the other statements about bundles -/

/-- The word of two moves with G 0, in slots 0 and 1 (R35). -/
def twoMoves (s d s' d' : Nat) : BitVec 256 := BitVec.ofNat 256 ((s * 2 ^ 11 + d) * 2 ^ 64 + (s' * 2 ^ 11 + d') * 2 ^ 88)

/-- R16: the state before issue reaches the decision on a bundle. -/
def atIssue (s : State) (l : Nat) (k : StrandId) : Prop :=
  s.turn = .strand l k ∧ s.mayIssue l k = true ∧ ((s.tile l).strand k).atBreakpoint = false

theorem test_meets_RoundTrip : (Instr.moveToX m5 63).wellFormed = true ∧ encode (.moveToX m5 63) = some (moveWord 0 5 0x0BF) := by decide +kernel

theorem test_meets_StepRunsDecoded : (site .drain).agenda = [] ∧ (site .drain).turn = .strand 0 .drain ∧
    ({ site .feed with agenda := [(.gateArm, {})] } : State).agenda = (.gateArm, {}) :: [] := ⟨rfl, rfl, rfl⟩

theorem test_meets_StepKeeps : State.reset.powerOk = true ∧ State.reset.memoryOk = true ∧ (∃ t, step State.reset = .next t) ∧
    (site .feed).powerOk = true ∧ (site .feed).memoryOk = true ∧ ∃ t, step (site .feed) = .next t :=
  ⟨by decide +kernel, by decide +kernel, ⟨_, rfl⟩, by decide +kernel, by decide +kernel, ⟨_, rfl⟩⟩

theorem test_meets_IllegalBundle : atIssue (site .drain) 0 .drain ∧ ∃ r, decodeBundle (BitVec.ofNat 256 (2 ^ 60)) = .error r :=
  ⟨⟨by decide +kernel, by decide +kernel, by decide +kernel⟩, _, rfl⟩

/-- br.ret on an empty return stack (R129). -/
theorem test_meets_PreciseFault : atIssue (site .drain) 0 .drain ∧ ∃ b, decodeBundle (moveWord 0 512 0x02A) = .ok b ∧
    (site .drain).decideBundle 0 .drain b = .fault .stack 1 :=
  ⟨⟨by decide +kernel, by decide +kernel, by decide +kernel⟩, _, rfl, by decide +kernel⟩

/-- mb.wait for 16 messages (R137). -/
theorem test_meets_BundleWaits : atIssue (site .drain) 0 .drain ∧ ∃ b, decodeBundle (moveWord 0 528 0x068) = .ok b ∧
    (site .drain).decideBundle 0 .drain b = .wait :=
  ⟨⟨by decide +kernel, by decide +kernel, by decide +kernel⟩, _, rfl, by decide +kernel⟩

theorem test_meets_SameDestination : ∃ b, decodeBundle (twoMoves 5 0x087 6 0x087) = .ok b ∧ illegalPort .feed b = none ∧
    (bundleDest b).isSome = true := ⟨_, rfl, by decide +kernel, by decide +kernel⟩

theorem test_meets_SameSocket : ∃ b, decodeBundle (twoMoves 5 0x108 6 0x109) = .ok b ∧ illegalPort .feed b = none ∧ bundleDest b = none ∧
    (bundleTrig b).isSome = true := ⟨_, rfl, by decide +kernel, by decide +kernel, by decide +kernel⟩

/-- x5 to x38 and x38 to x5 in one bundle. -/
theorem test_meets_ReadsBeforeWrites : ∃ b, decodeBundle (twoMoves 5 0x0A6 38 0x085) = .ok b ∧ (site .feed).issues 0 .feed b :=
  ⟨_, rfl, issues_of_ok (by decide +kernel)⟩

theorem test_meets_TriggerFrame : (site .feed).fires 0 .feed m0 (.wq .commit) ∧ trigInTile (.wq .commit) = true :=
  ⟨fires_of_ok (by decide +kernel), rfl⟩

/-- Every head holds an entry. -/
def filled (k : StrandId) : State :=
  (site k).modTile 0 (fun t => { t with
    queues := t.queues.map (fun _ => ⟨[(0, 64, 1)], 0⟩),
    streams := t.streams.map (fun x => { x with opened := true, d0 := word (2 ^ 33), cfg := 0x103, next := 1, elems := [⟨0, 1, 0, 0, true⟩] }),
    wq := { t.wq with q15 := [⟨List.replicate 8 1, 0⟩] } })

theorem test_meets_HeaderPops : ∀ q : Fin 16, q.val ≠ 14 → ∃ k, (filled k).issues 0 k (headerBundle { plainHeader with pop := BitVec.ofNat 16 (2 ^ q.val) }) := by
  intro q h
  fin_cases q <;> first
    | exact absurd rfl h
    | exact ⟨.feed, issues_of_ok (by decide +kernel)⟩
    | exact ⟨.compute, issues_of_ok (by decide +kernel)⟩
    | exact ⟨.drain, issues_of_ok (by decide +kernel)⟩

theorem test_meets_HeaderSemaphores : ∀ o ∈ [1, 2, 3],
    (site .feed).issues 0 .feed (headerBundle { plainHeader with semop := o, sem := 63 }) ∧
    (site .feed).issues 0 .feed (headerBundle { plainHeader with rep := 15 }) := by
  intro o h
  fin_cases h <;> exact ⟨issues_of_ok (by decide +kernel), issues_of_ok (by decide +kernel)⟩

/-- A debugger is attached (R128). -/
theorem test_meets_TrapAndBreak :
    atIssue (mod (site .feed) .feed (fun st => { st with dbgctl := 1 })) 0 .feed ∧
    (mod (site .feed) .feed (fun st => { st with dbgctl := 1 })).decideBundle 0 .feed (moveBundle m0 (Trig.sys .brk).d) = .debugHalt ∧
    atIssue (site .feed) 0 .feed ∧ (site .feed).decideBundle 0 .feed (moveBundle m0 (Trig.sys .brk).d) = .fault .brk 0 :=
  ⟨⟨by decide +kernel, by decide +kernel, by decide +kernel⟩, by decide +kernel, ⟨by decide +kernel, by decide +kernel, by decide +kernel⟩,
    by decide +kernel⟩

/-- With BRKM set sys.brk issues (R128, R150). -/
theorem test_fires_brk : (mod (site .feed) .feed (fun st => { st with dbgctl := 16 })).fires 0 .feed m0 (.sys .brk) :=
  fires_of_ok (by decide +kernel)

theorem test_meets_LocalAccesses : selSpace ((site .feed).port64 0 .feed 0x200) = 0 ∧ lsKind .ld16 = .load 2 true ∧ lsKind .vst = .store 128 ∧
    lsKind .axor = .atomic .xor ∧ lsKind .vg64 = .gather 64 ∧ lsKind .vs16 = .scatter 16 ∧ lsKind .vscaddF64 = .scadd .f64 ∧
    accTypeOf (selT ((put (site .drain) .drain 0x200 0x30).port64 0 .drain 0x200)) = some .f64 := by and_intros <;> decide +kernel

/-- An aacc through a handle needs a record of accumulation mode (R70). -/
theorem test_fires_aacc_far :
    ((put (site .compute) .compute 0x200 0x800).modTile 0 (fun t => { t with regions := [{ region with mode := 3, acct := 0 }] })).fires 0 .compute m0
      (.ls .aacc) := fires_of_ok (by decide +kernel)

/-- The misaligned accesses of R164 and R165: an offset of 4 for eight bytes, of 2 for four. -/
theorem test_meets_LocalAtomics : selSpace (((((site .feed).tile 0).strand .feed)).opw 0x200) = 0 ∧ (4#1024).toNat % 8 ≠ 0 ∧
    ((site .feed).tile 0).aaccType (((site .feed).tile 0).strand .feed |>.opw 0x200) = some .i32 ∧ (2#1024).toNat % AccType.i32.width ≠ 0 := by
  and_intros <;> decide +kernel

theorem test_meets_VectorLanes : let x := vxIn { runner with operands := [(0x303, 5)] } 0
    0 < x.n ∧ x.n - 1 < x.n ∧ x.en (x.n - 1) = true ∧ x.isFp = false ∧ x.sat = false ∧
    (vxIn { runner with operands := [(0x302, 2), (0x303, 0x205)] } 0).en 0 = false := by and_intros <;> decide +kernel

theorem test_meets_NetworkControl :
    ((site .feed).tile 0).nx.entryOf 0 = none ∧ ((site .feed).tile 0).nx.mtab.toList.findIdx? Option.isNone = some 0 ∧
    (({ Nx.start with mtab := Nx.start.mtab.set 7 (some (0, 3)) } : Nx).entryOf 0 = some (7, 3)) ∧
    (site .drain).taskOn 0 = some task ∧ task.sched[0]? = some ⟨0, 9, 0, 0, false, 0, 0⟩ ∧
    (site .drain).domainOf 0 = some (0, ⟨0, 0, [0], some 0, some 1, [], 0⟩) := by and_intros <;> decide +kernel

/-! ### States that meet the hypotheses of the statements about the steps of the other agents -/

/-- A second member of the gang, on tile 1. -/
def task1 : Task := { task with uid := 1, gidx := 1, ltn := some 1 }

/-- `site` at a later time, with the second task on tile 1. -/
def base (k : StrandId) : State :=
  ({ site k with time := 10 ^ 12 }.modTile 1 (fun t => { t with owner := some (0, 1) })).modCtx 0 (fun x => { x with tasks := [task, task1], nextUid := 2 })

/-- Strand feed of tile 0 changed, with operands for a step that has no encoding. -/
def evS (a : Args) (f : Strand → Strand) : State := mod { base .feed with args := a } .feed f

/-- Tile 0 changed, with operands for a step. -/
def evT (a : Args) (f : Tile → Tile) : State := { base .feed with args := a }.modTile 0 f

/-- Context 0 changed, with operands for a step. -/
def evC (a : Args) (f : Context → Context) : State := { base .feed with args := a }.modCtx 0 f

/-- Every die cache holds line 9 with its first byte dirty. -/
def dirty9 (s : State) : State := { s with dies := Vector.replicate 8 { Die.empty with cache := [(9, ⟨1, 1, false, [0], [0]⟩)] } }

/-- A stream of elements of 8 bytes, opened at offset 0 of window 0 (R174). -/
def stream : Stream := { Stream.idle with opened := true, d0 := word (2 ^ 33 + 8), cfg := 0x103 }

theorem test_meets_Streams :
    let s := evT { n := 1 } (fun t => { t with streams := t.streams.set 1 stream })
    let r := evT { n := 1 } (fun t => { t with streams := t.streams.set 1 { stream with next := 1, elems := [⟨0, 5, 4, 0, true⟩], refetch := [0] } })
    let h := evT { n := 1 } (fun t => { t with streams := t.streams.set 1 { stream with sel := 0x800, next := 1, elems := [⟨0, 5, 4, 0, false⟩] } })
    (s.streamReady 0 1 = true ∧ selSpace stream.sel = 0 ∧ s.fetchHeld 0 (s.spmAddrs 0 0 0 8) = false) ∧
    (site .feed).streamReady 0 1 = false ∧ ((r.tile 0).streams[1]).refetch = [0] ∧
    ((h.tile 0).streams[1]).elems.find? (fun e => !e.returned) = some ⟨0, 5, 4, 0, false⟩ ∧
    (h.readElement 0 1 (h.tile 0).streams[1] 0).2 = .ok 0 := by and_intros <;> decide +kernel

/-- A flight that lands in cycle 4, on a port of a unit with a hi value. -/
def landing (p : ResPort) (locked : Bool) : Flight := ⟨0, some 4, p, ⟨1, some 9, none⟩, locked⟩

theorem test_meets_ResultsLand :
    let s := evS {} (fun st => { st with flights := [landing .sysRes false], mapped := [⟨63, 9, 4, true, true⟩, ⟨3, 9, 4, true, false⟩] })
    let h := evS {} (fun st => { st with run := .halted, flights := [landing .ix0Res false] })
    let d := evS {} (fun st => { st with flights := [landing .ix0Res true] })
    let full := evS {} (fun st => ({ st with flights := [landing .lsRes true] }).setPort .lsRes ⟨0, true, none⟩)
    let q := evS {} (fun st => ({ st with resumeAt := some 3 }).setPort .sysRes ⟨0, false, some (resV 1, 2)⟩)
    let b := evS {} (fun st => { st with dbgctl := 1, bpa := st.bpa.set 0 (word (2 ^ 63)) })
    let st := fun (s : State) => (s.tile 0).strand .feed
    ((st s).stopped = false ∧ ((st s).flights.filter (fun f => f.port == .sysRes && !f.locked && f.due == some s.cycle)).getLast? = some (landing .sysRes false)) ∧
    ((st h).stopped = true ∧ ((st h).flights.map Flight.id).Nodup ∧ (st h).lockedFlight .ix0Res = false ∧ hiPort .ix0Res = some .ix0Hi) ∧
    ((st d).flights.find? (fun f => f.port == .ix0Res) = some (landing .ix0Res true) ∧ ((st d).port .ix0Res).full = false) ∧
    (((st full).port .lsRes).full = true ∧ (st full).flights.find? (fun f => f.port == .lsRes) = some (landing .lsRes true)) ∧
    ((st q).stopped = false ∧ (st q).resumeAt = some 3 ∧ ((st q).port .sysRes).shadow = some (resV 1, 2) ∧ 3 + 2 ≤ q.cycle + 1) ∧
    ((st s).mapped.filter (fun e => e.reg == 63 && (decide (e.due ≤ s.cycle) && (!(st s).stopped || e.nx)))).getLast? = some ⟨63, 9, 4, true, true⟩ ∧
    ((st b).run = .running ∧ (st b).repLeft = 0 ∧ (st b).atBreakpoint = true) ∧ (st h).run ≠ .running := by and_intros <;> decide +kernel

/-- A store of the first byte of window 0, and a load of tile 1 in flight. -/
def entry : StoreEntry := ⟨0, 0, .window 0 0 0, 1, 7, none, false, false, 0⟩
def peerLoad : Access := ⟨0, 0, .load 8 false, .window 1 0 0, .peer, false, some .lsRes, none, false, false, none, true, false, false, 0, 0, 0⟩

theorem test_meets_PostsAndStores :
    let p := evS {} (fun st => { st with posts := [⟨.sem 63 65535, 0⟩] })
    let g := evS {} (fun st => { st with posts := [⟨.rpub 7, 0⟩] })
    let c := evT {} (fun t => { t with ringCfg := [(7, 0x40040)] })
    let b := evS {} (fun st => { st with sb := [entry] })
    let w := evS {} (fun st => { st with accesses := [peerLoad], sb := [{ entry with id := 1 }] })
    let a := evS {} (fun st => { st with accesses := [peerLoad] })
    let r := evS {} (fun st => { st with accesses := [{ peerLoad with performed := true, map := some 63 }] })
    let st := fun (s : State) => (s.tile 0).strand .feed
    ((st p).posts.filter (fun q => (st p).clearBefore q.after) = [⟨.sem 63 65535, 0⟩] ∧ (p.tile 0).semTakes = [] ∧ 65535 < (p.tile 0).sem 63 + 65535) ∧
    ((st g).posts.filter (fun q => (st g).clearBefore q.after) = [⟨.rpub 7, 0⟩] ∧ (g.tile 0).ringAcq = [] ∧ (g.tile 0).ringCfg = []) ∧
    ((c.tile 0).ringCfg = [(7, 0x40040)] ∧ (c.tile 0).ringAcq = []) ∧
    ((evT {} (fun t => { t with ringAcq := [(7, true)] })).tile 0).ringAcq = [(7, true)] ∧
    ((st b).sb = [entry] ∧ b.mayDrain 0 .feed entry = true) ∧ w.mayDrain 0 .feed { entry with id := 1 } = false ∧
    ((st a).accesses.find? (fun x => x.id == 0) = some peerLoad ∧ a.mayPerform 0 .feed peerLoad = true ∧
      (a.tile 1).nx.gate = .opened ∧ (a.tile 1).nx.gateAt ≤ a.cycle ∧ a.liveFor (a.ctxOf 0) 1 = true ∧ a.otherGang 0 1 = false) ∧
    (let g := a.modTile 1 (fun t => { t with live := false })
     g.liveFor (g.ctxOf 0) 1 = false ∧ (st g).fault = none ∧ (st g).run = .running) ∧
    (a.modCtx 0 (fun x => { x with tasks := [task, { task1 with gangUid := 8 }] })).otherGang 0 1 = true ∧
    ((st r).accesses.find? (fun x => x.id == 0) = some { peerLoad with performed := true, map := some 63 } ∧ peerLoad.ret ≤ r.cycle) := by
  and_intros <;> decide +kernel

theorem test_meets_EngineLandings :
    let s := evT {} (fun t => { t with vu := { t.vu with raccs := [⟨3, 12, [1], 4⟩] } })
    let x := evT {} (fun t => { t with mx := { t.mx with flights := [⟨0, .f16, 0, .invalid, .invalid, 4, 0, []⟩] } })
    let c := dirty9 (evT { n := 7, id := 9 } id)
    let g := fun (m : GateLatch) (n : Nat) (b : Bool) => evT {} (fun t => { t with nx := { t.nx with gate := m, gateAt := n, arrived := b, threshold := 1, idleFor := 1 } })
    ((s.tile 0).vu.raccs = [⟨3, 12, [1], 4⟩] ∧ 4 ≤ s.cycle) ∧
    (x.tile 0).mx.flights.find? (fun f => decide (f.due ≤ x.cycle)) = some ⟨0, .f16, 0, .invalid, .invalid, 4, 0, []⟩ ∧
    ((evT {} (fun t => { t with vu := { t.vu with accPend := [.absorb 7 0 4] } })).tile 0).vu.accPend = [.absorb 7 0 4] ∧
    ((evT {} (fun t => { t with vu := { t.vu with accPend := [.rload 7 [] [] 0 4] } })).tile 0).vu.accPend = [.rload 7 [] [] 0 4] ∧
    ((evT {} (fun t => { t with vu := { t.vu with accPend := [.rsave [0] [1] 4] } })).tile 0).vu.accPend = [.rsave [0] [1] 4] ∧
    (((g .opened 0 false).tile 0).nx.gate = .opened ∧ ((g .opened 0 false).tile 0).nx.threshold ≤ ((g .opened 0 false).tile 0).nx.idleFor) ∧
    (((g .armed 3 false).tile 0).nx.gate = .armed ∧ (g .armed 3 false).cycle ≠ 3 ∧ ((g .armed 3 true).tile 0).nx.arrived = true ∧
      (g .armed 4 false).cycle = 4 ∧ ((g .gated 3 false).tile 0).nx.gate = .gated) ∧
    (c.memoryOk = true ∧ c.args.n = (7 : Fin 8).val ∧ mfind (c.die 7).cache c.args.id = some ⟨1, 1, false, [0], [0]⟩ ∧ c.lineFenced 9 = false ∧
      ∀ i < 4, mfind c.latent (4 * c.args.id + i) = none) := by
  and_intros <;> decide +kernel

/-- The copy that the cpi operands of the tests launch: two elements of 8 bytes from window 0 to window 1, in either order (R271). -/
def copy : Copy := { launchShadow 0 .cpi ((site .feed).tile 0) with due := 0 }

/-- Tile 0 with one copy in channel cpi. -/
def evCopy (a : Args) (x : Copy) : State := evT a (fun t => { t with cpi := { t.cpi with nextXid := 2, copies := [x] } })

theorem test_meets_CopiesAndMessages :
    let s := evCopy { id := copy.order } copy
    let sent := { copy with completed := true, ctl := word (2 ^ 33 + 2 ^ 16 + 3) }
    let bad := evT { id := copy.order } (fun t => { t with cpi := { t.cpi with copies := [{ copy with ssel := word (2 ^ 12 + 5 * 2 ^ 20) }] } })
    (((s.tile 0).channel .cpi).copyAt? copy.order = some copy ∧ copy.completed = false ∧ copy.cancelled = false ∧ copy.due ≤ s.cycle ∧
      (s.tile 0).allBefore .feed copy.after = true ∧ copy.done = 0 ∧ 1 < copy.total ∧ (s.tile 0).canMove .cpi s.cycle copy.esz = true ∧
      cpKind 0 copy.ssel = 0 ∧ cpKind 0 copy.dsel = 0 ∧
      ∀ j < copy.total, sideLoc (s.tile 0) 0 copy.ssel copy.soff copy.sdims j = .window 0 0 (8 * j) ∧
        sideLoc (s.tile 0) 0 copy.dsel copy.doff copy.ddims j = .window 0 1 (8 * j) ∧
        copyHeld (s.tile 0) s.cycle copy (s.spmAddrs 0 0 (8 * j) copy.esz) (s.spmAddrs 0 1 (8 * j) copy.esz) = false) ∧
    (((evCopy { id := copy.order } { copy with cancelled := true }).tile 0).channel .cpi).copyAt? copy.order = some { copy with cancelled := true } ∧
    (((evCopy { id := copy.order } { copy with completed := true }).tile 0).channel .cpi).copyAt? copy.order = some { copy with completed := true } ∧
    ({ copy with completed := true }.sends = false) ∧
    ((((evCopy { id := copy.order } sent).tile 0).channel .cpi).copies = [sent] ∧ sent.sends = true ∧ sent.messageTile 0 = 0 ∧
      (((evCopy { id := copy.order } sent).tile 0).channel .cpi).held = [] ∧ (((evCopy { id := copy.order } sent).tile 0).strand sent.mstr).mailRoom 4 = true) ∧
    ((bad.copyStep 0 .cpi { copy with ssel := word (2 ^ 12 + 5 * 2 ^ 20) }).2.isSome = true) := by and_intros <;> decide +kernel

/-- Tile 1 holds a message for strand feed of task `uid`. -/
def mailOf (uid : Nat) : State := { base .feed with args := ({ n := 1, uid := uid } : Args) }.modTile 1 (fun t => { t with nx := { t.nx with held := [⟨0, uid, .feed, 9⟩] } })

theorem test_meets_MailboxMessageEnter :
    let s := evS { flag := true } (fun st => { st with mailHeld := [5] })
    let f := evS { flag := true } (fun st => { st with mailHeld := [5], mailbox := List.replicate 16 (0, 1) })
    let r := mailOf 0
    ((s.tile 0).live = true ∧ (s.tile 0).nx.gate = .opened ∧ (s.tile 0).nx.gateAt ≤ s.cycle ∧ (s.tile 0).feed.mailHeld = 5 :: [] ∧
      (s.tile 0).feed.mailRoom s.cycle = true) ∧ (f.tile 0).feed.mailRoom f.cycle = false ∧
    (r.args.n ≠ r.args.l ∧ (r.ctx (r.ctxOf 1)).task? 0 = some task ∧ task.state.over = false ∧ r.liveTile (r.ctxOf 1) task = some 0 ∧
      (r.tile 1).nx.heldFor 0 .feed = some ⟨0, 0, .feed, 9⟩) ∧
    (r.modTile 0 (fun t => { t with live := false })).liveTile (r.ctxOf 1) task = none ∧
    ((mailOf 7).ctx ((mailOf 7).ctxOf 1)).task? 7 = none := by
  and_intros <;> decide +kernel

/-- Accesses of the drain strand: a remote store, a release and an acquire of a handle. -/
def remoteStore : Access := ⟨0, 0, .store 8 5, .window 1 0 0, .near, false, none, none, false, false, none, false, true, false, 0, 0, 0⟩
def release : Access := ⟨0, 0, .release 0 128, .global 0, .far, false, none, none, true, false, some 0, false, true, false, 0, 0, 0⟩
def acquire : Access := ⟨0, 0, .acquire 0 128, .global 0, .far, false, some .nxSres, none, false, true, some 0, true, false, false, 0, 0, 0⟩

/-- Strand drain of tile 0 with one access. -/
def evD (a : Access) : State := mod (base .drain) .drain (fun st => { st with accesses := [a] })

/-- A multicast from tile 1 is on its way to task 0, whose subscription has number `stamp`, with `n` entries in q12. -/
def cast (stamp n : Nat) : State :=
  (evT { n := 1 } (fun t => { t with nx := { t.nx with q12 := List.replicate n (0, 1, 2), mtab := t.nx.mtab.set 7 (some (9, stamp)) } })).modTile 1
    (fun t => { t with nx := { t.nx with mcasts := [⟨0, 0, 9, 3, 5, 4⟩] } })

theorem test_meets_NetworkSteps :
    ((evD remoteStore).mayPerform 0 .drain remoteStore = true ∧ ((evD remoteStore).tile 0).drain.accesses.find? (fun a => a.id == 0) = some remoteStore ∧
      (evD remoteStore).liveFor ((evD remoteStore).ctxOf 0) 1 = true ∧ ((evD remoteStore).tile 1).nx.gate = .opened) ∧
    (evD release).mayPerform 0 .drain release = true ∧ (evD acquire).mayPerform 0 .drain acquire = true ∧
    (let s := evT {} (fun t => { t with nx := { t.nx with subs := [⟨0, false, 7, some 7, 1, 4⟩] } })
     (s.tile 0).nx.subs = ⟨0, false, 7, some 7, 1, 4⟩ :: [] ∧ 4 ≤ s.cycle) ∧
    (let s := cast 3 0
     (s.tile s.args.n).nx.mcasts.find? (fun m => m.dst == 0) = some ⟨0, 0, 9, 3, 5, 4⟩ ∧ s.args.n ≠ 0 ∧ s.liveTile (s.ctxOf 1) task = some 0 ∧
       (s.ctx (s.ctxOf 1)).task? 0 = some task ∧ ((s.tile 0).nx.entryOf 9).map Prod.snd = some 3 ∧ (s.tile 0).nx.gate = .opened ∧
       (s.tile 0).nx.q12Room s.cycle = true) ∧
    (((cast 2 0).tile 0).nx.entryOf 9).map Prod.snd ≠ some 3 ∧ ((cast 3 64).tile 0).nx.q12Room (cast 3 64).cycle = false := by
  and_intros <;> decide +kernel

/-- A scheduled send of 64 bytes to tile 1. -/
def send : SchedSend := ⟨0, 0, 1, 0, 0, 64, 3, 4, false, 0, 0, 0, 0⟩

theorem test_meets_ScheduledSends :
    let s := fun (x : SchedSend) => evT {} (fun t => { t with nx := { t.nx with sends := [x] } })
    let far := { send with gone := true, hop := 1, depart := 0, reached := 4 }
    ((s send).tile 0).nx.sends.find? (fun x => x.idx == 0) = some send ∧ send.depart ≤ (s send).cycle ∧
    (s { send with depart := 5 }).cycle < 5 ∧ gridHops 0 1 = 1 ∧ mget (s send).links (linkAt 0 1 0) 0 ≤ 4 ∧
    gridHops 0 send.dst ≤ far.hop ∧ far.depart + 6 + 5 * 1 + 11 * gridBounds 0 1 + far.delay ≤ ({ s far with cycle := 99 }).cycle ∧
    far.dst ≠ 0 ∧ (s far).liveFor ((s far).ctxOf 0) 1 = true ∧ (s far).sameGang 0 1 = true := by and_intros <;> decide +kernel

theorem test_meets_BarrierComplete :
    let d : Domain := ⟨0, 0, [0], some 0, some 1, [(0, word (2 ^ 32 + 1))], 5⟩
    let s := { evT {} (fun t => { t with nx := { t.nx with barWait := some (0, word (2 ^ 32 + 1)) } }) with domains := [(0, d)] }
    mfind s.domains s.args.n = some d ∧ d.members.Nodup ∧ (∀ i < d.members.length, ∃ w, (i, w) ∈ d.arrivals) ∧ d.due ≤ s.cycle + 1 ∧
    (∀ l ∈ d.members, s.memberOn d l = true) ∧ d.arrivals ≠ [] ∧ ∀ q ∈ d.arrivals, field q.2 39 32 = 1 := by
  and_intros
  · decide +kernel
  · decide +kernel
  · intro i h
    have : i = 0 := by simpa using h
    exact ⟨_, by rw [this]; exact List.mem_singleton.mpr rfl⟩
  all_goals decide +kernel

theorem test_meets_IntegerDivision : ∃ a t u : Word, t = 0 ∧ a = BitVec.ofNat 64 (2 ^ 63) ∧ u = BitVec.ofInt 64 (-1) ∧ u ≠ 0 :=
  ⟨_, _, _, rfl, rfl, rfl, by decide +kernel⟩

/-- A wq trigger of the feed strand waits for its result. -/
def wqFly : Flight := ⟨0, none, .wqRes, resV 0, false⟩

/-- A Weevil region of one block, and the commit of n tokens with its descriptor at home. -/
def evCommit (n d0 : Nat) : State :=
  { (evT {} (fun t => { t with
      regions := [{ region with extent := 2 ^ 24 }], wq := { t.wq with commits := [⟨0, 0, 0, n, 0, 4⟩] }, feed := { t.feed with flights := [wqFly] } }))
    with mem := writeAt [] ((span 0 8).zip (leBytes 8 d0)) }

/-- A posted query whose block lies at 1,024. -/
def post0 : WqQuery := ⟨0, 1024, 1024, 0, none, none, [], false, 0, false, 0, 0, 0, [], [], 0, none, 0⟩

/-- The posted query with GEN read and some words behind it, on a block, descriptor and Q of zeros. -/
def read0 (gen n : Nat) : WqQuery := { post0 with waited := some 3, gen := some gen, got := List.replicate n 0 }

/-- An accepted query of 2^20 tokens. -/
def acc0 : WqQuery := { read0 0 31 with accepted := true, qid := 5, fence := 2 ^ 20, q := List.replicate 64 0x3F80 }

/-- The query on tile 0. -/
def evQuery (x : WqQuery) : State :=
  evT { id := 5 } (fun t => { t with
    regions := [{ region with extent := 2 ^ 24 }], wq := { t.wq with queries := [x], reserved := 16 }, feed := { t.feed with flights := [wqFly] } })

theorem test_meets_WeevilSteps :
    (let s := evCommit 1 0
     (s.tile 0).allBefore .feed 0 = true ∧ ((s.tile 0).regions[0]?).isSome = true ∧ (s.homeWords (s.ctxOf 0) 0 8).2 = .ok (List.replicate 8 0) ∧
       commitCode (List.replicate 8 0) 1 ((((s.tile 0).regions[0]?).map Region.cap).getD 0) = (0, 1) ∧ s.memoryOk = true ∧
       (s.ctx (s.ctxOf 0)).pas 0 8 = some (span 0 8) ∧ (span 0 8).Nodup ∧ s.lineFenced 0 = false) ∧
    (commitCode (List.replicate 8 0) 0 65536).1 = 4 ∧
    (let s := evQuery post0
     (s.tile 0).wq.queries.find? (fun x => !x.accepted) = some post0 ∧ post0.due ≤ s.cycle ∧ (s.tile 0).allBefore .feed 0 = true ∧
       (s.blockWord 0 1024).2 = .ok 0) ∧
    (let w := (evQuery post0).tile 0
     (read0 0 0).nextRead w = some (false, 1032) ∧ (read0 0 7).nextRead w = some (true, 0) ∧ (read0 0 31).nextRead w = none ∧
       ((evQuery post0).homeWords 0 0 1).2 = .ok [0] ∧ ((read0 0 31).finding w 0 0).1 = 0 ∧ ((read0 0 31).finding w 1 0).1 = 1) ∧
    (let s := (evQuery acc0).modCtx 0 (fun x => { x with xlates := [⟨0, 2 ^ 30, 0⟩] })
     (s.tile 0).wq.queries.find? (fun x => x.accepted && x.qid == 5) = some acc0 ∧ acc0.bankDone (s.scanOver acc0) 0 0 = false ∧
       mget (s.stack 0).held 0 0 ≤ s.time ∧ (s.scanLine 0 (keyOff 0)).2.1 = some 0 ∧ (s.scanLine 0 (valueOff 0)).2.1 = some 0) ∧
    ((evQuery acc0).scanLine 0 (valueOff 0)).2.1 = none ∧ bankToken 0 0 < { acc0 with lo := 1 }.lo ∧
    (let x := { acc0 with fence := 0, delivered := 15 }
     ((evQuery x).tile 0).wq.queries = x :: [] ∧ ∀ b < 1024, x.bankDone ((evQuery x).scanOver x) 15 b = true) ∧
    ((evT {} (fun t => { t with tkFlights := [.xlt 0 (2 ^ 22) 4] })).tile 0).tkFlights = .xlt 0 (2 ^ 22) 4 :: [] := by and_intros <;> decide +kernel

/-- A store of the drain strand to package 5, and that package: 16 exports of 4,096 bytes for reading and writing. -/
def op0 : FxOpFlight := ⟨0, 0, .st, 5, 0, 0, 7, 9, 11, false, 0, 0⟩
def peer5 : Peer := ⟨5, 0, true, Vector.replicate 16 ⟨0, 4096, 2⟩, [], [], [], [0], []⟩

/-- The operation in flight on tile 0. -/
def evFx (f : FxOpFlight) : State :=
  { evT {} (fun t => { t with fx := { t.fx with ops := [f], err := [(5, 4)] } }) with peers := [peer5] }

/-- An all-reduce of two FP32 elements with package 5 on window 0, COLLID 7, and its posting by a package. -/
def coll0 : Collective := ⟨0, 0, word (12 * 2 ^ 32 + 2), word 0x0500, word (2 * 2 ^ 44 + 2 ^ 31 + 3 * 2 ^ 24 + 7), 0, 0, true, 0⟩
def posting (f : Nat) : Posting := ⟨f, 0, 0, 0, 7, coll0.cn, coll0.cring, coll0.ccfg, true, false, false, List.replicate 8 0x40, false⟩

/-- The collective on tile 0, semaphore 0 at n, with both packages' postings. -/
def evColl (x : Collective) (n : Nat) : State :=
  { evT { id := 7 } (fun t => { t.setSem 0 n with fx := { t.fx with colls := [x] } }) with peers := [peer5], postings := [posting 0, posting 5] }

theorem test_meets_FabricSteps :
    ((evFx op0).ctx 0).en = true ∧
    (((evFx { op0 with op := .faa, performed := true }).tile 0).fx.ops.find? (fun f => f.id == 0) = some { op0 with op := .faa, performed := true }) ∧
    (let s := (evFx { op0 with fpid := 0 }).modCtx 0 (fun x => { x with exports := Vector.replicate 16 ⟨2 ^ 40, 4096, 2⟩ })
     s.fxMay 0 { op0 with fpid := 0 } = true ∧ s.fpid = 0 ∧ exportErrors (s.ctx 0).exports[(0 : Fin 16)] (s.ctx 0).imagePages .st 0 = 0 ∧
       s.loopback 0 { op0 with fpid := 0 } = none) ∧
    ((evFx op0).fxMay 0 op0 = true ∧ op0.fpid ≠ (evFx op0).fpid ∧ (evFx op0).peer? 5 0 = some peer5 ∧ peer5.routed = true ∧ fxAtomic .st = false ∧
      exportErrors peer5.exports[(15 : Fin 16)] [] .st 4088 = 0 ∧ exportErrors peer5.exports[(15 : Fin 16)] [] .st 4096 ≠ 0 ∧
      (fxNew op0 (List.replicate 8 0)).isSome = true) ∧
    (evFx { op0 with op := .fence }).fxMay 0 { op0 with op := .fence } = true ∧
    (((evColl { coll0 with ready := false } 1).tile 0).fx.colls = [{ coll0 with ready := false }] ∧ collRsem coll0.ccfg = 0 ∧
      ((evColl coll0 1).tile 0).sem 0 = 1 ∧ ((evColl coll0 0).tile 0).sem 0 = 0) ∧
    (let s := evColl coll0 1
     (s.tile 0).fx.colls.find? (fun x => collId x.ccfg == 7) = some coll0 ∧ coll0.clear (s.tile 0) s.cycle = true ∧
       (s.posted 0 7).find? (fun p => p.fpid == s.fpid && p.uid == s.uidOf 0 && !p.retired) = some (posting 0) ∧ field coll0.cb 13 12 = 0 ∧
       collKind coll0.ccfg ≠ 3 ∧ s.collCode (posting 0) false = some 0 ∧
       State.inputsKnown (posting 0) (s.collInputs (posting 0) ((s.tile 0).readSpm (s.spmAddrs 0 0 0 8))) = true) ∧
    ({ evColl coll0 1 with postings := [posting 0, { posting 5 with cn := 0 }] } : State).collCode (posting 0) false = some 1 := by
  and_intros <;> decide +kernel

/-- The task alone, without a gang. -/
def lone : Task := { task with gang := false, ts := 1 }

/-- Context 0 with some tasks, and tile 0, at a late time. -/
def tl (a : Args) (ts : List Task) (g : Context → Context := id) (f : Tile → Tile := id) : State :=
  ((evT a f).modCtx 0 (fun x => { x with tasks := ts })).modCtx 0 g

/-- An empty image at 0. -/
def img0 : Image := ⟨0, 4096, [], [], [], [], [], [], false, []⟩

/-- A launch record that has been read, with order key 2, and a record of which no word has been read. -/
def whole : LaunchRec := ⟨0 :: 2 :: List.replicate 22 0, List.replicate 4 0, []⟩
def unread : LaunchRec := ⟨[], [], []⟩

/-- tk.launch of tile 0 reads the record at 1,024. -/
def launchOf (r : LaunchRec) (g : Context → Context := id) : State :=
  tl { flag := true } [lone] (fun x => g { x with images := [img0] }) (fun t => { t with tkFlights := [.launch 0 ⟨1024, true, r, 4⟩] })

/-- Context 0 with one entry in its launch queue. -/
def queued (g : Context → Context := id) : State := tl {} [lone] (fun x => g { x with images := [img0], lqtail := 1, lqcfg := 1, lqbase := 4096 })

theorem test_meets_Launches :
    (let s := launchOf unread
     (s.tile 0).tkFlights = .launch 0 ⟨1024, true, unread, 4⟩ :: [] ∧ s.taskOn 0 = some lone ∧ (s.tile 0).allBefore .drain 0 = true ∧
       (match (s.readStep 0 (some 0) ⟨1024, true, unread, 4⟩).2 with | .more _ => true | _ => false) = true) ∧
    (let r := (launchOf whole).readStep 0 (some 0) ⟨1024, true, whole, 4⟩
     r.2 = .whole 0 ∧ r.1.launchCode 0 1 (some lone) whole 0 = 0 ∧ r.1.launchCode 0 1 (some lone) whole 1 = 3) ∧
    ((launchOf unread (fun x => { x with xlates := [] })).readStep 0 (some 0) ⟨1024, true, unread, 4⟩).2 = .lost ∧
    ((tl {} []).ctx 0).lqhead = ((tl {} []).ctx 0).lqtail ∧
    (let x := queued.ctx 0
     x.en = true ∧ queued.recovery = false ∧ x.lqhead ≠ x.lqtail ∧ x.ckpt = false ∧ x.recovery = none ∧ x.reading = none) ∧
    (match (queued.readStep 0 none ⟨1024, true, unread, 4⟩).2 with | .more _ => true | _ => false) = true ∧
    (queued.readStep 0 none ⟨1024, true, whole, 4⟩).2 = .whole 0 ∧
    (let k : Kernel := ⟨1, true, true, 1, false, 0, false⟩
     let s := tl { n := 1 } [{ lone with state := .retired }] (fun x => { x with kernels := [k], cqtail := 2 })
     (s.ctx 0).kernels.find? (fun k => k.kid == 1 && k.alive) = some k ∧ (∀ q ∈ (s.ctx 0).tasks, q.kid = 1 → q.state = .retired) ∧
       (∀ j ∈ (s.ctx 0).kernels, j.alive = true → j.kid = 1) ∧ queueSize (s.ctx 0).cqcfg ≤ queueFill (s.ctx 0).cqtail (s.ctx 0).cqhead) := by
  and_intros <;> decide +kernel

/-- An image slot for a task. -/
def slots (x : Context) : Context := { x with imgsize := word (2 ^ 21) }

/-- The task on tile 0 with one record. -/
def rec1 (st : TaskState) (r : Region) : State := tl {} [{ lone with state := st }] id (fun t => { t with regions := [r] })

/-- A task below `lone` in order, which it depends on, off its tile. -/
def below : Task := { lone with uid := 1, ts := 0, state := .ending, slot := none }

theorem test_meets_TaskLifecycle :
    (let q := { lone with state := .accepted, ltn := none, regions := [{ region with weevil := false, pinned := true }] }
     (tl {} [q]).refuses ((tl {} [q]).ctx 0) q = false ∧ (∀ u ∈ q.units (fun _ => true), (((tl {} [q]).ctx 0).translate u).isSome = true) ∧
       q.units (fun r => !r.lazyMap && r.pinned) ≠ []) ∧
    (let q := { lone with state := .waiting, ltn := none, slot := none }
     let s := tl {} [q, below] slots
     (tl {} [q]).depsMet 0 q = true ∧ (tl {} [q, { below with state := .running }]).depsMet 0 q = false ∧
       (tl {} [q, { below with state := .running }]).early 0 q = false ∧ s.depsMet 0 q = false ∧ s.early 0 q = true ∧ s.outranked 0 q = false ∧
       s.placement 0 q = some ([2], [0], none)) ∧
    (let q := { lone with state := .ready, ltn := none, slot := none }
     let s := (tl {} [q] slots).modTile 0 (fun t => { t with owner := none })
     s.outranked 0 q = false ∧ s.placement 0 q = some ([0], [0], none)) ∧
    (let q := { lone with state := .starting }
     let s := tl {} [q] id (fun t => { t with live := false })
     (s.tile 0).owner = some (0, q.uid) ∧ (s.tile 0).feed.fault = none ∧ (s.tile 0).stop = .none ∧ (∀ r ∈ (s.tile 0).regions, r.est = 2) ∧
       s.depsMet 0 q = true) ∧
    (let q := { lone with state := .ending }
     (tl {} [q]).aborting 0 q = false ∧ (∀ p ∈ ((tl {} [q]).ctx 0).tasks, p.keyBelow q = true → regionsOverlap p.regions q.regions = true → p.committed = true) ∧
       below.keyBelow q = true ∧ regionsOverlap below.regions q.regions = true ∧ below.gang = false ∧ below.committed = false) ∧
    (let q := { lone with state := .ending, committed := true, ltn := none, regions := [{ region with ended := true }] }
     (tl {} [q]).onTile 0 q = none ∧ ∀ r ∈ q.regions, r.ended = true ∧ r.est = 2) ∧
    (let f := fun (st : Strand) => { st with run := .ended }
     let s := tl {} [lone] id (fun t => { t with feed := f t.feed, compute := f t.compute, drain := f t.drain })
     s.onTile 0 lone = some 0 ∧ (∀ k ∈ allStrands, ((s.tile 0).strand k).run = .ended ∧ ((s.tile 0).strand k).fault = none) ∧ (s.tile 0).quiet 0 s.cycle false = true) ∧
    ((tl {} [lone]).tile 0).feed.run = .running ∧
    (∀ r ∈ ((rec1 .ending { region with stageOut := true, windowRead := true }).tile 0).regions, r.stageOut = true → r.windowRead = true) ∧
    (let q := { lone with state := .starting }
     (rec1 .starting { region with est := 0 }).startMay 0 q { region with est := 0 } = true ∧
       (tl {} [q, below]).startMay 0 q { region with est := 0 } = false ∧
       (rec1 .starting { region with est := 1, stageIn := true, extent := 128 }).specRoom 0 [(region.base, 128)] = true ∧
       (match (((rec1 .starting region).acquireRange (dieOf 0) 0 0 128).readGlobal 0 0 128).2 with | .ok _ => true | .error _ => false) = true) ∧
    (let q := { lone with state := .ending, committed := true }
     (tl {} [q]).endReady 0 q 0 region = true ∧ (tl {} [lone]).endReady 0 lone 0 { region with closed := true } = true ∧ ((tl {} [q]).ctx 0).tasks = [q]) := by
  and_intros <;> decide +kernel

/-- A tile whose strands have halted. -/
def halted (t : Tile) : Tile :=
  let f := fun (st : Strand) => { st with run := .halted }
  { t with feed := f t.feed, compute := f t.compute, drain := f t.drain }

/-- A fault of a strand, and poison. -/
def bad : FaultInfo := ⟨.trap, .precise, 0, 0, none, false⟩
def poison : FaultInfo := { bad with code := .memPoison, poison := some (1, 0) }

/-- Tile 0 of the task alone; and a gang of two on tiles 0 and 1. -/
def onTile0 (f : Tile → Tile) : State := tl {} [lone] id f
def pair (f : Tile → Tile) : State := tl {} [{ task with gw := 2 }, { task1 with gw := 2 }] id f

/-- The stop token of a strand of tile 0. -/
def tokenAt (k : StrandId) (n : Nat) : State := (onTile0 (fun t => { t with stop := .token })).modTile 0 (fun t => t.modStrand k (fun st => { st with token := some n }))

theorem test_meets_StopToken :
    (((onTile0 (fun t => { t with stop := .requested })).tile 0).stop = .requested ∧ (onTile0 id).mayStop 0 = true ∧ ((onTile0 id).tile 0).live = true ∧
      ((onTile0 (fun t => { t with live := false })).tile 0).live = false) ∧
    (let s := tl {} [{ lone with noticed := some 0 }]
     (s.tile 0).stop = .none ∧ (s.taskOn 0).any (fun q => q.noticed.any (fun n => s.elapsed n 20000)) = true) ∧
    ({ pair id with domains := [(0, ⟨0, 0, [0, 1], some 0, some 1, [], 0⟩)] } : State).mayStop 0 = false ∧
    (((tokenAt .compute 65).tile 0).stop = .token ∧ ((tokenAt .compute 65).tile 0).compute.token = some 65) ∧
    ((tokenAt .drain 64).tile 0).drain.issuedAt ≠ (tokenAt .drain 64).cycle + 1 ∧ ((tokenAt .drain 1).tile 0).drain.run = .running ∧
    ((mod (tokenAt .drain 1) .drain (fun st => { st with issuedAt := 5 })).tile 0).drain.issuedAt = (tokenAt .drain 1).cycle + 1 ∧
    ((tokenAt .feed 0).tile 0).feed.token = some 0 := by and_intros <;> decide +kernel

theorem test_meets_Faults :
    (let s := pair (fun t => { t with feed := { t.feed with fault := some bad } })
     (s.taskOn 0).isSome = true ∧ (s.tile 0).live = true ∧ (s.tile 0).faulted = true ∧ (s.tile 0).poisoned = false ∧ (s.tile 0).stop ≠ .draining ∧
       s.onTile 0 task1 = some 1 ∧ (s.tile 1).abort = none ∧ (s.tile 1).stop = .none) ∧
    ((onTile0 id).tile 0).faulted = false ∧
    (let s := pair (fun t => { t with abort := some ⟨.domainAbort, 1, 10 ^ 12⟩, nx := { t.nx with barWait := some (0, 1) } })
     (s.tile 0).abortPends = true ∧ s.abortPoint 0 = true ∧ 10 ^ 12 ≤ s.time) ∧
    (onTile0 id).abortPoint 0 = false ∧
    (let s := onTile0 (fun t => { halted t with stop := .draining })
     s.taskOn 0 = some lone ∧ lone.speculating = false ∧ ((s.ctx 0).tasks.map Task.uid).Nodup ∧ s.stopSettled 0 = true ∧ s.gangSettled 0 0 lone = true) ∧
    (onTile0 id).stopSettled 0 = false ∧
    (let s := tl {} [] id (fun t => { t with owner := none, probes := 9 })
     (s.tile 0).probes = 9 ∧ s.taskOn 0 = none ∧ (s.die (dieOf 0)).spares.min? = some 200 ∧
       (({ s with dies := Vector.replicate 8 { Die.empty with spares := [] } } : State).die (dieOf 0)).spares = []) ∧
    (let s := onTile0 (fun t => { t with feed := { t.feed with fault := some poison } })
     s.taskOn 0 = some lone ∧ (s.tile 0).stop ≠ .aborting ∧ (s.ctx 0).recovery = none ∧ (s.tile 0).feed.fault = some poison) := by
  and_intros <;> decide +kernel

/-- A READY task that waits for a place. -/
def high : Task := { lone with uid := 1, prio := 1, state := .ready, ltn := none, slot := none }

theorem test_meets_Stops :
    (let q := { lone with state := .starting, hasImage := true }
     (tl {} [q]).onTile 0 q = some 0 ∧ (tl {} [q]).depsMet 0 q = true ∧ (tl {} [q, below]).depsMet 0 q = false ∧ q.speculating = false) ∧
    (let q := { lone with state := .stopped, hasImage := true, ltn := none }
     let s := tl {} [q] id (fun t => { t with owner := none })
     (s.ctx 0).task? 0 = some q ∧ (s.ctx 0).recordHeld q = false ∧ (∀ y ∈ s.ctxs, ∀ z ∈ y.2.tasks, z.state ≠ .ready) ∧ s.choose q = some [0] ∧
       ({ s.ctx 0 with fqHeld := [⟨0, 0, 0, 1⟩] } : Context).recordHeld q = true) ∧
    (let s := tl { uid := 1 } [lone, high]
     let all := s.ctxs.flatMap (fun p => p.2.tasks.map (fun q => (p.1, q)))
     (s.ctx 0).task? 1 = some high ∧ s.elapsed high.readyAt 100000 = true ∧ s.placement 0 high = none ∧ (∀ p ∈ all, p.2.noticed = none) ∧
       firstBy (fun p q => victimBefore p.2 q.2) (all.filter (fun p => p.2.state == .running && decide (p.2.prio < high.prio) &&
         (s.onTile p.1 p.2).any (fun l => (s.tile l).stop == .none && s.mayStop l))) = some (0, lone) ∧
       ({ s with time := 100 } : State).elapsed high.readyAt 100000 = false) ∧
    (let x := (tl {} [] (fun x => { x with logsize := 128, log := [(9, 0)] })).ctx 0
     x.ckpt = false ∧ x.en = true ∧ 0 < x.logsize.toNat ∧ 7 * x.logsize.toNat ≤ 8 * (136 * x.log.length)) ∧
    (let x := (dirty9 (tl {} [] (fun x => { x with ckpt := true }))).ctx 0
     x.ckpt = true ∧ x.recovery = none ∧ x.tasks = []) ∧
    (let k : Kernel := ⟨1, true, false, 0, false, 0, false⟩
     let s := tl { n := 1, flag := true } [lone] (fun x => { x with wdog := 1 })
     (s.ctx 0).kernels.find? (fun k => k.kid == 1 && k.alive) = some k ∧ (s.ctx 0).wdog ≠ 0 ∧ s.elapsed k.startedAt 1000000 = true ∧
       (∀ q ∈ (s.ctx 0).tasks, q.kid = 1 → q.state ≠ .accepted)) ∧
    (let s := tl { row := 1 } [lone] (fun x => { x with recovery := some ⟨[1], false, [], 0, [], [], true⟩, boundaryUid := 5 })
     (s.ctx 0).recovery = some ⟨[1], false, [], 0, [], [], true⟩ ∧ (∀ q ∈ (s.ctx 0).tasks, ∀ l, s.onTile 0 q = some l → (s.tile l).ranOut = true) ∧
       (s.ctx 0).boundary = [] ∧ ∀ q ∈ (s.ctx 0).tasks, q.uid < (s.ctx 0).boundaryUid) := by
  and_intros <;> decide +kernel

/-- A ready package, with one context of one task. -/
def hosted (a : Args) (f : Context → Context := id) : State := { tl a [lone] f with ready := true }

/-- Page c of BAR0, at an offset. -/
def pageReg (c off : Nat) : Nat := 0x100000 + 0x1000 * c + off

theorem test_meets_HostRegisters :
    (256 ≤ ({ c := 256 } : Args).c ∧ (tl {} []).ready = false) ∧
    (countOk 0 1 0 = true ∧ countOk 0 2 0 = false ∧ queueSize 0 ≤ queueFill 1 0) ∧
    (let x := { hosted { v := word (2 ^ 63 + 2 ^ 21) } with ready := true }
     field x.args.v 47 0 / 2 ^ 21 * 2 ^ 21 = 2 ^ 21 ∧ bit x.args.v 63 = true) ∧
    (let x := (hosted {} (fun x => { x with hmsgt := word (2 ^ 17) })).ctx 0
     field x.hmsgt 17 16 ≠ 3 ∧ ((hosted {}).tile (field x.hmsgt 10 0)).owner.any (fun o => o.1 == 0) = true ∧
       ((hosted {}).tile 5).owner.any (fun o => o.1 == 0) = false) ∧
    (let s := hosted {} (fun x => { x with dbgsel := word (2 ^ 16) })
     s.debugTarget 0 = some (0, .compute) ∧ ((s.tile 0).strand .compute).run = .running) ∧
    ((5 : Nat) ≠ (hosted {}).fpid) ∧
    (let x := (hosted {} (fun x => { x with cqPending := true, fqPending := true })).ctx 0
     x.cqPending = true ∧ x.cqRaised = 0 ∧ x.fqPending = true ∧ x.fqRaised = 0) ∧
    (let s := hosted {} (fun x => { x with cqPending := true, cqRaised := 10 ^ 12 })
     (s.ctx 0).cqRaised ≠ 0 ∧ s.elapsed ((s.ctx 0).cqRaised - 1) 1000 = false) ∧
    ((hosted {}).featAcc[(3 : Fin 4)] = none ∧ ({ hosted {} with featAcc := Vector.replicate 4 (some 3) } : State).featAcc[(0 : Fin 4)].isSome = true) ∧
    pageReg 255 0x98 = 0x100000 + 0x1000 * 255 + 0x98 ∧
    (let s := hosted { addr := hbmSize - 8, n := 8 }
     s.args.addr + s.args.n ≤ hbmSize ∧ (s.homeRead (span s.args.addr 8)).2 = some (List.replicate 8 0) ∧
       (({ s with poison := [lineOf (hbmSize - 8)] } : State).homeRead (span s.args.addr 8)).2 = none ∧ s.latent = []) ∧
    (let s := hosted { addr := 128, bytes := some [1, 2] }
     s.memoryOk = true ∧ ∀ p ∈ span 128 2, s.imagePage p = false ∧ s.lineFenced (lineOf p) = false) ∧
    hbmSize < hbmSize - 1 + [(1 : Byte), 2].length := by and_intros <;> decide +kernel

/-- A firmware image that a die with key hash 9 and minimum 3 accepts. -/
def goodImg : FwImage := ⟨true, 3, 7, 9⟩

/-- Die 7 in some stage of its boot. -/
def die7 (f : Die → Die) : State := { State.reset with args := { n := 7, img := goodImg } }.modDie 7 (fun e => f { e with keyHash := 9, minVersion := 3 })

theorem test_meets_Management :
    (let e := (die7 id).die 7
     (die7 id).args.n = (7 : Fin 8).val ∧ e.recovery = false ∧ e.bootStage < 4 ∧ goodImg.sigOk = true ∧ goodImg.key = e.keyHash ∧ e.minVersion ≤ goodImg.version ∧
       ¬ e.minVersion ≤ 2) ∧
    (((die7 (fun e => { e with bootStage := 4 })).die 7).bootStage = 4 ∧ recordOk [] = true ∧ recordOk (List.replicate 18 0 ++ [1]) = false) ∧
    (let s := { die7 id with dies := Vector.replicate 8 { Die.empty with bootStage := 5 } }
     ∀ j : Fin 8, j ≠ 7 → (s.die j).bootStage = 5 ∧ (s.die j).recovery = false) ∧
    ((die7 (fun e => { e with recovery := true, bootStage := 5 })).die 7).recovery = true ∧ (40 = 5 * (7 : Fin 8).val + (4 : Fin 5).val + 1) ∧
    (let s := { base .feed with args := { n := 4201 } }
     s.pwrlim < s.args.n ∧ s.governor.last = 0 ∧ ¬ 11 * s.pwrlim < 10 * s.args.id) ∧
    (let s := { base .feed with governor := ⟨0, false, false, none, 10 ^ 12⟩ }
     s.governor.last ≠ 0 ∧ s.elapsed (s.governor.last - 1) 50000 = false) ∧
    (let s := { base .feed with args := { n := 3990 }, governor := ⟨2, true, true, some 0, 0⟩ }
     ¬ s.pwrlim < s.args.n ∧ 100 * s.args.n ≤ 95 * s.pwrlim ∧ s.elapsed 0 1000000 = true ∧ s.elapsed (10 ^ 12 - 1) 1000000 = false ∧
       ¬ 100 * 3991 ≤ 95 * s.pwrlim) ∧
    (7 ∈ ({ base .feed with linkDown := [7] } : State).linkDown ∧ 0 ∉ (base .feed).linkDown ∧ (7 : Nat) < 8) := by
  and_intros <;> decide +kernel

/-- A stack changed, at a late time. -/
def stack15 (f : Stack → Stack) : State := { base .feed with args := { n := 15, id := 1 } }.modStack 15 f

theorem test_meets_Stacks :
    (let k := (stack15 (fun k => { k with refreshes := 1025, acts := [(rowKey 1 49151, 3)] })).stack 15
     k.nextRefresh ≤ (base .feed).time ∧ k.bankFenced (k.refreshes % 1024) = false ∧ risingFrom 0 k.acts = true ∧
       mget k.acts (rowKey 1 (k.physicalRow 1 49151)) 0 + 1 < k.actth) ∧
    (base .feed).time < ((stack15 (fun k => { k with nextRefresh := 10 ^ 12 + 1 })).stack 15).nextRefresh ∧
    ((stack15 (fun k => { k with fenced := [0] })).stack 15).bankFenced 1 = true ∧
    (let k := (stack15 (fun k => { k with acts := [(rowKey 1 5, 4095)] })).stack 15
     k.actth ≤ mget k.acts (rowKey 1 (k.physicalRow 1 5)) 0 + 1) ∧
    bit (mget ((stack15 id).stack 15).remap (32 * 1023 + 31) 0) 31 = false ∧
    (let k := (stack15 (fun k => { k with remap := [(32, 0x80000005)] })).stack 15
     bit (mget k.remap 32 0) 31 = true ∧ mget k.remap 32 0 ≠ mget k.remap2 32 0) ∧
    (let s := { base .feed with args := { err := .uncorrectable, flag := true } }
     (s.ctxs.map (·.1)) = [0] ∧ (∀ q ∈ (s.ctx 0).tasks, ∀ g ∈ q.regions, q.state ≠ .aborted ∧ s.rangeIn (s.ctx 0) g.base g.extent 0 0 = true)) ∧
    ((base .feed).scrubDue = true ∧ ({ base .feed with time := 0, scrubbed := 1 } : State).scrubDue = false ∧ mfind (base .feed).latent 0 = none ∧
      (base .feed).lineFenced 0 = false ∧ mfind ({ base .feed with latent := [(0, .corrected)] } : State).latent 0 = some .corrected) ∧
    (let s := base .feed
     (∀ q ∈ s.ctxs, q.2.mapsWindow 767 = false) ∧ bit (mget s.wintab 767 0) 0 = bit (4 : Word) 0 ∧ s.memoryOk = true ∧ risingFrom 0 s.wintab = true ∧
       (∀ k ∈ windowsOf 767 true, ∀ q ∈ s.ctxs, q.2.mapsWindow k = false) ∧ ∃ q ∈ s.ctxs, q.2.mapsWindow 0 = true) := by
  and_intros <;> decide +kernel

/-- An object of 257 bytes with a task section of no region and a strings section of one byte (R392 to R394). -/
def objWords : List Word :=
  [word (0x47594F42 * 2 ^ 32 + 2 ^ 24 + 2 ^ 16 + 2 * 2 ^ 8), 0, 0, 0, 0, 257, 0, 0, word (9 * 2 ^ 56 + 128), 80, word (8 * 2 ^ 56 + 256), 1] ++
    List.replicate 21 0
def objBytes : List Byte := (objWords.flatMap (fun w => leBytes 8 w.toNat)).take 257

/-- An image at 64 KiB. -/
def imgA : Image := { img0 with base := 65536, size := 257, feed := [0] }

/-- Context 0 with images and no task. -/
def loaded (is : List Image) (f : Context → Context := id) : State := evC { addr := 65536 } (fun x => f { x with tasks := [], images := is })

theorem test_meets_Loader :
    (let s := loaded []
     (match (s.ctx 0).checkLoad s.featAccept objBytes 65536 with | .ok p => p.2 == [] | .error _ => false) = true ∧ s.placeOk 0 65536 257 = true ∧
       s.placeOk 0 1 257 = false ∧ (match (s.ctx 0).checkLoad s.featAccept (objBytes.drop 1) 65536 with | .error g => g == .format | .ok _ => false) = true ∧
       s.memoryOk = true ∧ (s.ctx 0).pas 65536 257 = some (span 65536 257) ∧ (∀ b ∈ span 65536 257, s.lineFenced (lineOf b) = false) ∧
       (s.ctx 0).image? 65536 = none) ∧
    (let s := (loaded []).modTile 0 (fun t => { t with feed := { t.feed with run := .debugHalt } })
     (s.tile 0).owner.any (fun o => o.1 == 0) = true ∧ ((s.tile 0).strand .feed).run = .debugHalt) ∧
    (let x := (loaded [imgA]).ctx 0
     x.image? 65536 = some imgA ∧ x.refs 65536 = 0 ∧ (∀ q ∈ x.tasksOf 65536, q.state ≠ .starting) ∧ (∀ i ∈ x.images, 65536 ∉ i.boundTo) ∧
       (loaded [imgA]).placeOk 0 131072 imgA.size = true) ∧
    ((loaded [imgA, { img0 with boundTo := [65536] }]).ctx 0).refs 65536 = 1 ∧
    lone ∈ ((loaded [imgA] (fun x => { x with tasks := [lone] })).ctx 0).tasksOf 0 ∧
    (let x := (loaded [imgA, { imgA with base := 131072, priv := true }] (fun x => { x with replaced := [(65536, 131072)] })).ctx 0
     x.replaced.find? (fun p => p.1 == 65536) = some (65536, 131072) ∧ x.refs 131072 = 0) := by and_intros <;> decide +kernel

/-! ### Operands that meet the hypotheses about values -/

/-- sys.brk under each value of ATT and BRKM that the rule tells apart (R128). -/
theorem test_meets_BreakByRule : ∀ n ∈ [1, 0, 16],
    let s := mod (site .feed) .feed (fun st => { st with dbgctl := word n })
    let st := (s.tile 0).strand .feed
    let b := moveBundle m0 (Trig.sys .brk).d
    atIssue s 0 .feed ∧ staticCheck .feed (s.tile 0) b = none ∧ s.bundleReady 0 .feed b = true ∧ s.guardHolds 0 .feed m0 ∧ (∀ c, m0.s ≠ .go c) ∧
      st.overruns (s.tile 0) st.pc none = false ∧ bit st.dbgctl 0 = (n == 1) ∧ bit st.dbgctl 4 = (n == 16) := by
  intro n h
  fin_cases h <;> exact ⟨⟨by decide +kernel, by decide +kernel, by decide +kernel⟩, by decide +kernel, by decide +kernel,
    by unfold State.guardHolds; decide +kernel, by simp [m0], by decide +kernel, by decide +kernel, by decide +kernel⟩

/-- The element types of the vector lanes, an enabled and a disabled lane, SAT, and NaN, infinity, zero and a finite number in a lane. -/
theorem test_meets_VectorLanesFp :
    let x := fun (cfg m : Nat) (t : Vec) => vxIn { runner with operands := [(0x302, BitVec.ofNat 1024 m), (0x303, BitVec.ofNat 1024 cfg)] } t
    ((x 12 0 0).isFp = true ∧ (x 12 0 0).f ≠ .e4m3 ∧ (x 12 0 0).n = 32 ∧ (x 12 0 0).en 31 = true) ∧
    ((x 2053 0 0).sat = true ∧ (x 2053 0 0).f.int = some false ∧ (x 2052 0 0).f.int = some true) ∧
    ((x 524 0 0).en 0 = false ∧ (List.range (x 524 0 0).n).filter (x 524 0 0).en = [] ∧
      (List.range (x 524 4 0).n).filter (x 524 4 0).en = [2]) ∧
    (decodeNum .fp32 (lane 32 0x7FC00000 0) = .nan ∧ decodeNum .fp32 (lane 32 0xFF800000 0) = .inf true ∧
      decodeNum .fp32 (lane 32 0x80000000 0) = .fin true 0 (-149) ∧ decodeNum .fp32 (lane 32 0xBF800000 0) = .fin true (2 ^ 23) (-23)) := by
  and_intros <;> decide +kernel

/-- The numbers of an sf lane: NaN, infinities, zero, a negative, a power of two and an integer. -/
theorem test_meets_SpecialValues :
    ([Fmt.bf16, .fp16, .fp32].map Fmt.bits = [16, 16, 32] ∧ (31 : Nat) < 1024 / 32) ∧
    (decodeNum .fp32 0x7FC00000 = .nan ∧ decodeNum .fp32 0x7F800000 = .inf false ∧ decodeNum .fp32 0xFF800000 = .inf true ∧
      (decodeNum .fp32 0x80000000).isZero = true) ∧
    ((decodeNum .fp32 0xBF800000).value = some (-1) ∧ (decodeNum .fp32 0x40000000).value = some ((2 : ℚ) ^ (1 : Int)) ∧
      (decodeNum .fp32 0x40400000).value = some ((3 : Int) : ℚ) ∧ (decodeNum .fp32 0).value = some 0) ∧
    ((mulNum (decodeNum .fp32 0) (decodeNum .fp32 0x7F800000)).1 = .nan ∧ (mulNum (decodeNum .fp32 0x3F800000) (decodeNum .fp32 0xFF800000)).1 = .inf true ∧
      (mulNum (decodeNum .fp32 0x3F800000) (decodeNum .fp32 0x7F800000)).1 = .inf false) := by
  refine ⟨by decide, ⟨by decide +kernel, by decide +kernel, by decide +kernel, by decide +kernel⟩, ⟨?_, ?_, ?_, ?_⟩, by decide +kernel, by decide +kernel, by decide +kernel⟩
  · rw [show decodeNum .fp32 0xBF800000 = .fin true (2 ^ 23) (-23) by decide +kernel]; norm_num [Num.value]
  · rw [show decodeNum .fp32 0x40000000 = .fin false (2 ^ 23) (-22) by decide +kernel]; norm_num [Num.value]
  · rw [show decodeNum .fp32 0x40400000 = .fin false (3 * 2 ^ 22) (-22) by decide +kernel]; norm_num [Num.value]
  · rw [show decodeNum .fp32 0 = .fin false 0 (-149) by decide +kernel]; norm_num [Num.value]

/-- Row sets: cleared, of one and of two lanes, with a NaN and with an infinity. -/
theorem test_meets_RowSets :
    let one := RowSet.cleared.add .fp32 0x3F800000
    let two := one.add .fp32 0x40000000
    let nan := RowSet.cleared.add .fp32 0x7FC00000
    let inf := RowSet.cleared.add .fp32 0xFF800000
    (RowSet.cleared.cnt = 0 ∧ two.cnt = 2 ∧ nan.sum1.num = .nan ∧ nan.sum2.num = .nan ∧ inf.sum1.num = .inf true ∧ inf.sum2.num = .inf false) ∧
    ((∃ u, two.sum1.num.value = some u) ∧ ∃ v, two.sum2.num.value = some v) ∧ decodeNum .fp32 nan.max.toNat = .nan ∧
    (decodeNum .fp32 one.max.toNat ≠ .nan ∧ one.sum1.stk = false ∧ one.sum2.stk = false) := by
  and_intros
  iterate 6 decide +kernel
  · exact ⟨_, rfl⟩
  · exact ⟨_, rfl⟩
  all_goals decide +kernel

/-- cvt between lanes, qnt and dqt at the last part, with a computed and a given scale. -/
theorem test_meets_Conversions :
    let cvt := word (7 * 2 ^ 19 + 12 + 0 * 32)
    let qnt := fun (g : Nat) => word (3 * 2 ^ 19 + g * 2 ^ 17 + 16 * 32 + 12)
    let dqt := word (3 * 2 ^ 19 + 12 * 32 + 16)
    ((cvSrc (word (3 * 2 ^ 19 + 12))).isMx = false ∧ (cvDst (word (3 * 2 ^ 19 + 12))).isMx = false ∧ (3 : Nat) < max 32 8 / min 32 8 ∧ cvSrc cvt = .fp32) ∧
    (∀ g ∈ [0, 1], cvSrc (qnt g) = .fp32 ∧ (cvDst (qnt g)).isMx = true ∧ (qnt g).toNat / 2 ^ 19 % 8 * (1024 / 32 / 32 * (4 * 8)) + 1024 / 32 / 32 * (4 * 8) ≤ 128 ∧
      (qnt g).toNat / 2 ^ 17 % 4 = g) ∧
    (cvDst dqt = .fp32 ∧ (cvSrc dqt).isMx = true) ∧ (decodeNum .fp32 0x7F800000).value = none ∧ lane 8 ((0xFF : Word).setWidth 1024) 0 = 255 := by
  and_intros
  iterate 4 decide +kernel
  · decide +kernel
  iterate 2 decide +kernel
  · rw [show decodeNum .fp32 0x7F800000 = .inf false by decide +kernel]; rfl
  · decide +kernel

/-- Resolves and pairs at the last group, entries with marks and without, at the ends of their words. -/
theorem test_meets_AccumulatorValues :
    (∀ o ∈ [AccOp.resF32, .resBf16, .resF64, .resI32], accResolves o = true) ∧
    ((word (2 ^ 12)).toNat / 2 ^ 12 % 4 ≤ accMaxG .resF64 (bit (word (2 ^ 12)) 15) ∧
      (word (3 * 2 ^ 12)).toNat / 2 ^ 12 % 4 ≤ accMaxG .absorb (bit (word (3 * 2 ^ 12)) 15) ∧
      (word (2 ^ 15 + 2 ^ 12)).toNat / 2 ^ 12 % 4 ≤ accMaxG .emit (bit (word (2 ^ 15 + 2 ^ 12)) 15)) ∧
    (let x : CsEntry := ⟨2 ^ 162 - 1, 0, 2047, false, false, false, false⟩
     x.e < 2048 ∧ -2048 ≤ x.e ∧ -2 ^ 162 ≤ x.w ∧ x.w < 2 ^ 162 ∧ x.w ≠ 0 ∧ ({ x with s := 0 } : CsEntry).w = 0 ∧
       ({ x with s := -2 ^ 159 } : CsEntry).s < 2 ^ 159) ∧
    ((2 ^ 124 : Nat).testBit 124 = true ∧ (2 ^ 127 : Nat).testBit 124 = false ∧ (2 ^ 127 + 2 ^ 124 : Nat).testBit 127 = true) ∧
    ((⟨2 ^ 79 - 1, 0, 2047, false, false, false, false⟩ : CsEntry).align 77 1 2047).2 = true ∧
    ((⟨1, 0, -2048, false, false, false, false⟩ : CsEntry).align 77 1 0).2 = false := by and_intros <;> decide +kernel

/-- Operands of the matrix engine: a dense and a sparse row, a block format, and values that are not finite. -/
theorem test_meets_MatrixValues :
    let x : Latch := { Latch.invalid with lv := true, rows := List.replicate 32 (List.replicate 384 0), lrows := 32, lrb := 384 }
    let b : Latch := { x with rows := List.replicate 32 (List.replicate 768 0), lrb := 768 }
    let f : MxFlight := ⟨0, .f16, 0, x, x, 4, 0, []⟩
    let g : MxFlight := ⟨0, .f16, word (2 ^ 10), { x with lsp := true, mdw := List.replicate 1536 0 }, b, 4, 0, []⟩
    (bit f.word 10 = false ∧ (f.a.rows[31]?).isSome = true ∧ (f.b.rows[31]?).isSome = true ∧ 31 < (mxShapeOf f.op f.word).m ∧ 31 < (mxShapeOf f.op f.word).n) ∧
    (bit g.word 10 = true ∧ 0 < (mxShapeOf g.op g.word).sk ∧ ((mxRowsA g)[31]?).isSome = true) ∧
    ((mxRowsA f).length ≤ 32 ∧ (mxRowsB f).length ≤ 32) ∧
    ((dotTerm [.inf true] [.fin false 1 0]).ninf = true ∧ (dotTerm [.fin false 1 0] [.fin false 1 0]).sum ≠ 0) := by and_intros <;> decide +kernel

/-! ### More states for the steps of the other agents -/

/-- A result of ix0 with a hi value and a guard lands, or waits, at a running strand. -/
theorem test_meets_HiAndGuard : ∀ locked ∈ [false, true],
    let f : Flight := ⟨0, some 4, .ix0Res, ⟨1, some 9, some (1, true)⟩, locked⟩
    let s := evS {} (fun st => { st with flights := [f] })
    let st := (s.tile 0).strand .feed
    st.stopped = false ∧ (st.flights.map Flight.id).Nodup ∧ (∀ g ∈ st.flights, g.port ≠ .ix0Hi) ∧ hiPort .ix0Res = some .ix0Hi ∧
      (∀ g ∈ st.flights, g.res.guard ≠ none → g.port = .ix0Res ∨ g.port = .ix1Res) ∧ (st.port .ix0Res).full = false ∧ 4 ≤ s.cycle ∧
      st.lockedFlight .ix0Res = locked ∧ resOfHi .ix0Hi = some .ix0Res := by
  intro b h
  fin_cases h <;> and_intros <;> decide +kernel

/-- An access of another kind through the same path as `peerLoad`, and one through handle 0. -/
def peerOp (o : AccessOp) : Access := { peerLoad with op := o }
def handleOp (o : AccessOp) : Access := { peerLoad with op := o, loc := .global 1152, path := .handle, handle := some 0 }

theorem test_meets_PeerAccesses :
    (((site .feed).tile 0).ring 0).ph ≠ 0 ∧ (((site .feed).tile 0).ring 7).ch = 0 ∧
    (let e : StoreEntry := { entry with loc := .window 1 0 0, peer := true }
     let s := evS {} (fun st => { st with sb := [e] })
     let g := s.modTile 1 (fun t => { t with live := false })
     s.mayDrain 0 .feed e = true ∧ (s.tile 1).nx.gate = .opened ∧ s.liveFor (s.ctxOf 0) 1 = true ∧ s.otherGang 0 1 = false ∧
       g.mayDrain 0 .feed e = true ∧ g.liveFor (g.ctxOf 0) 1 = false ∧ ((g.tile 0).strand .feed).fault = none ∧ ((g.tile 0).strand .feed).run = .running) ∧
    (∀ o ∈ [AccessOp.atomic .add 1 0, .accumulate .f64 1, .gather 64 [(15, .window 1 0 8)], .scatter 64 [(15, .window 1 0 8)] 0],
      let s := evS {} (fun st => { st with accesses := [peerOp o] })
      s.mayPerform 0 .feed (peerOp o) = true ∧ ((s.tile 0).strand .feed).accesses.find? (fun x => x.id == s.args.id) = some (peerOp o) ∧
        s.liveFor (s.ctxOf 0) 1 = true ∧ s.otherGang 0 1 = false) := by
  and_intros
  iterate 10 decide +kernel
  intro o h
  fin_cases h <;> and_intros <;> decide +kernel

theorem test_meets_HandleAccesses :
    (∀ o ∈ [AccessOp.load 8 false, .atomic .add 1 0, .store 128 0], ∀ cached ∈ [false, true],
      let s := (evS {} (fun st => { st with accesses := [handleOp o] }))
      let s := if cached then dirty9 s else s
      s.mayPerform 0 .feed (handleOp o) = true ∧ ((s.tile 0).strand .feed).accesses.find? (fun x => x.id == s.args.id) = some (handleOp o) ∧
        s.speculates 0 = false ∧ (s.tile 0).lazyAt 1152 = false ∧ (s.ctx (s.ctxOf 0)).pas 1152 8 = some (span 1152 8) ∧
        (∀ p ∈ span 1152 8, lineOf p = 9) ∧ s.lineFenced 9 = false ∧ (∀ i < 4, mfind s.latent (4 * 9 + i) = none) ∧ s.poison.contains 9 = false ∧
        (∀ h ∈ (s.die (dieOf 0)).held, h.line ≠ 9) ∧ (s.die (dieOf 0)).cache.length < 393216 ∧ (mfind (s.die (dieOf 0)).cache 9).isSome = cached ∧
        (∀ x ∈ (mfind (s.die (dieOf 0)).cache 9).toList, x.poison = false) ∧ s.memoryOk = true) ∧
    (let a := handleOp (.accumulate .f64 1)
     let s := (evS {} (fun st => { st with accesses := [a] })).modTile 0 (fun t => { t with regions := [{ region with mode := 3 }] })
     s.mayPerform 0 .feed a = true ∧ (s.tile 0).accHandle a.handle = some .i32 ∧ (s.tile 0).owner = some (s.ctxOf 0, 0)) := by
  refine ⟨?_, by and_intros <;> decide +kernel⟩
  intro o ho c hc
  fin_cases ho <;> fin_cases hc <;> and_intros <;> decide +kernel

/-- A release and an acquire of a range, one line of which is cached. -/
theorem test_meets_Ranges :
    (∀ a ∈ [release, acquire], let s := dirty9 (evD a)
      s.mayPerform 0 .drain a = true ∧ s.memoryOk = true ∧ (mfind (s.die (dieOf 0)).cache 9).isSome = true ∧
        (s.ctx (s.ctxOf 0)).translate 1152 = some 1152) ∧
    (let r := { release with op := .release 1100 128 }
     (dirty9 (evD r)).mayPerform 0 .drain r = true ∧ 1100 / 128 ≤ 9 ∧ 9 ≤ (1100 + 128 - 1) / 128) := by
  refine ⟨?_, by and_intros <;> decide +kernel⟩
  intro a h
  fin_cases h <;> and_intros <;> decide +kernel

/-- An operation of another package on an export of this one, and a bank scan that a held bank stops at a row. -/
theorem test_meets_Foreign :
    (let s := (evFx op0).modCtx 0 (fun x => { x with exports := Vector.replicate 16 ⟨0, 4096, 2⟩, images := [] })
     let f : FxOpFlight := { op0 with fpid := s.fpid, exp := 15, off := 4088 }
     (s.ctx 0).en = true ∧ exportErrors (s.ctx 0).exports[(15 : Fin 16)] (s.ctx 0).imagePages .st 4088 = 0 ∧ s.loopback 0 f = some (span 4088 8) ∧
       s.latent = [] ∧ (∀ p ∈ span 4088 8, s.lineFenced (lineOf p) = false ∧ s.poison.contains (lineOf p) = false) ∧ fxAtomic .faa = true ∧
       (fxNew f []).isSome = true) ∧
    (let s := ((evQuery acc0).modCtx 0 (fun x => { x with xlates := [⟨0, 2 ^ 30, 0⟩] })).modStack 0 (fun k => { k with held := [(0, 10 ^ 12 + 1)] })
     acc0.bankDone (s.scanOver acc0) 0 0 = false ∧ (mget acc0.banks 0 (BankScan.start acc0)).next % 4 = 0 ∧ s.time < mget (s.stack 0).held 0 0) := by
  and_intros <;> decide +kernel

/-- The reading of the launch queue: an entry that is there, one without a translation, and one that is poisoned. -/
theorem test_meets_LaunchQueue :
    let here := fun (s : State) => (s.ctx 0).pas ((s.ctx 0).lqbase.toNat + 16 * ((s.ctx 0).lqhead.toNat % queueSize (s.ctx 0).lqcfg)) 16
    let e := ({ queued with mem := writeAt [] ((span 4096 8).zip (leBytes 8 (2 ^ 63 + 1))) } : State)
    ((here queued).isSome = true ∧ (queued.readQueue 0).2 = some (0, 0)) ∧ here (queued (fun x => { x with xlates := [] })) = none ∧
    ((here { queued with poison := [32] }).isSome = true ∧ (({ queued with poison := [32] } : State).readQueue 0).2 = none) ∧
    ((here e).isSome = true ∧ (e.readQueue 0).2 = some (word (2 ^ 63 + 1), 0)) ∧
    ((queued (fun x => { x with xlates := [] })).readStep 0 none ⟨1024, true, unread, 4⟩).2 = .lost := by and_intros <;> decide +kernel

theorem test_meets_StopRules :
    (∀ x ∈ [TaskState.running, .starting], let s := tl {} [{ lone with state := x }] id (fun t => { t with stop := .requested })
      s.mayStop 0 = true ∧ (s.taskOn 0).any (fun q => q.state == .running || q.state == .starting) = true) ∧
    (∀ q, (tl {} [{ lone with state := .ending }]).taskOn 0 = some q → q.state ≠ .running ∧ q.state ≠ .starting) ∧
    (let s := onTile0 (fun t => { t with stop := .draining, feed := { t.feed with fault := some bad } })
     (s.tile 0).faulted = true ∧ (s.tile 0).poisoned = false ∧ s.taskOn 0 = some lone ∧ lone.parked = false ∧
       (tl {} [{ lone with parked := true }]).taskOn 0 = some { lone with parked := true }) ∧
    (let q := { lone with state := .starting, hasImage := true }
     let s := tl {} [q] id (fun t => { t with live := false, regions := [{ region with est := 1 }] })
     s.onTile 0 q = some 0 ∧ (∃ r ∈ (s.tile 0).regions, r.est ≠ 2) ∧ ((tl {} [q]).tile 0).stop = .none ∧ ∀ r ∈ ((tl {} [q]).tile 0).regions, r.est = 2) ∧
    (let q := { lone with state := .waiting, ltn := none, parked := true }
     ((tl { flag := true } [q] (fun x => { x with fqHeld := [⟨0, 0, 0, 1⟩] })).ctx 0).recordHeld q = true ∧ ((tl { flag := true } [q]).ctx 0).recordHeld q = false) ∧
    (let s := tl {} [lone] (fun x => { x with ckpt := true })
     (s.ctx 0).ckpt = true ∧ s.onTile 0 lone = some 0 ∧ (s.tile 0).stop = .none ∧ (s.tile 0).finished 0 s.cycle = false) ∧
    (let s := tl { n := 1 } [lone] (fun x => { x with wdog := 1 })
     s.elapsed 0 (((s.ctx 0).wdog.toNat + 1) * 1000000) = true ∧ (s.tile 0).abort = none ∧ (s.tile 0).stop ≠ .aborting ∧ s.onTile 0 lone = some 0 ∧
       ({ s with time := 600000000 } : State).elapsed 0 (((s.ctx 0).wdog.toNat + 1) * 1000000) = false) := by
  and_intros
  · intro x h
    fin_cases h <;> and_intros <;> decide +kernel
  · intro q h
    have := (show (tl {} [{ lone with state := .ending }]).taskOn 0 = some { lone with state := .ending } by decide +kernel).symm.trans h
    rw [← Option.some.inj this]
    decide
  all_goals decide +kernel

/-- A message to strand 3, which there is not; a die that recovers at the last stage; the governor with and without spacing; a bank that is held,
and one whose refresh is due when an alert comes. -/
theorem test_meets_HostAndStacks :
    (let s := hosted {} (fun x => { x with hmsgt := word (3 * 2 ^ 16), cqtail := 1 })
     field (s.ctx 0).hmsgt 17 16 = 3 ∧ queueSize (s.ctx 0).cqcfg ≤ queueFill (s.ctx 0).cqtail (s.ctx 0).cqhead) ∧
    (((die7 (fun e => { e with recovery := true, bootStage := 4 })).die 7).recovery = true ∧
      ((die7 (fun e => { e with recovery := true, bootStage := 4 })).die 7).bootStage = 4) ∧
    (let g := fun (n : Nat) => ({ base .feed with args := { n := 3000 }, governor := ⟨n, false, false, some 0, 0⟩ } : State)
     100 * (g 2).args.n ≤ 95 * (g 2).pwrlim ∧ (g 2).elapsed 0 1000000 = true ∧ (g 2).elapsed 0 2000000 = true ∧ (g 0).governor.step = 0 ∧
       (g 2).elapsed (10 ^ 12 - 342 * 1500000) 1000000 = true ∧ (g 2).elapsed (10 ^ 12 - 342 * 1500000) 2000000 = false) ∧
    (let k := (stack15 (fun k => { k with held := [(1, 10 ^ 12 + 1)] })).stack 15
     (base .feed).time < mget k.held 1 0) ∧
    (let s := stack15 (fun k => { k with refreshes := 1025, actth := 1 })
     (s.stack 15).nextRefresh ≤ s.time ∧ (s.stack 15).refreshes % 1024 = s.args.id ∧ s.rowOpen 15 1 = false ∧ (s.stack 15).bankFenced 1 = false ∧
       mget (s.stack 15).held 1 0 ≤ s.time ∧ (s.stack 15).actth ≤ mget (s.stack 15).acts (rowKey 1 5) 0 + 1) := by
  and_intros <;> decide +kernel

/-! ### States at the ends of ranges -/

/-- The close of cycle 4 on tile 0, with flags that are due and flags that are not. -/
def closing : State :=
  (site .compute).modTile 0 (fun t => { t with vu := { t.vu with vxStat := 1, flagsDue := [(4, .vx, 16), (5, .vx, 2), (3, .acc, 8)] } })

/-- R188, R249: flags enter the status words at the close of their cycle. -/
theorem test_close_flags :
    let s := { closing with turn := .close }
    s.agenda = [] ∧ 0 ∈ s.liveTiles ∧ (s.tile 0).since ≤ s.cycle ∧
    (match step s with
      | .next t => decide ((t.tile 0).vu.vxStat = 17 ∧ (t.tile 0).vu.accStat = 8 ∧ (t.tile 0).vu.flagsDue = [(5, .vx, 2)])
      | _ => false) = true := by and_intros <;> decide +kernel

/-- A false guard stands before a branch, an end and a cancel (R17). -/
theorem test_meets_FalseGuard : let m : Mv := ⟨.g1, .imm 5⟩
    ¬ (site .feed).guardHolds 0 .feed m ∧ ∀ u ∈ [Trig.br .jmp, .sys .ending, .cp .cpi .cancel], (site .feed).issues 0 .feed (moveBundle m u.d) := by
  refine ⟨by unfold State.guardHolds; decide +kernel, ?_⟩
  intro u h
  fin_cases h <;> exact issues_of_ok (by decide +kernel)

/-- The last element of a copy, one that a later element of the row has overwritten, and a copy of no element. -/
theorem test_meets_CopyElements :
    let last := { copy with begun := true, done := 8 }
    let back := { last with doff := 0, dd := [0] }
    let none0 := { copy with sd := [8], dd := [8] }
    (last.done = 1 * last.esz ∧ 0 < last.esz ∧ 1 < last.total ∧ 1 + 1 = last.total ∧ last.begun = true ∧
      ((evCopy { id := copy.order } last).tile 0).canMove .cpi 4 last.esz = true ∧
      (((evCopy { id := copy.order } last).tile 0).channel .cpi).copyAt? copy.order = some last) ∧
    (∀ j < 2, sideLoc ((site .feed).tile 0) 0 back.dsel back.doff back.ddims j = .window 0 1 0) ∧
    (some 131072 ∈ (site .feed).spmAddrs 0 0 131072 8 ∨ some 131072 ∈ (site .feed).spmAddrs 0 1 0 8) ∧
    (none0.total * none0.esz ≤ none0.done ∧ none0.completed = false ∧ none0.cancelled = false) := by and_intros <;> decide +kernel

/-- A query that is in the middle of a row of bank 1 of stack 15. -/
def midRow : State :=
  let x : WqQuery := { acc0 with fence := 2 ^ 40, banks := [(1024 * 15 + 1, { BankScan.start acc0 with next := 1 })] }
  (evQuery x).modStack 15 (fun k => { k with refreshes := 1025, actth := 1 })

/-- Refreshes and back-offs that wait (R344, R345, R346). -/
theorem test_meets_WaitingBanks :
    let m := fun (o b : List (Nat × Nat)) => stack15 (fun k => { k with owed := o, backOffs := b, nextRefresh := 10 ^ 12 + 1 })
    midRow.rowOpen 15 1 = true ∧ (midRow.stack 15).nextRefresh ≤ midRow.time ∧ (midRow.stack 15).owed = [] ∧ (midRow.stack 15).backOffs = [] ∧
    (midRow.stack 15).bankFenced 1 = false ∧ mget (midRow.stack 15).held 1 0 ≤ midRow.time ∧ (midRow.stack 15).actth ≤ 1 ∧
    (m [(1, 7)] []).rowOpen 15 1 = false ∧ (m [(1, 7)] []).time < ((m [(1, 7)] []).stack 15).nextRefresh ∧ ((m [(1, 7)] [(1, 5)]).stack 15).owed = [(1, 7)] ∧
    ((m [(1, 7)] [(1, 5)]).stack 15).backOffs = [(1, 5)] ∧ (1 : Nat) ∈ ((m [] [(1, 5)]).stack 15).backOffs.map (·.1) := by
  and_intros <;> decide +kernel

/-- A resume from an image with a poisoned line and from one without, a member in ENDING that is stopped no more, probes less than 1 ms apart, a
speculative task without room, a task that stays parked, and a debug resume in a stop. -/
theorem test_meets_LateStops :
    (let q := { lone with state := .starting, hasImage := true }
     let s := tl {} [q]
     s.latent = [] ∧ s.poison = [] ∧ s.lineFenced (lineOf ((s.ctx 0).imgbase.toNat)) = false ∧ (∀ d, (s.stack d).fenced = []) ∧
       ({ s with poison := [lineOf ((s.ctx 0).imgbase.toNat)] } : State).linePoison
         (lineOf ((s.ctx 0).imgbase.toNat)) = true) ∧
    ((tl {} [{ lone with state := .ending }]).taskOn 0 = some { lone with state := .ending }) ∧
    (let s := tl {} [] id (fun t => { t with probedAt := 10 ^ 12 - 1 })
     s.elapsed (s.tile 0).probedAt 1000000 = false ∧ (tl {} []).elapsed ((tl {} []).tile 0).probedAt 1000000 = true) ∧
    (let q := { lone with state := .waiting, parked := true, slot := none, ltn := none }
     q.spec = false ∧ (tl {} [q, below] slots).depsMet 0 q = false) ∧
    (let s := (hosted {} (fun x => { x with dbgsel := word (2 ^ 16) })).modTile 0 (fun t => { t with
       stop := .draining, compute := { t.compute with run := .debugHalt } })
     s.debugTarget 0 = some (0, .compute) ∧ ((s.tile 0).strand .compute).run = .debugHalt ∧ (s.tile 0).stop ≠ .none ∧ (s.tile 0).stop ≠ .requested) := by
  and_intros <;> decide +kernel

/-- The words of an acceptance: a descriptor out of its record, one of eight words, and FP32 triples that are empty, finite and not numbers. -/
theorem test_meets_WeevilValues :
    let t := (evQuery post0).tile 0
    (∃ r, t.regions[0]? = some r ∧ 64 ≤ r.extent) ∧ (∀ r, t.regions[(15 : Nat)]? = some r → r.extent < 64) ∧
    (((word 15).toNat % 16 = 15) ∧ (read0 0 31).got = List.replicate 7 0 ++ List.replicate 8 0 ++ List.replicate 16 0) ∧
    (decodeNum .fp32 (0x7FC00000 : BitVec 32).toNat = .nan ∧ decodeNum .fp32 (0x3F800000 : BitVec 32).toNat ≠ .nan) ∧
    (acc0.q.length = 64 ∧ acc0.qid < 2 ^ 16) := by
  and_intros
  · exact ⟨_, rfl, by decide +kernel⟩
  · intro r h
    rw [show ((evQuery post0).tile 0).regions[(15 : Nat)]? = none by decide +kernel] at h
    exact absurd h (by simp)
  all_goals decide +kernel

/-- A ring of two packages, and its codes: alone, with a route lost, duplicated, and a collective of two inputs (R384, R385). -/
theorem test_meets_CollectiveCodes :
    let s := evColl coll0 1
    let posts := s.postings.filter (fun p => p.job == 0 && p.collid == 7)
    (posting 0 ∈ posts ∧ (posting 0).fpid = s.fpid ∧ (posts.map Posting.fpid).Nodup ∧ s.fpid ∈ ringMembers coll0.cring coll0.ccfg) ∧
    ((s.peer? 5 0).isSome = true ∧ (posting 5).ready = true ∧ (posting 0).agrees (posting 5) = true) ∧
    ({ s with postings := [posting 0] } : State).collCode (posting 0) false = none ∧
    ({ s with postings := [posting 0, { posting 5 with dup := true }] } : State).collCode (posting 0) false = some 5 ∧
    ({ s with peers := [] } : State).collCode (posting 0) false = some 2 ∧
    ({ s with peers := [{ peer5 with lost := [0] }] } : State).collCode (posting 0) false = some 3 ∧ s.collCode (posting 0) true = some 4 ∧
    (collFmt coll0.cn = some .fp32 ∧ [[(0 : Byte)], [1]].length = coll0.ccfg.toNat / 2 ^ 44 % 16) := by and_intros <;> decide +kernel

/-- A die whose speculative tasks have read more than 32,768 lines (R325). -/
theorem test_meets_NoRoom :
    let q := { lone with state := .starting, spec := true, readSet := [9] }
    let s := tl {} [q] id (fun t => { t with regions := [{ region with est := 1, stageIn := true, base := 1280, extent := 128 }] })
    let x := s.ctx 0
    let full := { s with ctxs := List.replicate 182 (0, { x with tasks := List.replicate 182 q }) }
    full.specRoom 0 [(1280, 128)] = false ∧ s.specRoom 0 [(1280, 128)] = true ∧ q.ltn = some 0 := by and_intros <;> decide +kernel

end Sys2Proof.Tests
end

