-- ==== Sys2Proof/Proofs/BundleChecks.lean ====
section
/-! PROOF. What BUNDLE_DEST (R52) and BUNDLE_TRIG (R53) compare, and that a bundle which breaks one of them raises its fault. -/

namespace Sys2Proof.Machine

/-! ### The decoder: a decoded move is a slot's, with a destination other than the null sink -/

/-- R41: a slot whose D is the null sink is empty, or its bundle is refused. -/
theorem decodeSlot_d_ne_zero {w : Nat} {lits : List (BitVec 24)} {k : Nat} {m : Move} (h : decodeSlot w lits k = .ok (some m)) : m.d ≠ 0 := by
  unfold decodeSlot at h
  simp only at h
  split at h
  · cases h
  · split at h
    · cases h
    · split at h
      · cases h
      · next hd =>
        split at h
        · cases h
        · cases h
          exact hd

theorem exists_decodeSlot_of_mem_decodeSlots {w : Nat} {lits : List (BitVec 24)} {ks : List Nat} {ms : List Move} {m : Move}
    (h : decodeSlots w lits ks = .ok ms) (hm : m ∈ ms) : ∃ k ∈ ks, decodeSlot w lits k = .ok (some m) := by
  induction ks generalizing ms with
  | nil =>
    cases h
    cases hm
  | cons k ks ih =>
    unfold decodeSlots at h
    split at h
    · cases h
    · obtain ⟨j, hj, hs⟩ := ih h hm
      exact ⟨j, List.mem_cons_of_mem k hj, hs⟩
    · next n hk =>
      split at h
      · cases h
      · next ns hns =>
        cases h
        rcases List.mem_cons.mp hm with rfl | hm
        · exact ⟨k, List.mem_cons_self, hk⟩
        · obtain ⟨j, hj, hs⟩ := ih hns hm
          exact ⟨j, List.mem_cons_of_mem k hj, hs⟩

/-- The moves of a decoded bundle are those of its eight slots. -/
theorem exists_decodeSlots_of_decodeBundle {w : BitVec 256} {b : Bundle} (h : decodeBundle w = .ok b) :
    ∃ lits, decodeSlots w.toNat lits (List.range 8) = .ok b.moves := by
  unfold decodeBundle at h
  simp only at h
  split at h
  · cases h
  · next ms hms =>
    split at h
    · cases h
    · repeat' (split at h; · cases h)
      cases h
      exact ⟨_, hms⟩

theorem decodeBundle_d_ne_zero {w : BitVec 256} {b : Bundle} (h : decodeBundle w = .ok b) {m : Move} (hm : m ∈ b.moves) : m.d ≠ 0 := by
  obtain ⟨_, hms⟩ := exists_decodeSlots_of_decodeBundle h
  obtain ⟨_, _, hk⟩ := exists_decodeSlot_of_mem_decodeSlots hms hm
  exact decodeSlot_d_ne_zero hk

/-! ### What the two checks compare -/

/-- R52: the check compares D values and guards of two slots. -/
theorem bundleDest_isSome_iff (b : Bundle) : (bundleDest b).isSome = true ↔
    ∃ m ∈ b.moves, ∃ n ∈ b.moves, m.slot ≠ n.slot ∧ m.d = n.d ∧ m.g.exclusive n.g = false := by
  simp only [bundleDest, Option.isSome_map, List.find?_isSome, List.any_eq_true, Bool.and_eq_true, bne_iff_ne, beq_iff_eq, Bool.not_eq_true',
    and_assoc]
  constructor <;> exact fun ⟨m, hm, n, hn, hs, hd, hg⟩ => ⟨m, hm, n, hn, hs.symm, hd.symm, hg⟩

theorem moveSocket_eq_some_iff (m : Move) (x : Nat) : moveSocket m = some x ↔ ∃ t, m.dst = some (.trig t) ∧ trigSocket t = x := by
  unfold moveSocket
  split
  · next h => simp [h]
  · next h => simpa using fun t ht => absurd ht (h t)

theorem moveSocket_eq_iff (m n : Move) : (moveSocket m).isSome = true ∧ moveSocket n = moveSocket m ↔
    ∃ t u, m.dst = some (.trig t) ∧ n.dst = some (.trig u) ∧ trigSocket t = trigSocket u := by
  constructor
  · rintro ⟨hm, hn⟩
    obtain ⟨x, hx⟩ := Option.isSome_iff_exists.mp hm
    obtain ⟨t, ht, rfl⟩ := (moveSocket_eq_some_iff m x).mp hx
    obtain ⟨u, hu, htu⟩ := (moveSocket_eq_some_iff n _).mp (hn.trans hx)
    exact ⟨t, u, ht, hu, htu.symm⟩
  · rintro ⟨t, u, ht, hu, htu⟩
    have hm := (moveSocket_eq_some_iff m _).mpr ⟨t, ht, rfl⟩
    have hn := (moveSocket_eq_some_iff n _).mpr ⟨u, hu, htu.symm⟩
    exact ⟨hm ▸ rfl, hn.trans hm.symm⟩

/-- R53: the check compares the sockets that two slots trigger. -/
theorem bundleTrig_isSome_iff (b : Bundle) : (bundleTrig b).isSome = true ↔
    ∃ m ∈ b.moves, ∃ n ∈ b.moves, m.slot ≠ n.slot ∧ ∃ t u, m.dst = some (.trig t) ∧ n.dst = some (.trig u) ∧ trigSocket t = trigSocket u := by
  simp only [bundleTrig, Option.isSome_map, List.find?_isSome, List.any_eq_true, Bool.and_eq_true, bne_iff_ne, beq_iff_eq, ← moveSocket_eq_iff]
  constructor
  · exact fun ⟨m, hm, hsome, n, hn, hs, he⟩ => ⟨m, hm, n, hn, hs.symm, hsome, he⟩
  · exact fun ⟨m, hm, n, hn, hs, hsome, he⟩ => ⟨m, hm, hsome, n, hn, hs.symm, he⟩

/-! ### A broken check is the bundle's fault -/

/-- A check that reports the slot of a move reports its own code. -/
theorem exists_slot_of_map_isSome {c : FaultCode} {o : Option Move} (h : (o.map fun m => (c, m.slot)).isSome = true) :
    ∃ n, (o.map fun m => (c, m.slot)) = some (c, n) := by
  obtain ⟨m, rfl⟩ := Option.isSome_iff_exists.mp (Option.isSome_map.symm.trans h)
  exact ⟨m.slot, rfl⟩

theorem exists_bundleDest_of_isSome {b : Bundle} (h : (bundleDest b).isSome = true) : ∃ n, bundleDest b = some (.bundleDest, n) :=
  exists_slot_of_map_isSome h

theorem exists_bundleTrig_of_isSome {b : Bundle} (h : (bundleTrig b).isSome = true) : ∃ n, bundleTrig b = some (.bundleTrig, n) :=
  exists_slot_of_map_isSome h

/-- R16 step 1: a failing check of the encoding comes before every stall condition. -/
theorem State.decideBundle_of_staticCheck {s : State} {l : Nat} {k : StrandId} {b : Bundle} {c : FaultCode} {d : Nat}
    (h : staticCheck k (s.tile l) b = some (c, d)) : s.decideBundle l k b = .fault c d := by
  simp only [State.decideBundle, h]

/-- R51, R52: BUNDLE_DEST comes right after ILLEGAL_PORT. -/
theorem staticCheck_of_bundleDest {k : StrandId} {t : Tile} {b : Bundle} {f : FaultCode × Nat} (hport : illegalPort k b = none)
    (hdest : bundleDest b = some f) : staticCheck k t b = some f := by
  simp only [staticCheck, Check.andThen, hport, hdest]

/-- R51, R53: BUNDLE_TRIG comes right after BUNDLE_DEST. -/
theorem staticCheck_of_bundleTrig {k : StrandId} {t : Tile} {b : Bundle} {f : FaultCode × Nat} (hport : illegalPort k b = none)
    (hdest : bundleDest b = none) (htrig : bundleTrig b = some f) : staticCheck k t b = some f := by
  simp only [staticCheck, Check.andThen, hport, hdest, htrig]

/-! ### Sockets -/

/-- The place among the constructors of `Trig` of the unit that a socket number belongs to: ix has two numbers, st four and cp two. -/
def socketUnit (n : Nat) : Nat :=
  if n < 5 then n else if n < 7 then n - 1 else if n < 11 then 6 else if n < 17 then n - 4 else n - 5

theorem socketUnit_trigSocket (t : Trig) : socketUnit (trigSocket t) = t.ctorIdx := by
  cases t
  case ix u o => cases u <;> rfl
  case cp c o => cases c <;> rfl
  case st k o => simp +arith [trigSocket, socketUnit, Trig.ctorIdx]
  all_goals rfl

/-- Triggers of two units have two sockets. -/
theorem trigSocket_ne_of_ctorIdx_ne {t u : Trig} (h : t.ctorIdx ≠ u.ctorIdx) : trigSocket t ≠ trigSocket u := by
  rw [← socketUnit_trigSocket, ← socketUnit_trigSocket] at h
  exact ne_of_apply_ne socketUnit h

theorem trigSocket_st_eq_iff (j k : Fin 4) (o p : StOp) : trigSocket (.st j o) = trigSocket (.st k p) ↔ j = k := by
  simp [trigSocket, Fin.ext_iff]

theorem trigSocket_cp_eq_iff (c d : Channel) (o p : CpOp) : trigSocket (.cp c o) = trigSocket (.cp d p) ↔ c = d := by
  cases c <;> cases d <;> simp [trigSocket]

theorem trigSocket_ix_eq_iff (u v : IxUnit) (o p : IxOp) : trigSocket (.ix u o) = trigSocket (.ix v p) ↔ u = v := by
  cases u <;> cases v <;> simp [trigSocket]

end Sys2Proof.Machine

open Sys2Proof Sys2Proof.Machine

/-- Settles O11: the encodings alone decide BUNDLE_DEST, which comes right after ILLEGAL_PORT among the checks of a bundle. -/
theorem sameDestination : Obligations.SameDestination := by
  unfold Obligations.SameDestination
  intro w b hb
  refine ⟨bundleDest_isSome_iff b, fun m hm => decodeBundle_d_ne_zero hb hm, fun s l k hport hdest => ?_⟩
  obtain ⟨n, hn⟩ := exists_bundleDest_of_isSome hdest
  exact ⟨n, State.decideBundle_of_staticCheck (staticCheck_of_bundleDest hport hn)⟩

/-- Settles O12: BUNDLE_TRIG compares the numbers of sockets, and these tell the sockets of R53 apart. -/
theorem sameSocket : Obligations.SameSocket := by
  unfold Obligations.SameSocket
  refine ⟨bundleTrig_isSome_iff, trigSocket_st_eq_iff, trigSocket_cp_eq_iff, trigSocket_ix_eq_iff, ?_, ?_⟩
  · intro t u
    by_cases h : t.ctorIdx = u.ctorIdx
    · cases t <;> cases u
      case ix.ix => exact trigSocket_ix_eq_iff ..
      case st.st => exact trigSocket_st_eq_iff ..
      case cp.cp => exact trigSocket_cp_eq_iff ..
      all_goals cases h <;> exact iff_of_true rfl trivial
    · refine iff_of_false (trigSocket_ne_of_ctorIdx_ne h) fun hm => h ?_
      split at hm
      any_goals rfl
      exact hm.elim
  · intro s l k b hport hdest htrig
    obtain ⟨n, hn⟩ := exists_bundleTrig_of_isSome htrig
    exact ⟨n, State.decideBundle_of_staticCheck (staticCheck_of_bundleTrig hport hdest hn)⟩

end

