-- ==== Sys2Proof/Proofs/AccumulatorEngine.lean ====
section
/-! PROOF. What acc.clr (R253) leaves in the accumulators of its tile, and that it touches nothing else. -/

namespace Sys2Proof.Machine

/-! ### Accumulators -/

/-- An accumulator that lists no entry is cleared throughout (R246). -/
@[simp] theorem accGet_nil (row col : Nat) : accGet [] row col = AccEntry.cleared := rfl

theorem Vu.acc_modAcc_same (u : Vu) (n : Fin 8) (f : SMap AccEntry → SMap AccEntry) : (u.modAcc n f).acc[n.val] = f u.acc[n.val] :=
  Vector.getElem_set_self ..

theorem Vu.acc_modAcc_other (u : Vu) {n j : Fin 8} (f : SMap AccEntry → SMap AccEntry) (h : j.val ≠ n.val) :
    (u.modAcc n f).acc[j.val] = u.acc[j.val] :=
  Vector.getElem_set_ne n.isLt j.isLt h.symm

/-- Every issue leaves the vector side of a tile to its triggers. -/
theorem vu_eq_of_engine_eq {a b : Tile} (h : a.engine = b.engine) : a.vu = b.vu :=
  (congrArg Tile.vu h :)

/-- ACC of a descriptor, and the number that the operand of clr gives, are the same bits (R250, R253). -/
theorem adAcc_val (w : Word) : (adAcc w).val = w.toNat % 8 := by
  simp [adAcc, field]

/-! ### The start of acc.clr -/

theorem acquires_acc (m : Mv) (d : Nat) (o : AccOp) (v : Vec) : acquires (moveBundle m d) [⟨0, .acc o, v⟩] = false := by
  have hpops : headerPops (moveBundle m d).hdr = [] := headerPops_plain
  have hsem : (moveBundle m d).hdr.semop = 0 := rfl
  simp [acquires, hpops, hsem]

/-- acc.clr is no acquire: it starts in its tile as it is, and empties one accumulator there. -/
theorem afterTrig_clr_tile (s : State) (l : Nat) (k : StrandId) (m : Mv) :
    (s.afterTrig l k m (.acc .clr)).tile l = (s.tile l).modVu (fun u => u.modAcc (adAcc (s.movedW l k m)) (fun _ => [])) := by
  have hstart : (s.beforeTrig l k m (.acc .clr)).tile l = s.tile l := beforeTrig_tile (acquires_acc ..)
  rw [← hstart]
  exact State.tile_modTile_same ..

end Sys2Proof.Machine

open Sys2Proof Sys2Proof.Machine

/-- Settles O43: the start of acc.clr empties the accumulator that it names, and its issue adds only what every issue changes. -/
theorem accumulatorClear : Obligations.AccumulatorClear := by
  unfold Obligations.AccumulatorClear
  intro s l k m hf
  obtain ⟨t, hexec, -, hengine⟩ := fires_answers hf rfl
  rw [afterTrig_clr_tile] at hengine
  have hvu : (t.tile l).vu = (s.tile l).vu.modAcc (adAcc (s.movedW l k m)) (fun _ => []) := vu_eq_of_engine_eq hengine
  refine ⟨rfl, t, hexec, ?cleared, ?others, ?accStat, ?flags, ?engine⟩
  case cleared =>
    intro n hn r _ c _
    obtain rfl : n = adAcc (s.movedW l k m) := Fin.ext (hn.trans (adAcc_val _).symm)
    rw [hvu, Vu.acc_modAcc_same, accGet_nil]
  case others =>
    intro n hn
    rw [hvu]
    exact Vu.acc_modAcc_other _ _ (adAcc_val _ ▸ hn)
  case accStat => rw [hvu]; rfl
  case flags => rw [hvu]; rfl
  case engine => rw [hengine, hvu]; rfl

end
